-- ==== Sys2Proof/Word.lean ====
section
/-! DEFINITION. The word types of the machine (R5, R11, R34, R36) and nothing that a rule could show wrong. -/
namespace Sys2Proof

/-- One byte of memory (R31). -/
abbrev Byte := BitVec 8
/-- A 16-bit halfword. -/
abbrev Half := BitVec 16
/-- A vector register of one lane, and an instruction or literal word (R11, R33). -/
abbrev Word := BitVec 32
/-- A uniform register, an address, or an even/odd register pair (R11, R12). -/
abbrev DWord := BitVec 64
/-- One bit per lane of a wave of up to 1,024 lanes (R158). -/
abbrev LaneMask := BitVec 1024
/-- Space V of R36: v0 to v255. -/
abbrev VReg := BitVec 8
/-- Space K of R36: k0 to k63. -/
abbrev KReg := BitVec 6
/-- Space P of R36: p0 to p7. -/
abbrev PReg := BitVec 3
/-- Space T of R36: a0 to a7. -/
abbrev TReg := BitVec 3
/-- Space SL of R36: format slots 0 to 7. -/
abbrev SlotNo := BitVec 3

/-- Space Q of R36: a predicate source, complemented when neg holds (R37). -/
structure QPred where
  neg : Bool
  p : PReg
  deriving DecidableEq, Repr

end Sys2Proof
end

