-- ==== Sys2Proof/Syntax.lean ====
section
/-! DEFINITION. The steps of the machine: one constructor of Instr for each row of spec/opcode_table.json, an instruction or an
event of the device.  An instruction's first field sw is the S bit of R34; every other field is an operand in its own space
(R36), so that no bit of an encoding is dropped.  An event names the unit it happens to. -/
namespace Sys2Proof

/-- The instructions and events of the opcode table, in the table's order. -/
inductive Instr where
  /-- R96: Adds two vector operands per active lane and fits the exact sum to the element type. -/
  | add (sw : Bool) (d a b : VReg)
  /-- R96: Subtracts vB from vA per active lane and fits the exact difference to the element type. -/
  | sub (sw : Bool) (d a b : VReg)
  /-- R96: Multiplies two vector operands per active lane and fits the exact product. -/
  | mul (sw : Bool) (d a b : VReg)
  /-- R97: Writes the upper half of the exact product of two vector operands. -/
  | mulhi (sw : Bool) (d a b : VReg)
  /-- R96: Computes vA times vB plus vD with a single fit to the type. -/
  | mad (sw : Bool) (d a b : VReg)
  /-- R99: Divides per lane with truncation towards zero as a variable-latency instruction. -/
  | div (sw : Bool) (d a b : VReg)
  /-- R99: Computes the truncating remainder per lane as a variable-latency instruction. -/
  | rem (sw : Bool) (d a b : VReg)
  /-- R101: Writes the smaller of two integer operands per lane. -/
  | min (sw : Bool) (d a b : VReg)
  /-- R101: Writes the larger of two integer operands per lane. -/
  | max (sw : Bool) (d a b : VReg)
  /-- R96: Writes the absolute value of vA per lane, fitted to the type. -/
  | abs (sw : Bool) (d a : VReg)
  /-- R96: Writes zero minus vA per lane, fitted to the type. -/
  | neg (sw : Bool) (d a : VReg)
  /-- R102: Writes the bitwise AND of two operand patterns. -/
  | and (sw : Bool) (d a b : VReg)
  /-- R102: Writes the bitwise OR of two operand patterns. -/
  | or (sw : Bool) (d a b : VReg)
  /-- R102: Writes the bitwise XOR of two operand patterns. -/
  | xor (sw : Bool) (d a b : VReg)
  /-- R102: Writes vA AND NOT vB. -/
  | andn (sw : Bool) (d a b : VReg)
  /-- R102: Writes the bitwise complement of vA. -/
  | not (sw : Bool) (d a : VReg)
  /-- R103: Shifts left by a register count. -/
  | shl (sw : Bool) (d a b : VReg)
  /-- R103: Shifts right logically by a register count. -/
  | shr (sw : Bool) (d a b : VReg)
  /-- R103: Shifts right arithmetically by a register count. -/
  | sar (sw : Bool) (d a b : VReg)
  /-- R103: Rotates left by a register count modulo the width. -/
  | rol (sw : Bool) (d a b : VReg)
  /-- R103: Rotates right by a register count modulo the width. -/
  | ror (sw : Bool) (d a b : VReg)
  /-- R103: Shifts left by an immediate count. -/
  | shli (sw : Bool) (d a : VReg) (n : BitVec 6)
  /-- R103: Shifts right logically by an immediate count. -/
  | shri (sw : Bool) (d a : VReg) (n : BitVec 6)
  /-- R103: Shifts right arithmetically by an immediate count. -/
  | sari (sw : Bool) (d a : VReg) (n : BitVec 6)
  /-- R106: Writes the number of one bits of vA. -/
  | popc (sw : Bool) (d a : VReg)
  /-- R106: Writes the count of leading zero bits of vA. -/
  | clz (sw : Bool) (d a : VReg)
  /-- R106: Writes the count of trailing zero bits of vA. -/
  | ctz (sw : Bool) (d a : VReg)
  /-- R106: Writes the bit-reversed pattern of vA. -/
  | brev (sw : Bool) (d a : VReg)
  /-- R107: Compares two integer operands per lane and writes the condition to a predicate. -/
  | cmp (sw : Bool) (cc : BitVec 5) (pd : PReg) (a b : VReg)
  /-- R109: Copies the whole class-W value of vA to vD. -/
  | mov (sw : Bool) (d a : VReg)
  /-- R109: Copies a uniform register into a vector register or pair in each active lane. -/
  | movk (sw : Bool) (d : VReg) (ka : KReg)
  /-- R98: Adds two uniform registers modulo 2^64 once for the wave. -/
  | addk (sw : Bool) (kd ka kb : KReg)
  /-- R105: Sign-extends the low B bits of vA. -/
  | sext (sw : Bool) (d a : VReg) (n : BitVec 8)
  /-- R105: Zero-extends the low B bits of vA. -/
  | zext (sw : Bool) (d a : VReg) (n : BitVec 8)
  /-- R110: Writes kA plus the sign-extended vB as a 64-bit pair without any access or check. -/
  | lea (sw : Bool) (d : VReg) (ka : KReg) (b : VReg)
  /-- R421: Converts a raw or converted time using a virtual die's offset and rate. -/
  | gtime (sw : Bool) (kd ka kb : KReg)
  /-- R115: Adds two floating operands with one rounding. -/
  | fadd (sw : Bool) (d a b : VReg)
  /-- R115: Subtracts two floating operands with one rounding. -/
  | fsub (sw : Bool) (d a b : VReg)
  /-- R115: Multiplies two floating operands with one rounding. -/
  | fmul (sw : Bool) (d a b : VReg)
  /-- R115: Computes a fused multiply-add with vD as addend and destination. -/
  | fma (sw : Bool) (d a b : VReg)
  /-- R115: Computes a fused multiply-subtract of the addend. -/
  | fms (sw : Bool) (d a b : VReg)
  /-- R115: Computes a fused negated product plus the addend. -/
  | fnma (sw : Bool) (d a b : VReg)
  /-- R115: Computes a fused negated product minus the addend. -/
  | fnms (sw : Bool) (d a b : VReg)
  /-- R116: Returns the smaller floating source, with NaN and signed-zero rules. -/
  | fmin (sw : Bool) (d a b : VReg)
  /-- R116: Returns the larger floating source, with NaN and signed-zero rules. -/
  | fmax (sw : Bool) (d a b : VReg)
  /-- R117: Clears the sign bit of each element. -/
  | fabs (sw : Bool) (d a : VReg)
  /-- R117: Inverts the sign bit of each element. -/
  | fneg (sw : Bool) (d a : VReg)
  /-- R117: Gives each element of vA the sign of vB. -/
  | fsgn (sw : Bool) (d a b : VReg)
  /-- R118: Compares two floating operands and writes the relation to a predicate. -/
  | fcmp (sw : Bool) (cc : BitVec 5) (pd : PReg) (a b : VReg)
  /-- R119: Writes a one-hot class mask of each floating value. -/
  | fclass (sw : Bool) (d a : VReg)
  /-- R121: Approximates the reciprocal within 1 ulp as a variable-latency instruction. -/
  | frcp (sw : Bool) (d a : VReg)
  /-- R121: Approximates the reciprocal square root within 1 ulp. -/
  | frsq (sw : Bool) (d a : VReg)
  /-- R120: Computes a correctly rounded square root. -/
  | fsqrt (sw : Bool) (d a : VReg)
  /-- R120: Computes a correctly rounded quotient. -/
  | fdiv (sw : Bool) (d a b : VReg)
  /-- R122: Computes 2 to the power x within the stated bound. -/
  | fex2 (sw : Bool) (d a : VReg)
  /-- R122: Computes log2 of x within the stated bound. -/
  | flg2 (sw : Bool) (d a : VReg)
  /-- R122: Computes sin of pi times x within the stated bound. -/
  | fsin (sw : Bool) (d a : VReg)
  /-- R122: Computes cos of pi times x within the stated bound. -/
  | fcos (sw : Bool) (d a : VReg)
  /-- R125: Rounds each element to an integral value under RM. -/
  | frnd (sw : Bool) (d a : VReg)
  /-- R129: Converts from the element type to the slot format with clipping and scaling. -/
  | cvt (sw : Bool) (d a : VReg) (slot : SlotNo)
  /-- R129: Converts packed elements to narrower slot-format elements in one register. -/
  | cvtn (sw : Bool) (d a : VReg) (slot : SlotNo)
  /-- R129: Converts from the slot format to the element type with scaling. -/
  | cvtw (sw : Bool) (d a : VReg) (slot : SlotNo)
  /-- R132: Quantises each mask word into a bfp block written to the first W+1 lanes. -/
  | bpack (sw : Bool) (d a : VReg) (slot : SlotNo)
  /-- R133: Decodes a bfp block held in lanes of a mask word into each active lane. -/
  | bunpk (sw : Bool) (d a : VReg) (slot : SlotNo)
  /-- R131: Computes a shared scale for each group of LEN elements. -/
  | mxsc (sw : Bool) (d a : VReg) (slot : SlotNo)
  /-- R144: Loads one element per active lane from the flat address space. -/
  | ld (sw : Bool) (d : VReg) (ka : KReg) (b : VReg)
  /-- R144: Stores one element per active lane to the flat address space. -/
  | st (sw : Bool) (ka : KReg) (b d : VReg)
  /-- R148: Loads one 64-bit value into a uniform register once for the wave. -/
  | ldk (sw : Bool) (kd ka : KReg) (off : BitVec 8)
  /-- R148: Stores one 64-bit uniform value once for the wave. -/
  | stk (sw : Bool) (ka : KReg) (off : BitVec 8) (kd : KReg)
  /-- R289: Loads from the block's own scratchpad per active lane. -/
  | lds (sw : Bool) (d a : VReg) (off : BitVec 8)
  /-- R289: Stores to the block's own scratchpad per active lane. -/
  | sts (sw : Bool) (a : VReg) (off : BitVec 8) (d : VReg)
  /-- R289: Loads from the scratchpad of a gang peer block. -/
  | ldp (sw : Bool) (d : VReg) (ka : KReg) (b : VReg)
  /-- R289: Stores to the scratchpad of a gang peer block. -/
  | stp (sw : Bool) (ka : KReg) (b d : VReg)
  /-- R291: Loads element groups through a buffer record, converting or decoding. -/
  | ldb (sw : Bool) (d a : VReg) (buf : BitVec 8)
  /-- R291: Stores element groups through a buffer record, converting or encoding. -/
  | stb (sw : Bool) (buf : BitVec 8) (a d : VReg)
  /-- R301: Orders earlier accesses on the named paths at the named scope. -/
  | fence (sw : Bool) (kind : BitVec 8) (scope : BitVec 8) (paths : BitVec 4)
  /-- R306: Hints that lines be brought toward the home slice or L1, with no architectural effect. -/
  | pref (sw : Bool) (lvl : BitVec 1) (ka : KReg) (b : VReg)
  /-- R305: Removes the core's decoded L1 lines of the named codec blocks. -/
  | zinv (sw : Bool) (buf : BitVec 8) (ka kb : KReg)
  /-- R305: Waits until the core's earlier block writes to the named blocks are applied. -/
  | zwb (sw : Bool) (buf : BitVec 8) (ka kb : KReg)
  /-- R305: Re-encodes raw zrev blocks with full block writes of their own values. -/
  | zpack (sw : Bool) (buf : BitVec 8) (ka kb : KReg)
  /-- R142: Has no effect, or acts as a pure switch marker with S set. -/
  | nop (sw : Bool)
  /-- R143: Drains results, halts the wave and posts a HALT_INSTRUCTION record. -/
  | halt (sw : Bool)
  /-- R138: Sets PC to kA, with return prediction. -/
  | ret (sw : Bool) (ka : KReg)
  /-- R138: Sets PC to kA. -/
  | jmpi (sw : Bool) (ka : KReg)
  /-- R152: Reads a special register into a uniform register. -/
  | rdsrK (sw : Bool) (kd : KReg) (n : BitVec 8)
  /-- R152: Reads a special register into a vector register in each active lane. -/
  | rdsrV (sw : Bool) (d : VReg) (n : BitVec 8)
  /-- R153: Clears status flags by W1C from kA. -/
  | wrsrStatus (sw : Bool) (ka : KReg)
  /-- R153: Writes the whole mode register from kA, checked as for mode. -/
  | wrsrMode (sw : Bool) (ka : KReg)
  /-- R153: Writes fault0, whose PC field tret uses. -/
  | wrsrFault0 (sw : Bool) (ka : KReg)
  /-- R153: Writes fault1. -/
  | wrsrFault1 (sw : Bool) (ka : KReg)
  /-- R451: Writes the block's sampler control and restarts the period count. -/
  | wrsrSampctl (sw : Bool) (ka : KReg)
  /-- R451: Writes the block's sample ring base and size and resets HEAD to 0. -/
  | wrsrSampbuf (sw : Bool) (ka : KReg)
  /-- R154: Writes the core's 64-bit clk counter to kD. -/
  | clock (sw : Bool) (kd : KReg)
  /-- R155: Raises the precise trap TRAP_INSTRUCTION with a code. -/
  | trap (sw : Bool) (code : BitVec 8)
  /-- R155: Raises BREAKPOINT, or halts the wave when debugging is enabled. -/
  | brk (sw : Bool) (code : BitVec 8)
  /-- R157: Drains results, clears HND and resumes at the PC in fault0. -/
  | tret (sw : Bool)
  /-- R189: Removes the active lanes from the wave for good. -/
  | exit (sw : Bool)
  /-- R206: Moves the wave to the end of its level's issue rotation. -/
  | yield (sw : Bool)
  /-- R205: Returns n octets of the wave to the block's pool. -/
  | give (sw : Bool) (n : BitVec 8)
  /-- R205: Queues for n octets from the pool and waits until granted or broken. -/
  | claim (sw : Bool) (pd : PReg) (n : BitVec 8)
  /-- R455: Writes a mark record to the sample ring when marks are enabled. -/
  | mark (sw : Bool) (v : BitVec 16)
  /-- R415: Writes the hop distance between two virtual dies. -/
  | hops (sw : Bool) (d a b : VReg)
  /-- R96: Adds a 32-bit immediate per lane. -/
  | addi (sw : Bool) (d a : VReg) (imm : Word)
  /-- R96: Subtracts a 32-bit immediate per lane. -/
  | subi (sw : Bool) (d a : VReg) (imm : Word)
  /-- R107: Compares vA with an immediate and writes a predicate. -/
  | cmpi (sw : Bool) (cc : BitVec 5) (pd : PReg) (a : VReg) (imm : Word)
  /-- R104: Extracts a bit field. -/
  | bfx (sw : Bool) (d a : VReg) (pos len : BitVec 6)
  /-- R104: Inserts a bit field into vD. -/
  | bfi (sw : Bool) (d a : VReg) (pos len : BitVec 6)
  /-- R109: Moves a 32-bit immediate, sign-extended for pairs. -/
  | movImm (sw : Bool) (d : VReg) (imm : Word)
  /-- R100: Adds with carry in and carry out through a predicate. -/
  | addc (sw : Bool) (d a b : VReg) (p : PReg)
  /-- R100: Subtracts with borrow in and borrow out through a predicate. -/
  | subb (sw : Bool) (d a b : VReg) (p : PReg)
  /-- R108: Selects vA or vB per lane by a predicate. -/
  | sel (sw : Bool) (d a b : VReg) (q : QPred)
  /-- R136: Branches once for the wave or arm by an any, all or none condition. -/
  | br (sw : Bool) (cond : BitVec 8) (q : QPred) (off : BitVec 30)
  /-- R137: Branches unconditionally to the target. -/
  | bra (sw : Bool) (off : BitVec 30)
  /-- R137: Writes the return address to kD and branches. -/
  | call (sw : Bool) (kd : KReg) (off : BitVec 30)
  /-- R140: Replaces the selected fields of the mode register from the next instruction on. -/
  | mode (sw : Bool) (sel : BitVec 5) (img : Word)
  /-- R185: Splits the wave or arm by a predicate and pushes a reconvergence entry. -/
  | bdiv (sw : Bool) (q : QPred) (target rejoin : BitVec 30)
  /-- R194: Votes a predicate over the member lanes. -/
  | vote (sw : Bool) (op : BitVec 4) (pd : PReg) (q : QPred) (kc : KReg)
  /-- R195: Writes a ballot of a predicate over the member lanes to kD. -/
  | ballot (sw : Bool) (kd : KReg) (q : QPred) (kc : KReg)
  /-- R196: Moves values between member lanes by a register lane index. -/
  | shfl (sw : Bool) (how : BitVec 2) (d a b : VReg) (kc : KReg)
  /-- R196: Moves values between member lanes by an immediate lane index. -/
  | shfli (sw : Bool) (how : BitVec 2) (d a : VReg) (i : BitVec 8) (kc : KReg)
  /-- R198: Reduces vA over the member lanes in the fixed tree order. -/
  | wred (sw : Bool) (op : BitVec 4) (d a : VReg) (kc : KReg)
  /-- R198: Scans vA over the member lanes, inclusive or exclusive. -/
  | wscan (sw : Bool) (excl : Bool) (op : BitVec 3) (d a : VReg) (kc : KReg)
  /-- R197: Broadcasts vA of lane kB to the member lanes. -/
  | bcast (sw : Bool) (d a : VReg) (kb kc : KReg)
  /-- R199: Reads a predicate word of the arm's current mask into kD. -/
  | mget (sw : Bool) (kd : KReg) (n : BitVec 8)
  /-- R199: Writes a predicate word of the arm's current mask from kA. -/
  | mset (sw : Bool) (n : BitVec 8) (ka : KReg)
  /-- R202: Arrives at a barrier word and waits for its generation to change. -/
  | bar (sw : Bool) (ka kb : KReg)
  /-- R202: Arrives at a barrier word and records the arrival. -/
  | bara (sw : Bool) (ka kb : KReg)
  /-- R202: Waits until the recorded barrier's generation changes. -/
  | barw (sw : Bool) (ka : KReg)
  /-- R302: Waits until a 64-bit counter reaches kD and continues at the next instruction. -/
  | waitge (sw : Bool) (ka kd : KReg)
  /-- R304: Waits on a counter and resumes at a continuation address if it waited. -/
  | waitgeCont (sw : Bool) (ka kd : KReg) (off : BitVec 30)
  /-- R294: Performs a returning atomic on flat addresses. -/
  | atomFlat (sw : Bool) (op : BitVec 4) (d : VReg) (ka : KReg) (b c : VReg)
  /-- R294: Performs a returning atomic on the block's own scratchpad. -/
  | atomScr (sw : Bool) (op : BitVec 4) (d b c : VReg)
  /-- R294: Performs a returning atomic on a gang peer's scratchpad. -/
  | atomPeer (sw : Bool) (op : BitVec 4) (d : VReg) (ka : KReg) (b c : VReg)
  /-- R294: Performs compare-exchange on flat addresses. -/
  | atomcFlat (sw : Bool) (d : VReg) (ka : KReg) (b c : VReg)
  /-- R294: Performs compare-exchange on the own scratchpad. -/
  | atomcScr (sw : Bool) (d b c : VReg)
  /-- R294: Performs compare-exchange on a peer scratchpad. -/
  | atomcPeer (sw : Bool) (d : VReg) (ka : KReg) (b c : VReg)
  /-- R294: Performs a non-returning reduction on flat addresses. -/
  | redFlat (sw : Bool) (op : BitVec 4) (ka : KReg) (b c : VReg)
  /-- R294: Performs a non-returning reduction on the own scratchpad. -/
  | redScr (sw : Bool) (op : BitVec 4) (b c : VReg)
  /-- R294: Performs a non-returning reduction on a peer scratchpad. -/
  | redPeer (sw : Bool) (op : BitVec 4) (ka : KReg) (b c : VReg)
  /-- R281: Switches named array banks between storage and compute mode. -/
  | amode (sw : Bool) (banks : BitVec 8) (toC : Bool) (ww : BitVec 2) (expofs : BitVec 11)
  /-- R282: Multiplies input vectors against a compute bank and accumulates into tiles. -/
  | mmac (sw : Bool) (t : TReg) (ka : KReg) (bank : BitVec 3) (gain : BitVec 4) (rep : BitVec 3)
  /-- R283: Sets an accumulator tile to +0. -/
  | mzero (sw : Bool) (t : TReg)
  /-- R284: Reads and converts accumulator rows to registers, scratchpad or a fabric reduction. -/
  | mdrain (sw : Bool) (d : VReg) (t : TReg) (cntm1 : BitVec 5) (col : BitVec 8) (zero : Bool) (tgt : BitVec 2) (slot : SlotNo)
  /-- R285: Writes a bank in weight layout from a column-major source. -/
  | mpack (sw : Bool) (ka : KReg) (bank : BitVec 3)
  /-- R286: Calibrates owned compute-mode banks. -/
  | mcal (sw : Bool) (banks : BitVec 8)
  /-- R287: Writes a status snapshot of a bank to kD. -/
  | mstat (sw : Bool) (kd : KReg) (bank : BitVec 3)
  /-- R331: Starts an asynchronous tensor copy from a parameter block. -/
  | copy (sw : Bool) (ka : KReg)
  /-- R343: Waits for captures and writes a copy-engine snapshot to kD. -/
  | cstat (sw : Bool) (kd ka : KReg)
  /-- R368: Sends one channel entry per active lane after obtaining credits. -/
  | tsend (sw : Bool) (ka : KReg) (b : VReg) (kc : KReg)
  /-- R369: Removes the head entry of the own inbox, waiting if none is visible. -/
  | trecv (sw : Bool) (kd ka : KReg)
  /-- R369: Removes the head entry of the own inbox or returns NONE. -/
  | tpoll (sw : Bool) (kd ka : KReg)
  /-- R369: Removes the tail entry of a victim consumer's inbox or returns NONE. -/
  | tsteal (sw : Bool) (kd ka : KReg)
  /-- R370: Adds a held unit authorised by an earlier one and counts +1. -/
  | tcap (sw : Bool) (ka kb : KReg)
  /-- R370: Removes a held unit and counts -1. -/
  | tdrop (sw : Bool) (ka kb : KReg)
  /-- R371: Computes an entered, left or incremented timestamp. -/
  | tadv (sw : Bool) (kd ka : KReg) (op d ctr : BitVec 2) (n : Half)
  /-- R371: Adds two timestamps counter by counter. -/
  | tsum (sw : Bool) (kd ka kb : KReg)
  /-- R372: Waits until a port's frontier passes a timestamp. -/
  | fwait (sw : Bool) (ka kb : KReg)
  /-- R373: Reads one field of a port's frontier word. -/
  | fread (sw : Bool) (kd ka : KReg)
  /-- R418: Moves the home die of device granules to the issuing die. -/
  | rehome (sw : Bool) (ka kb : KReg)
  /-- R109: Loads a 64-bit immediate into a uniform register. -/
  | movkk (sw : Bool) (kd : KReg) (imm : DWord)
  /-- R27: A variable-latency register result is written and a parked wave may become ready. -/
  | resultWrite (b w i : Nat)
  /-- R379: A deferred fault report reaches the wave's core and becomes pending. -/
  | deferredFaultReport (i : Nat)
  /-- R385: After the 10 us hold-off a covering notification write is made. -/
  | notificationHoldoff (x : Nat)
  /-- R177: Once effects are visible the distributor adds the increment to the completion counter. -/
  | launchComplete (l : Nat)
  /-- R210: A gang that has waited 16 rounds is promoted and closes its cores. -/
  | gangPromotion (l g : Nat)
  /-- R214: A die reports stability at the granted point and releases held launches. -/
  | dieStable (die : Nat)
  /-- R214: After 100 us without a raising request a die lowers its point. -/
  | operatingPointIdleLower (die : Nat)
  /-- R221: A block waiting past the swap threshold is saved and its slots and rows freed. -/
  | swapOut (b : Nat)
  /-- R400: A gang's time slice expires, making it subject to pre-emption. -/
  | timeSliceExpiry (l g : Nat)
  /-- R402: When in-flight work is finished or recorded the gang's blocks are saved. -/
  | gangStopComplete (l g : Nat)
  /-- R408: A wait reaching the hang time posts a HANG_WATCHDOG record. -/
  | hangWatchdog (b w : Nat) (armB : Bool)
  /-- R219: The array arbiter grants a waiting entry whose banks are free. -/
  | arbiterGrant (core : Nat)
  /-- R279: A granted array entry ends, releasing its banks and ORing its flags. -/
  | arrayEntryComplete (core i : Nat)
  /-- R277: A bank's calibration stops being current after 10 ms and temperature drift. -/
  | calibrationLapse (core bank : Nat)
  /-- R231: A bank with more than 64 corrections in 1 s, or retired, becomes lost. -/
  | bankLoss (unit bank : Nat)
  /-- R233: The patrol scrubber visits and corrects a codeword or burst. -/
  | patrolScrub (unit off : Nat)
  /-- R297: An atomic request executes at its target, updating the contention predictor. -/
  | atomicAtTarget (i : Nat)
  /-- R300: A lost atomic response is logged and the requester takes ATOMIC_RESPONSE. -/
  | atomicResponseLost (i : Nat)
  /-- R303: A write applied at a home slice re-runs the armed monitor compares. -/
  | homeSliceWrite (line : Nat)
  /-- R303: A waiter in the retry set repeats its arm-and-compare every 1 us. -/
  | waitgeRetry (b w : Nat) (armB : Bool)
  /-- R301: A fence completes once its kind's conditions hold. -/
  | fenceComplete (b w : Nat) (armB : Bool)
  /-- R257: Sumac takes a block lock and encodes a full or partial block write. -/
  | sumacBlockWrite (i : Nat)
  /-- R257: The lock slice applies a block's bytes and map byte together. -/
  | blockWriteApply (i : Nat)
  /-- R256: Sumac decodes one block once its lock is free. -/
  | sumacBlockRead (i : Nat)
  /-- R334: A copy reads its parameter block after earlier LS writes are performed. -/
  | copyCapture (core i : Nat)
  /-- R339: A copy whose element accesses are done adds CINC to its counter. -/
  | copyComplete (core i : Nat)
  /-- R356: A batch reaching 64 deltas is closed and sent to Cardamom. -/
  | batchFull (core g : Nat)
  /-- R356: A batch 1 us old is closed and sent to Cardamom. -/
  | batchTimer (core g : Nat)
  /-- R357: Cardamom applies a batch atomically and recomputes frontiers. -/
  | batchApply (core : Nat)
  /-- R358: A sent entry arrives pending at the consumer's inbox controller. -/
  | inboxDelivery (i : Nat)
  /-- R360: Cardamom writes a changed frontier word, waking matching waiters. -/
  | frontierWordWrite (g q : Nat)
  /-- R363: Cardamom grants all credits of a tsend by rotation when room exists: of the i-th that waits here, or of n lanes on a channel of a
  shared graph from another device (R431). -/
  | creditGrant (req : Nat ⊕ (Nat × Nat × Nat))
  /-- R364: Cardamom takes or skips an external send ring record. -/
  | externalRecordTake (g : Nat)
  /-- R431: An entry from another device arrives at the owning Cardamom. -/
  | remoteEntryArrival (g : Nat) (chan : Nat) (ts : DWord) (sender : Word) (payload : List Word)
  /-- R431: The owner's report that an entry's +1 is applied clears it as unacknowledged. -/
  | sendAcknowledge (g i : Nat)
  /-- R432: A device holding the token merges its local frontiers and passes it on. -/
  | frontierToken (g : Nat) (round : Nat) (black : Bool) (chains : List (List DWord × Bool))
  /-- R432: A member writes a declared frontier into its frontier words. -/
  | frontierDeclare (g : Nat) (chains : List (List DWord × Bool))
  /-- R423: A host access in the direct window is applied at the effective home slice. -/
  | hostDirectAccess (pa : Nat) (kind : BitVec 3) (wide : Bool) (data : List Byte) (cmp : DWord)
  /-- R424: An aperture access is served as block reads or writes by Sumac. -/
  | apertureAccess (host : Bool) (win off : Nat) (write : Bool) (len : Nat) (data : List Byte)
  /-- R427: A peer device's access is applied at the effective home slice. -/
  | peerRequest (pa : Nat) (kind : BitVec 4) (mode : Word) (data : List Byte) (cmp : DWord)
  /-- R427: A peer request without a response in 1 ms fails. -/
  | peerResponseTimeout (i : Nat)
  /-- R425: A fabric link declared down fails waiting requests and posts records. -/
  | fabricLinkDown (port : Nat)
  /-- R430: A row contribution arrives, and a full round writes results and adds CINC. -/
  | collectiveContribution (x coll memb off : Nat) (row : List Word)
  /-- R396: Firmware removes cached translations of an ASID range on every die. -/
  | shootdown (x : Nat)
  /-- R397: DONE is written when no removed translation can be used. -/
  | shootdownDone (x : Nat)
  /-- R383: Makes a halted wave ready at its saved PC. -/
  | resume (x : Nat)
  /-- R383: Makes a halted wave or arm ready at a given PC. -/
  | resumeAt (x : Nat)
  /-- R383: Ends every wave of a launch, which then completes. -/
  | endLaunch (x : Nat)
  /-- R257: A compute die is reset, releasing its locks and restarting its counters. -/
  | computeDieReset (die : Nat)
  /-- R420: Firmware writes a die's OFS and RATE at one raw tick. -/
  | timeSteer (die : Nat) (ofs : DWord) (rate : Word)
  /-- R207: Firmware creates a context with its ASID, tables and queues. -/
  | contextCreate (number asid root : Nat) (rootHost : Bool) (ccb : DWord) (vdies : List Byte) (saveBase saveSize : Nat) (swapUs hang : Option Nat)
      (slices : Option (List Nat))
  /-- R351: Firmware checks and registers a graph image and writes its frontier words. -/
  | graphRegister (x : Nat) (image : DWord) (group : Option Nat) (place : List Nat)
  /-- R400: Firmware sets a context's per-level time slices. -/
  | timeSliceSet (x : Nat) (slices : List Nat)
  /-- R424: Firmware writes an aperture window descriptor. -/
  | apertureWindowSet (win : Nat) (w0 w1 w2 w3 : DWord)
  /-- R425: Firmware sets the device's fabric number. -/
  | deviceNumberSet (n : Nat)
  /-- R426: Firmware registers a device group ring. -/
  | deviceGroupRegister (group : Nat) (members : List Nat)
  /-- R427: Firmware maps an import window to a peer device. -/
  | importWindowSet (i size dev peerPa : Nat)
  /-- R428: Firmware registers a reduction collective descriptor. -/
  | collectiveRegister (x coll : Nat) (words : List DWord)
  /-- R416: Firmware clears OVR for a range, moving granules back. -/
  | homeOverrideClear (pa len x : Nat)
  /-- R417: Firmware sets or clears ENCG on granules mapped as encoded. -/
  | encgSet (pa len : Nat) (on : Bool)
  /-- R437: A host write of 1 to DUMP clears it. -/
  | devstatWrite (v : DWord)
  /-- R443: A host write clears THROTTLED or WARNED by W1C. -/
  | thrWrite (die : Nat) (v : DWord)
  /-- R436: A write to a management register with no behaviour of its own. -/
  | managementRegisterWrite (off : Nat) (v : DWord)
  /-- R442: A new sensor reading updates Tj and triggers warn, throttle, refresh or fatal responses. -/
  | sensorReading (unit s : Nat) (temp : Half)
  /-- R443: Every 20 us above THROTTLE the die's point drops one index. -/
  | throttleStep (die : Nat)
  /-- R443: Every 100 us below THROTTLE minus 2 C the point rises one index. -/
  | throttleRise (die : Nat)
  /-- R463: A fatal error stops all cores, writes the dump and powers down. -/
  | fatalError (cause die : Nat)
  /-- R447: The 10 us rail measurement drives cap actions and ballast gating. -/
  | powerMeasurement (sample average ballast : Nat) (rails : List Int)
  /-- R452: Every 2^PERIOD clk a wave's state is recorded into the sample ring. -/
  | pcSample (b : Nat)
  /-- R459: Firmware moves applied-atomic log entries into the error collector. -/
  | atomicLogDrain (slice : Nat)
  /-- R462: An operation held 1 ms marks its line diverged and releases held operations. -/
  | replayHoldTimeout (line : Nat)
  /-- R438: HBM training, compute-die power-up or array calibration fails in stage 2, so every die and stack is powered down, FAILCODE is set and STAGE returns to 0. -/
  | stage2Failure (code mask : Nat)
  /-- R442: A sensor's reading becomes older than 100 us, so VALID clears and a die without a valid sensor counts as being at its CRIT. -/
  | sensorReadingStale (unit s : Nat)
  /-- R228: A write by the companion processor to host memory invalidates the device's coherent L2 and L1 copies of that host line. -/
  | hostLineInvalidation (pa : Nat) (data : List Byte)
  /-- R406: The restore of a pre-empted or swapped-out gang finishes, its waits re-arm and compare, and its waves may issue again. -/
  | gangRestoreComplete (l g : Nat)
  /-- R393: Firmware ends a context and invalidates its ASID's translations on every die so that the ASID can be reused. -/
  | contextDestroy (x : Nat)
  /-- R414: Firmware changes a context's virtual-die table while the context has no accepted, uncompleted launch. -/
  | virtualDieTableSet (x : Nat) (vdies : List Byte)
  /-- R457: Every 64 clk a monitor unit with SRC 2 samples its L2 slice's queue depth into its histogram. -/
  | l2QueueDepthSample (die unit : Nat) (depth : Int)
  /-- R379: A pending deferred fault is taken at an instruction boundary. -/
  | takeDeferredFault
  /-- R456: An arm about to issue at an enabled breakpoint address halts. -/
  | breakpointMatch
  /-- R186: An arm reaching its rejoin continues a pending arm, pops or stops. -/
  | rejoin
  /-- R210: The distributor accepts records, places gangs, resumes blocks and requests pre-emptions. -/
  | distributorRound
  /-- R438: Power-good enters stage 0 and starts authentication when an image is present. -/
  | powerGood
  /-- R438: Every enabled die and stack is ready and full function starts. -/
  | stage3Entry
  /-- R441: Mailbox command reporting status. -/
  | status
  /-- R440: Mailbox command copying image bytes into the slot in stage 0. -/
  | imageWrite
  /-- R440: Mailbox command returning the device to stage 0, optionally holding. -/
  | restart
  /-- R443: Mailbox command setting a die's thermal thresholds. -/
  | setThr
  /-- R446: Mailbox command setting PCTL. -/
  | setPower
  /-- R450: Mailbox command copying part of the fatal-error dump to the host. -/
  | dumpread
  /-- R456: Mailbox command setting a context's debugging and breakpoint words. -/
  | debugset
  /-- R459: Mailbox command moving error-collector records to the host. -/
  | logread
  /-- R460: Mailbox command setting a context's atomic-order record or replay mode. -/
  | replay
  /-- R457: Mailbox command programming a monitor unit. -/
  | monset
  /-- R458: Mailbox command writing a monitor unit's histogram to the host. -/
  | monread
  /-- R447: Every 20 us of excess the hungriest die's point drops one index. -/
  | powerCapStep
  /-- R43: A fetched word whose opcode or function is unassigned, or whose reserved field is non-zero, raises a precise ILLEGAL_INSTRUCTION. -/
  | illegalInstructionWord
  /-- R463: Power is removed from the device and all state, the dump included, is lost. -/
  | powerRemoval
  /-- R447: Once the average is 5% under PCAP, the operating points that the cap lowered rise one index every 100 us. -/
  | powerCapRestore
  deriving DecidableEq, Repr

end Sys2Proof
end

