-- ==== Sys2Proof/WellFormed.lean ====
section
/-! DEFINITION. Which instructions have an encoding (R36, R38, R42, R46, R48, R49, R280, R366): the limits that the operand
types of Instr do not carry by themselves.  Events have no encoding and nothing to check. -/
namespace Sys2Proof

/-- The special registers of R149 by destination space: may rdsr write kD? -/
def srReadK (n : Nat) : Bool := (n ≤ 0x0D && n ≠ 0x01) || n == 0x10 || n == 0x11
/-- May rdsr write vD (R149)? -/
def srReadV (n : Nat) : Bool := n ≤ 0x0A

/-- R39: ET codes 0b11000 to 0b11111 are unassigned. -/
def etAssigned (c : BitVec 5) : Bool := c.toNat < 24
/-- R41: RM codes 0b110 and 0b111 are unassigned. -/
def rmAssigned (c : BitVec 3) : Bool := c.toNat < 6

/-- The mode-register bits that a select field of `mode` names (R17, R48). -/
def modeSelMask (sel : BitVec 5) : Word :=
  (if sel.getLsbD 0 then 0x7#32 else 0#32) ||| (if sel.getLsbD 1 then 0xF8#32 else 0#32) |||
  (if sel.getLsbD 2 then 0x700#32 else 0#32) ||| (if sel.getLsbD 3 then 0x800#32 else 0#32) |||
  (if sel.getLsbD 4 then 0x1000#32 else 0#32)

/-- R48: F = 0 is unassigned, L0 bits outside the selected fields are zero, a selected ET or RM is assigned. -/
def modeLegal (sel : BitVec 5) (img : Word) : Bool :=
  sel != 0 && (img &&& ~~~(modeSelMask sel)) == 0 &&
  (!sel.getLsbD 1 || etAssigned (img.extractLsb' 3 5)) && (!sel.getLsbD 2 || rmAssigned (img.extractLsb' 8 3))

/-- R46: kinds 1 to 3, scopes 0 to 5, at least one path. -/
def fenceLegal (kind scope : BitVec 8) (paths : BitVec 4) : Bool :=
  1 ≤ kind.toNat && kind.toNat ≤ 3 && scope.toNat ≤ 5 && paths != 0

/-- R49: the ops of atom. -/
def atomOp (op : BitVec 4) : Bool := op.toNat ≤ 7
/-- R49: the ops of red. -/
def redOp (op : BitVec 4) : Bool := op.toNat ≤ 5 || op.toNat == 7

/-- R280: the CTL fields of amode. -/
def amodeLegal (banks : BitVec 8) (toC : Bool) (ww : BitVec 2) (ofs : BitVec 11) : Bool :=
  banks != 0 && (if toC then ww.toNat ≤ 2 else ww == 0 && ofs == 0)
/-- R280: the CTL fields of mmac. -/
def mmacLegal (gain : BitVec 4) (rep : BitVec 3) : Bool :=
  gain.toNat ≤ 8 && rep.toNat ≤ 5 && (rep.toNat != 5 || gain == 0)
/-- R280: the CTL fields of mdrain. -/
def mdrainLegal (cntm1 : BitVec 5) (col : BitVec 8) (tgt : BitVec 2) : Bool :=
  tgt.toNat ≤ 2 && (if tgt == 0 then col.toNat + cntm1.toNat + 1 ≤ 256 else cntm1 == 0 && col == 0)
/-- R366: the CTL fields of tadv. -/
def tadvLegal (op : BitVec 2) (ctr : BitVec 2) (n : Half) : Bool :=
  op.toNat ≤ 2 && (op.toNat == 2 || (ctr == 0 && n == 0))

/-- The checks of an instruction that has an encoding (R36 to R49); true of every event. -/
def Instr.wf : Instr → Bool
  | .cmp _ cc _ _ _ => cc.toNat < 6
  | .cmpi _ cc _ _ _ => cc.toNat < 6
  | .fcmp _ cc _ _ _ => cc.toNat < 8
  | .sext _ _ _ n => 1 ≤ n.toNat && n.toNat ≤ 64
  | .zext _ _ _ n => 1 ≤ n.toNat && n.toNat ≤ 64
  | .fence _ k s p => fenceLegal k s p
  | .rdsrK _ _ n => srReadK n.toNat
  | .rdsrV _ _ n => srReadV n.toNat
  | .give _ n => 1 ≤ n.toNat && n.toNat ≤ 32
  | .claim _ _ n => 1 ≤ n.toNat && n.toNat ≤ 32
  | .br _ c _ _ => c.toNat ≤ 2
  | .mode _ sl img => modeLegal sl img
  | .vote _ op _ _ _ => op.toNat ≤ 2
  | .wred _ op _ _ _ => op.toNat ≤ 5
  | .wscan _ _ op _ _ _ => op.toNat ≤ 5
  | .atomFlat _ op _ _ _ _ => atomOp op
  | .atomScr _ op _ _ _ => atomOp op
  | .atomPeer _ op _ _ _ _ => atomOp op
  | .redFlat _ op _ _ _ => redOp op
  | .redScr _ op _ _ => redOp op
  | .redPeer _ op _ _ _ => redOp op
  | .amode _ b t w e => amodeLegal b t w e
  | .mmac _ _ _ _ g r => mmacLegal g r
  | .mdrain _ _ _ c col _ t _ => mdrainLegal c col t
  | .mcal _ b => b != 0
  | .tadv _ _ _ op _ c n => tadvLegal op c n
  | _ => true

/-- Bytes the base word's opcode gives an instruction (R20). -/
def opcodeLength (op : BitVec 7) : Nat := if op.toNat < 0x60 then 4 else if op.toNat < 0x7C then 8 else 12

end Sys2Proof
end

