-- ==== Sys2Proof/Decode.lean ====
section
/-! DEFINITION. Instruction words to instructions and back, from the formats and opcode maps of R33 to R49, R95, R112, R134,
R184, R280, R288, R330, R366, R418 and R421.  decode is total: a word it does not take is rejected by name, for the reason R43
names.  encode is written from the same tables and does not look at decode. -/
namespace Sys2Proof

/-- Why a word is no instruction (R43): each is ILLEGAL_INSTRUCTION when the word is reached. -/
inductive DecodeError where
  /-- Fewer words than the opcode's length (R20): nothing the fetch of R21 produces. -/
  | truncated
  /-- R45, R47: the opcode is assigned to no instruction. -/
  | unassignedOpcode
  /-- R47: the function value is assigned to no instruction of the opcode. -/
  | unassignedFunction
  /-- R38: a field the map marks 0, or a bit no field names, is not zero. -/
  | reservedField
  /-- R36, R46, R48: a field holds a value outside its space or table. -/
  | badField
  /-- R35: an OFS literal with bit[1:0] not zero. -/
  | misalignedOffset
  deriving DecidableEq, Repr

/-- The fields of a base word (R34). -/
structure Base where
  s : Bool
  op : BitVec 7
  d : BitVec 8
  a : BitVec 8
  b : BitVec 8
  deriving DecidableEq, Repr

/-- R34: S, opcode, D, A, B or F from the highest bit down. -/
def Base.ofWord (w : Word) : Base :=
  ⟨w.getLsbD 31, w.extractLsb' 24 7, w.extractLsb' 16 8, w.extractLsb' 8 8, w.extractLsb' 0 8⟩

/-- One bit. -/
def b1 (b : Bool) : BitVec 1 := BitVec.ofBool b
/-- Zero extension of a field into a byte or word. -/
def zx {n m : Nat} (x : BitVec n) : BitVec m := x.setWidth m
/-- R34, written upward. -/
def baseWord (s : Bool) (op : BitVec 7) (d a b : BitVec 8) : Word := b1 s ++ op ++ d ++ a ++ b
/-- The RX literal of R35: reserved, X, Q, C, B. -/
def rx (x q : BitVec 4) (c b : BitVec 8) : Word := 0#8 ++ x ++ q ++ c ++ b
/-- A Q operand's four bits (R36). -/
def q4 (q : QPred) : BitVec 4 := b1 q.neg ++ q.p
/-- A one-word instruction. -/
def w1 (s : Bool) (op : BitVec 7) (d a b : BitVec 8) : Option (List Word) := some [baseWord s op d a b]
/-- A two-word instruction. -/
def w2 (s : Bool) (op : BitVec 7) (d a f : BitVec 8) (l : Word) : Option (List Word) := some [baseWord s op d a f, l]

/-- RX bit[23:20] (R35). -/
def rxX (l : Word) : BitVec 4 := l.extractLsb' 20 4
/-- RX bit[19:16] as a predicate source. -/
def rxQ (l : Word) : QPred := ⟨l.getLsbD 19, l.extractLsb' 16 3⟩
/-- RX bit[15:8]. -/
def rxC (l : Word) : BitVec 8 := l.extractLsb' 8 8
/-- RX bit[7:0]. -/
def rxB (l : Word) : BitVec 8 := l.extractLsb' 0 8
/-- The condition code in bit[7:3] of a P destination (R42). -/
def ccOf (d : BitVec 8) : BitVec 5 := d.extractLsb' 3 5

/-- A field that must be zero (R38). -/
def isZ (x : BitVec 8) : Except DecodeError Unit := if x == 0 then .ok () else .error .reservedField
/-- Literal bits [lo+n-1 : lo] must be zero (R38). -/
def rz (l : Word) (lo n : Nat) : Except DecodeError Unit := if l.extractLsb' lo n == 0 then .ok () else .error .reservedField
/-- A value inside its table. -/
def lim (b : Bool) : Except DecodeError Unit := if b then .ok () else .error .badField
/-- Space K (R36). -/
def kr (x : BitVec 8) : Except DecodeError KReg := if x.toNat < 64 then .ok (x.setWidth 6) else .error .badField
/-- A 6-bit immediate in an 8-bit field. -/
def u6 (x : BitVec 8) : Except DecodeError (BitVec 6) := if x.toNat < 64 then .ok (x.setWidth 6) else .error .badField
/-- Spaces P, T and SL in an 8-bit field (R36). -/
def u3 (x : BitVec 8) : Except DecodeError (BitVec 3) := if x.toNat < 8 then .ok (x.setWidth 3) else .error .badField
/-- The level of pref (R46). -/
def u1 (x : BitVec 8) : Except DecodeError (BitVec 1) := if x.toNat < 2 then .ok (x.setWidth 1) else .error .badField
/-- Space Q in an 8-bit field (R36): bit[7:4] reserved. -/
def qr (x : BitVec 8) : Except DecodeError QPred :=
  if x.toNat < 16 then .ok ⟨x.getLsbD 3, x.extractLsb' 0 3⟩ else .error .reservedField
/-- An OFS literal (R35): a multiple of 4, kept as its upper 30 bits. -/
def ofs (l : Word) : Except DecodeError (BitVec 30) :=
  if l.extractLsb' 0 2 == 0#2 then .ok (l.extractLsb' 2 30) else .error .misalignedOffset

/-- R45: the one-word opcode map. -/
def decodeO (x : Base) : Except DecodeError Instr :=
  match x.op.toNat with
  | 0x00 => .ok (.add x.s x.d x.a x.b)
  | 0x01 => .ok (.sub x.s x.d x.a x.b)
  | 0x02 => .ok (.mul x.s x.d x.a x.b)
  | 0x03 => .ok (.mulhi x.s x.d x.a x.b)
  | 0x04 => .ok (.mad x.s x.d x.a x.b)
  | 0x05 => .ok (.div x.s x.d x.a x.b)
  | 0x06 => .ok (.rem x.s x.d x.a x.b)
  | 0x07 => .ok (.min x.s x.d x.a x.b)
  | 0x08 => .ok (.max x.s x.d x.a x.b)
  | 0x09 => do isZ x.b; .ok (.abs x.s x.d x.a)
  | 0x0A => do isZ x.b; .ok (.neg x.s x.d x.a)
  | 0x0B => .ok (.and x.s x.d x.a x.b)
  | 0x0C => .ok (.or x.s x.d x.a x.b)
  | 0x0D => .ok (.xor x.s x.d x.a x.b)
  | 0x0E => .ok (.andn x.s x.d x.a x.b)
  | 0x0F => do isZ x.b; .ok (.not x.s x.d x.a)
  | 0x10 => .ok (.shl x.s x.d x.a x.b)
  | 0x11 => .ok (.shr x.s x.d x.a x.b)
  | 0x12 => .ok (.sar x.s x.d x.a x.b)
  | 0x13 => .ok (.rol x.s x.d x.a x.b)
  | 0x14 => .ok (.ror x.s x.d x.a x.b)
  | 0x15 => do .ok (.shli x.s x.d x.a (← u6 x.b))
  | 0x16 => do .ok (.shri x.s x.d x.a (← u6 x.b))
  | 0x17 => do .ok (.sari x.s x.d x.a (← u6 x.b))
  | 0x18 => do isZ x.b; .ok (.popc x.s x.d x.a)
  | 0x19 => do isZ x.b; .ok (.clz x.s x.d x.a)
  | 0x1A => do isZ x.b; .ok (.ctz x.s x.d x.a)
  | 0x1B => do isZ x.b; .ok (.brev x.s x.d x.a)
  | 0x1C => do lim ((ccOf x.d).toNat < 6); .ok (.cmp x.s (ccOf x.d) (x.d.extractLsb' 0 3) x.a x.b)
  | 0x1D => do isZ x.b; .ok (.mov x.s x.d x.a)
  | 0x1E => do isZ x.b; .ok (.movk x.s x.d (← kr x.a))
  | 0x1F => do .ok (.addk x.s (← kr x.d) (← kr x.a) (← kr x.b))
  | 0x20 => do lim (1 ≤ x.b.toNat && x.b.toNat ≤ 64); .ok (.sext x.s x.d x.a x.b)
  | 0x21 => do lim (1 ≤ x.b.toNat && x.b.toNat ≤ 64); .ok (.zext x.s x.d x.a x.b)
  | 0x22 => do .ok (.lea x.s x.d (← kr x.a) x.b)
  | 0x23 => do .ok (.gtime x.s (← kr x.d) (← kr x.a) (← kr x.b))
  | 0x24 => .ok (.fadd x.s x.d x.a x.b)
  | 0x25 => .ok (.fsub x.s x.d x.a x.b)
  | 0x26 => .ok (.fmul x.s x.d x.a x.b)
  | 0x27 => .ok (.fma x.s x.d x.a x.b)
  | 0x28 => .ok (.fms x.s x.d x.a x.b)
  | 0x29 => .ok (.fnma x.s x.d x.a x.b)
  | 0x2A => .ok (.fnms x.s x.d x.a x.b)
  | 0x2B => .ok (.fmin x.s x.d x.a x.b)
  | 0x2C => .ok (.fmax x.s x.d x.a x.b)
  | 0x2D => do isZ x.b; .ok (.fabs x.s x.d x.a)
  | 0x2E => do isZ x.b; .ok (.fneg x.s x.d x.a)
  | 0x2F => .ok (.fsgn x.s x.d x.a x.b)
  | 0x30 => do lim ((ccOf x.d).toNat < 8); .ok (.fcmp x.s (ccOf x.d) (x.d.extractLsb' 0 3) x.a x.b)
  | 0x31 => do isZ x.b; .ok (.fclass x.s x.d x.a)
  | 0x32 => do isZ x.b; .ok (.frcp x.s x.d x.a)
  | 0x33 => do isZ x.b; .ok (.frsq x.s x.d x.a)
  | 0x34 => do isZ x.b; .ok (.fsqrt x.s x.d x.a)
  | 0x35 => .ok (.fdiv x.s x.d x.a x.b)
  | 0x36 => do isZ x.b; .ok (.fex2 x.s x.d x.a)
  | 0x37 => do isZ x.b; .ok (.flg2 x.s x.d x.a)
  | 0x38 => do isZ x.b; .ok (.fsin x.s x.d x.a)
  | 0x39 => do isZ x.b; .ok (.fcos x.s x.d x.a)
  | 0x3A => do isZ x.b; .ok (.frnd x.s x.d x.a)
  | 0x3B => do .ok (.cvt x.s x.d x.a (← u3 x.b))
  | 0x3C => do .ok (.cvtn x.s x.d x.a (← u3 x.b))
  | 0x3D => do .ok (.cvtw x.s x.d x.a (← u3 x.b))
  | 0x3E => do .ok (.bpack x.s x.d x.a (← u3 x.b))
  | 0x3F => do .ok (.bunpk x.s x.d x.a (← u3 x.b))
  | 0x40 => do .ok (.mxsc x.s x.d x.a (← u3 x.b))
  | 0x41 => do .ok (.ld x.s x.d (← kr x.a) x.b)
  | 0x42 => do .ok (.st x.s (← kr x.a) x.b x.d)
  | 0x43 => do .ok (.ldk x.s (← kr x.d) (← kr x.a) x.b)
  | 0x44 => do .ok (.stk x.s (← kr x.a) x.b (← kr x.d))
  | 0x45 => .ok (.lds x.s x.d x.a x.b)
  | 0x46 => .ok (.sts x.s x.a x.b x.d)
  | 0x47 => do .ok (.ldp x.s x.d (← kr x.a) x.b)
  | 0x48 => do .ok (.stp x.s (← kr x.a) x.b x.d)
  | 0x49 => .ok (.ldb x.s x.d x.a x.b)
  | 0x4A => .ok (.stb x.s x.b x.a x.d)
  | 0x4B => do lim ((x.b.extractLsb' 4 4) == 0); lim (fenceLegal x.d x.a (x.b.extractLsb' 0 4)); .ok (.fence x.s x.d x.a (x.b.extractLsb' 0 4))
  | 0x4C => do .ok (.pref x.s (← u1 x.d) (← kr x.a) x.b)
  | 0x4D => do .ok (.zinv x.s x.d (← kr x.a) (← kr x.b))
  | 0x4E => do .ok (.zwb x.s x.d (← kr x.a) (← kr x.b))
  | 0x4F => do .ok (.zpack x.s x.d (← kr x.a) (← kr x.b))
  | 0x50 => do isZ x.d; isZ x.a; isZ x.b; .ok (.nop x.s)
  | 0x51 => do isZ x.d; isZ x.a; isZ x.b; .ok (.halt x.s)
  | 0x52 => do isZ x.d; isZ x.b; .ok (.ret x.s (← kr x.a))
  | 0x53 => do isZ x.d; isZ x.b; .ok (.jmpi x.s (← kr x.a))
  | 0x54 => do
    if x.b == 0 then lim (srReadK x.a.toNat); .ok (.rdsrK x.s (← kr x.d) x.a)
    else if x.b == 1 then lim (srReadV x.a.toNat); .ok (.rdsrV x.s x.d x.a)
    else .error .reservedField
  | 0x55 => do
    isZ x.b
    let k ← kr x.a
    match x.d.toNat with
    | 0x09 => .ok (.wrsrStatus x.s k)
    | 0x0A => .ok (.wrsrMode x.s k)
    | 0x0C => .ok (.wrsrFault0 x.s k)
    | 0x0D => .ok (.wrsrFault1 x.s k)
    | 0x10 => .ok (.wrsrSampctl x.s k)
    | 0x11 => .ok (.wrsrSampbuf x.s k)
    | _ => .error .badField
  | 0x56 => do isZ x.a; isZ x.b; .ok (.clock x.s (← kr x.d))
  | 0x57 => do isZ x.d; isZ x.a; .ok (.trap x.s x.b)
  | 0x58 => do isZ x.d; isZ x.a; .ok (.brk x.s x.b)
  | 0x59 => do isZ x.d; isZ x.a; isZ x.b; .ok (.tret x.s)
  | 0x5A => do isZ x.d; isZ x.a; isZ x.b; .ok (.exit x.s)
  | 0x5B => do isZ x.d; isZ x.a; isZ x.b; .ok (.yield x.s)
  | 0x5C => do isZ x.d; isZ x.a; lim (1 ≤ x.b.toNat && x.b.toNat ≤ 32); .ok (.give x.s x.b)
  | 0x5D => do isZ x.a; lim (1 ≤ x.b.toNat && x.b.toNat ≤ 32); .ok (.claim x.s (← u3 x.d) x.b)
  | 0x5E => do isZ x.d; .ok (.mark x.s (x.a ++ x.b))
  | 0x5F => .ok (.hops x.s x.d x.a x.b)
  | _ => .error .unassignedOpcode

/-- R47: the functions of opcode 0x60. -/
def decode60 (x : Base) (l : Word) : Except DecodeError Instr :=
  match x.b.toNat with
  | 0 => .ok (.addi x.s x.d x.a l)
  | 1 => .ok (.subi x.s x.d x.a l)
  | 2 => do lim ((ccOf x.d).toNat < 6); .ok (.cmpi x.s (ccOf x.d) (x.d.extractLsb' 0 3) x.a l)
  | 3 => do rz l 6 2; rz l 14 18; .ok (.bfx x.s x.d x.a (l.extractLsb' 0 6) (l.extractLsb' 8 6))
  | 4 => do rz l 6 2; rz l 14 18; .ok (.bfi x.s x.d x.a (l.extractLsb' 0 6) (l.extractLsb' 8 6))
  | 5 => do isZ x.a; .ok (.movImm x.s x.d l)
  | _ => .error .unassignedFunction

/-- R47: the functions of opcode 0x61. -/
def decode61 (x : Base) (l : Word) : Except DecodeError Instr :=
  match x.b.toNat with
  | 0 => do rz l 24 8; rz l 20 4; rz l 19 1; rz l 8 8; .ok (.addc x.s x.d x.a (rxB l) (l.extractLsb' 16 3))
  | 1 => do rz l 24 8; rz l 20 4; rz l 19 1; rz l 8 8; .ok (.subb x.s x.d x.a (rxB l) (l.extractLsb' 16 3))
  | 2 => do rz l 24 8; rz l 20 4; rz l 8 8; .ok (.sel x.s x.d x.a (rxB l) (rxQ l))
  | _ => .error .unassignedFunction

/-- R47: the functions of opcode 0x63. -/
def decode63 (x : Base) (l : Word) : Except DecodeError Instr :=
  match x.b.toNat with
  | 0 => do lim (x.d.toNat ≤ 2); .ok (.br x.s x.d (← qr x.a) (← ofs l))
  | 1 => do isZ x.d; isZ x.a; .ok (.bra x.s (← ofs l))
  | 2 => do isZ x.a; .ok (.call x.s (← kr x.d) (← ofs l))
  | _ => .error .unassignedFunction

/-- R47: the functions of opcode 0x65. -/
def decode65 (x : Base) (l : Word) : Except DecodeError Instr :=
  match x.b.toNat with
  | 0 => do isZ x.a; rz l 24 8; isZ (rxB l); lim ((rxX l).toNat ≤ 2); .ok (.vote x.s (rxX l) (← u3 x.d) (rxQ l) (← kr (rxC l)))
  | 1 => do rz l 24 8; rz l 20 4; isZ (rxB l); isZ x.a; .ok (.ballot x.s (← kr x.d) (rxQ l) (← kr (rxC l)))
  | 2 => do rz l 24 8; rz l 16 4; lim ((rxX l).toNat ≤ 3); .ok (.shfl x.s (l.extractLsb' 20 2) x.d x.a (rxB l) (← kr (rxC l)))
  | 3 => do rz l 24 8; rz l 16 4; lim ((rxX l).toNat ≤ 3); .ok (.shfli x.s (l.extractLsb' 20 2) x.d x.a (rxB l) (← kr (rxC l)))
  | 4 => do rz l 24 8; rz l 16 4; isZ (rxB l); lim ((rxX l).toNat ≤ 5); .ok (.wred x.s (rxX l) x.d x.a (← kr (rxC l)))
  | 5 => do rz l 24 8; rz l 16 4; isZ (rxB l); lim ((l.extractLsb' 20 3).toNat ≤ 5); .ok (.wscan x.s (l.getLsbD 23) (l.extractLsb' 20 3) x.d x.a (← kr (rxC l)))
  | 6 => do rz l 24 8; rz l 20 4; rz l 16 4; .ok (.bcast x.s x.d x.a (← kr (rxB l)) (← kr (rxC l)))
  | 7 => do rz l 8 24; isZ x.a; .ok (.mget x.s (← kr x.d) (rxB l))
  | 8 => do rz l 8 24; isZ x.d; .ok (.mset x.s (rxB l) (← kr x.a))
  | _ => .error .unassignedFunction

/-- R47: the functions of opcode 0x66. -/
def decode66 (x : Base) (l : Word) : Except DecodeError Instr :=
  match x.b.toNat with
  | 0 => do rz l 8 24; isZ x.d; .ok (.bar x.s (← kr x.a) (← kr (rxB l)))
  | 1 => do rz l 8 24; isZ x.d; .ok (.bara x.s (← kr x.a) (← kr (rxB l)))
  | 2 => do rz l 0 32; isZ x.d; .ok (.barw x.s (← kr x.a))
  | _ => .error .unassignedFunction

/-- R47: the functions of opcode 0x67. -/
def decode67 (x : Base) (l : Word) : Except DecodeError Instr :=
  match x.b.toNat with
  | 0 => do rz l 0 32; .ok (.waitge x.s (← kr x.a) (← kr x.d))
  | 1 => do .ok (.waitgeCont x.s (← kr x.a) (← kr x.d) (← ofs l))
  | _ => .error .unassignedFunction

/-- R47: the functions of opcode 0x6A. -/
def decode6A (x : Base) (l : Word) : Except DecodeError Instr :=
  match x.b.toNat with
  | 0 => do rz l 27 5; rz l 11 5; isZ x.d; isZ x.a; lim (amodeLegal (l.extractLsb' 0 8) (l.getLsbD 8) (l.extractLsb' 9 2) (l.extractLsb' 16 11)); .ok (.amode x.s (l.extractLsb' 0 8) (l.getLsbD 8) (l.extractLsb' 9 2) (l.extractLsb' 16 11))
  | 1 => do rz l 10 22; lim (mmacLegal (l.extractLsb' 3 4) (l.extractLsb' 7 3)); .ok (.mmac x.s (← u3 x.d) (← kr x.a) (l.extractLsb' 0 3) (l.extractLsb' 3 4) (l.extractLsb' 7 3))
  | 2 => do rz l 0 32; isZ x.a; .ok (.mzero x.s (← u3 x.d))
  | 3 => do rz l 21 11; rz l 7 1; rz l 3 1; lim (mdrainLegal (l.extractLsb' 16 5) (l.extractLsb' 8 8) (l.extractLsb' 4 2)); .ok (.mdrain x.s x.d (← u3 x.a) (l.extractLsb' 16 5) (l.extractLsb' 8 8) (l.getLsbD 6) (l.extractLsb' 4 2) (l.extractLsb' 0 3))
  | 4 => do rz l 3 29; isZ x.d; .ok (.mpack x.s (← kr x.a) (l.extractLsb' 0 3))
  | 5 => do rz l 8 24; isZ x.d; isZ x.a; lim ((rxB l) != 0); .ok (.mcal x.s (rxB l))
  | 6 => do rz l 3 29; isZ x.a; .ok (.mstat x.s (← kr x.d) (l.extractLsb' 0 3))
  | _ => .error .unassignedFunction

/-- R47: the functions of opcode 0x6B. -/
def decode6B (x : Base) (l : Word) : Except DecodeError Instr :=
  match x.b.toNat with
  | 0 => do rz l 0 32; isZ x.d; .ok (.copy x.s (← kr x.a))
  | 1 => do rz l 0 32; .ok (.cstat x.s (← kr x.d) (← kr x.a))
  | _ => .error .unassignedFunction

/-- R47: the functions of opcode 0x6C. -/
def decode6C (x : Base) (l : Word) : Except DecodeError Instr :=
  match x.b.toNat with
  | 0 => do rz l 16 16; isZ x.d; .ok (.tsend x.s (← kr x.a) (rxB l) (← kr (rxC l)))
  | 1 => do rz l 0 32; .ok (.trecv x.s (← kr x.d) (← kr x.a))
  | 2 => do rz l 0 32; .ok (.tpoll x.s (← kr x.d) (← kr x.a))
  | 3 => do rz l 0 32; .ok (.tsteal x.s (← kr x.d) (← kr x.a))
  | 4 => do rz l 8 24; isZ x.d; .ok (.tcap x.s (← kr x.a) (← kr (rxB l)))
  | 5 => do rz l 8 24; isZ x.d; .ok (.tdrop x.s (← kr x.a) (← kr (rxB l)))
  | 6 => do rz l 6 10; lim (tadvLegal (l.extractLsb' 0 2) (l.extractLsb' 4 2) (l.extractLsb' 16 16)); .ok (.tadv x.s (← kr x.d) (← kr x.a) (l.extractLsb' 0 2) (l.extractLsb' 2 2) (l.extractLsb' 4 2) (l.extractLsb' 16 16))
  | 7 => do rz l 8 24; .ok (.tsum x.s (← kr x.d) (← kr x.a) (← kr (rxB l)))
  | 8 => do rz l 8 24; isZ x.d; .ok (.fwait x.s (← kr x.a) (← kr (rxB l)))
  | 9 => do rz l 0 32; .ok (.fread x.s (← kr x.d) (← kr x.a))
  | _ => .error .unassignedFunction

/-- R47: the functions of opcode 0x6D. -/
def decode6D (x : Base) (l : Word) : Except DecodeError Instr :=
  match x.b.toNat with
  | 0 => do rz l 8 24; isZ x.d; .ok (.rehome x.s (← kr x.a) (← kr (rxB l)))
  | _ => .error .unassignedFunction

/-- R48: mode, whose F is the select field. -/
def decode64 (x : Base) (l : Word) : Except DecodeError Instr := do
  isZ x.d; isZ x.a
  lim (x.b.toNat < 32)
  lim (modeLegal (x.b.setWidth 5) l)
  .ok (.mode x.s (x.b.setWidth 5) l)

/-- R49: atom and atomc by space and op. -/
def decode68 (x : Base) (l : Word) : Except DecodeError Instr := do
  rz l 16 16
  lim (x.b.extractLsb' 4 2 == 0#2)
  let op : BitVec 4 := x.b.extractLsb' 0 4
  match (x.b.extractLsb' 6 2).toNat with
  | 0 => do
    let k ← kr x.a
    if op == 8 then .ok (.atomcFlat x.s x.d k (rxB l) (rxC l)) else lim (atomOp op); .ok (.atomFlat x.s op x.d k (rxB l) (rxC l))
  | 1 => do
    isZ x.a
    if op == 8 then .ok (.atomcScr x.s x.d (rxB l) (rxC l)) else lim (atomOp op); .ok (.atomScr x.s op x.d (rxB l) (rxC l))
  | 2 => do
    let k ← kr x.a
    if op == 8 then .ok (.atomcPeer x.s x.d k (rxB l) (rxC l)) else lim (atomOp op); .ok (.atomPeer x.s op x.d k (rxB l) (rxC l))
  | _ => .error .unassignedFunction

/-- R49: red by space and op. -/
def decode69 (x : Base) (l : Word) : Except DecodeError Instr := do
  rz l 16 16
  isZ x.d
  lim (x.b.extractLsb' 4 2 == 0#2)
  let op : BitVec 4 := x.b.extractLsb' 0 4
  lim (redOp op)
  match (x.b.extractLsb' 6 2).toNat with
  | 0 => do .ok (.redFlat x.s op (← kr x.a) (rxB l) (rxC l))
  | 1 => do isZ x.a; .ok (.redScr x.s op (rxB l) (rxC l))
  | 2 => do .ok (.redPeer x.s op (← kr x.a) (rxB l) (rxC l))
  | _ => .error .unassignedFunction

/-- R47: the two-word opcodes. -/
def decodeL (x : Base) (l : Word) : Except DecodeError Instr :=
  match x.op.toNat with
  | 0x60 => decode60 x l
  | 0x61 => decode61 x l
  | 0x63 => decode63 x l
  | 0x64 => decode64 x l
  | 0x65 => decode65 x l
  | 0x66 => decode66 x l
  | 0x67 => decode67 x l
  | 0x68 => decode68 x l
  | 0x69 => decode69 x l
  | 0x6A => decode6A x l
  | 0x6B => decode6B x l
  | 0x6C => decode6C x l
  | 0x6D => decode6D x l
  | _ => .error .unassignedOpcode

/-- R47: the three-word opcodes movkk and bdiv. -/
def decodeLL (x : Base) (l0 l1 : Word) : Except DecodeError Instr := do
  if x.op == 0x7C then
    isZ x.a
    lim (x.b == 0)
    .ok (.movkk x.s (← kr x.d) (l1 ++ l0))
  else if x.op == 0x7D then
    isZ x.d; isZ x.a
    .ok (.bdiv x.s (← qr x.b) (← ofs l1) (← ofs l0))
  else .error .unassignedOpcode

/-- R20, R43: the words of one instruction, the base word first, to the instruction.  Words past its length are not read. -/
def decode : List Word → Except DecodeError Instr
  | [] => .error .truncated
  | w :: ls =>
    let x := Base.ofWord w
    if x.op.toNat < 0x60 then decodeO x
    else if x.op.toNat < 0x7C then
      match ls with
      | l :: _ => decodeL x l
      | [] => .error .truncated
    else
      match ls with
      | l0 :: l1 :: _ => decodeLL x l0 l1
      | _ => .error .truncated

/-- The words of an instruction (R45, R47); an event has none. -/
def encode : Instr → Option (List Word)
  | .add s d a b => w1 s 0x00 d a b
  | .sub s d a b => w1 s 0x01 d a b
  | .mul s d a b => w1 s 0x02 d a b
  | .mulhi s d a b => w1 s 0x03 d a b
  | .mad s d a b => w1 s 0x04 d a b
  | .div s d a b => w1 s 0x05 d a b
  | .rem s d a b => w1 s 0x06 d a b
  | .min s d a b => w1 s 0x07 d a b
  | .max s d a b => w1 s 0x08 d a b
  | .abs s d a => w1 s 0x09 d a 0
  | .neg s d a => w1 s 0x0A d a 0
  | .and s d a b => w1 s 0x0B d a b
  | .or s d a b => w1 s 0x0C d a b
  | .xor s d a b => w1 s 0x0D d a b
  | .andn s d a b => w1 s 0x0E d a b
  | .not s d a => w1 s 0x0F d a 0
  | .shl s d a b => w1 s 0x10 d a b
  | .shr s d a b => w1 s 0x11 d a b
  | .sar s d a b => w1 s 0x12 d a b
  | .rol s d a b => w1 s 0x13 d a b
  | .ror s d a b => w1 s 0x14 d a b
  | .shli s d a n => w1 s 0x15 d a (zx n)
  | .shri s d a n => w1 s 0x16 d a (zx n)
  | .sari s d a n => w1 s 0x17 d a (zx n)
  | .popc s d a => w1 s 0x18 d a 0
  | .clz s d a => w1 s 0x19 d a 0
  | .ctz s d a => w1 s 0x1A d a 0
  | .brev s d a => w1 s 0x1B d a 0
  | .cmp s cc p a b => w1 s 0x1C (cc ++ p) a b
  | .mov s d a => w1 s 0x1D d a 0
  | .movk s d k => w1 s 0x1E d (zx k) 0
  | .addk s d a b => w1 s 0x1F (zx d) (zx a) (zx b)
  | .sext s d a n => w1 s 0x20 d a n
  | .zext s d a n => w1 s 0x21 d a n
  | .lea s d k b => w1 s 0x22 d (zx k) b
  | .gtime s d a b => w1 s 0x23 (zx d) (zx a) (zx b)
  | .fadd s d a b => w1 s 0x24 d a b
  | .fsub s d a b => w1 s 0x25 d a b
  | .fmul s d a b => w1 s 0x26 d a b
  | .fma s d a b => w1 s 0x27 d a b
  | .fms s d a b => w1 s 0x28 d a b
  | .fnma s d a b => w1 s 0x29 d a b
  | .fnms s d a b => w1 s 0x2A d a b
  | .fmin s d a b => w1 s 0x2B d a b
  | .fmax s d a b => w1 s 0x2C d a b
  | .fabs s d a => w1 s 0x2D d a 0
  | .fneg s d a => w1 s 0x2E d a 0
  | .fsgn s d a b => w1 s 0x2F d a b
  | .fcmp s cc p a b => w1 s 0x30 (cc ++ p) a b
  | .fclass s d a => w1 s 0x31 d a 0
  | .frcp s d a => w1 s 0x32 d a 0
  | .frsq s d a => w1 s 0x33 d a 0
  | .fsqrt s d a => w1 s 0x34 d a 0
  | .fdiv s d a b => w1 s 0x35 d a b
  | .fex2 s d a => w1 s 0x36 d a 0
  | .flg2 s d a => w1 s 0x37 d a 0
  | .fsin s d a => w1 s 0x38 d a 0
  | .fcos s d a => w1 s 0x39 d a 0
  | .frnd s d a => w1 s 0x3A d a 0
  | .cvt s d a n => w1 s 0x3B d a (zx n)
  | .cvtn s d a n => w1 s 0x3C d a (zx n)
  | .cvtw s d a n => w1 s 0x3D d a (zx n)
  | .bpack s d a n => w1 s 0x3E d a (zx n)
  | .bunpk s d a n => w1 s 0x3F d a (zx n)
  | .mxsc s d a n => w1 s 0x40 d a (zx n)
  | .ld s d k b => w1 s 0x41 d (zx k) b
  | .st s k b d => w1 s 0x42 d (zx k) b
  | .ldk s d k o => w1 s 0x43 (zx d) (zx k) o
  | .stk s k o d => w1 s 0x44 (zx d) (zx k) o
  | .lds s d a o => w1 s 0x45 d a o
  | .sts s a o d => w1 s 0x46 d a o
  | .ldp s d k b => w1 s 0x47 d (zx k) b
  | .stp s k b d => w1 s 0x48 d (zx k) b
  | .ldb s d a o => w1 s 0x49 d a o
  | .stb s o a d => w1 s 0x4A d a o
  | .fence s k sc p => w1 s 0x4B k sc (zx p)
  | .pref s l k b => w1 s 0x4C (zx l) (zx k) b
  | .zinv s i a b => w1 s 0x4D i (zx a) (zx b)
  | .zwb s i a b => w1 s 0x4E i (zx a) (zx b)
  | .zpack s i a b => w1 s 0x4F i (zx a) (zx b)
  | .nop s => w1 s 0x50 0 0 0
  | .halt s => w1 s 0x51 0 0 0
  | .ret s k => w1 s 0x52 0 (zx k) 0
  | .jmpi s k => w1 s 0x53 0 (zx k) 0
  | .rdsrK s k n => w1 s 0x54 (zx k) n 0
  | .rdsrV s d n => w1 s 0x54 d n 1
  | .wrsrStatus s k => w1 s 0x55 0x09 (zx k) 0
  | .wrsrMode s k => w1 s 0x55 0x0A (zx k) 0
  | .wrsrFault0 s k => w1 s 0x55 0x0C (zx k) 0
  | .wrsrFault1 s k => w1 s 0x55 0x0D (zx k) 0
  | .wrsrSampctl s k => w1 s 0x55 0x10 (zx k) 0
  | .wrsrSampbuf s k => w1 s 0x55 0x11 (zx k) 0
  | .clock s k => w1 s 0x56 (zx k) 0 0
  | .trap s n => w1 s 0x57 0 0 n
  | .brk s n => w1 s 0x58 0 0 n
  | .tret s => w1 s 0x59 0 0 0
  | .exit s => w1 s 0x5A 0 0 0
  | .yield s => w1 s 0x5B 0 0 0
  | .give s n => w1 s 0x5C 0 0 n
  | .claim s p n => w1 s 0x5D (zx p) 0 n
  | .mark s v => w1 s 0x5E 0 (v.extractLsb' 8 8) (v.extractLsb' 0 8)
  | .hops s d a b => w1 s 0x5F d a b
  | .addi s d a i => w2 s 0x60 d a 0 i
  | .subi s d a i => w2 s 0x60 d a 1 i
  | .cmpi s cc p a i => w2 s 0x60 (cc ++ p) a 2 i
  | .bfx s d a p n => w2 s 0x60 d a 3 (0#18 ++ n ++ 0#2 ++ p)
  | .bfi s d a p n => w2 s 0x60 d a 4 (0#18 ++ n ++ 0#2 ++ p)
  | .movImm s d i => w2 s 0x60 d 0 5 i
  | .addc s d a b p => w2 s 0x61 d a 0 (rx 0 (zx p) 0 b)
  | .subb s d a b p => w2 s 0x61 d a 1 (rx 0 (zx p) 0 b)
  | .sel s d a b q => w2 s 0x61 d a 2 (rx 0 (q4 q) 0 b)
  | .br s c q o => w2 s 0x63 c (zx (q4 q)) 0 (o ++ 0#2)
  | .bra s o => w2 s 0x63 0 0 1 (o ++ 0#2)
  | .call s k o => w2 s 0x63 (zx k) 0 2 (o ++ 0#2)
  | .mode s sel i => w2 s 0x64 0 0 (zx sel) i
  | .bdiv s q t r => some [baseWord s 0x7D 0 0 (zx (q4 q)), r ++ 0#2, t ++ 0#2]
  | .vote s o p q k => w2 s 0x65 (zx p) 0 0 (rx o (q4 q) (zx k) 0)
  | .ballot s d q k => w2 s 0x65 (zx d) 0 1 (rx 0 (q4 q) (zx k) 0)
  | .shfl s h d a b k => w2 s 0x65 d a 2 (rx (zx h) 0 (zx k) b)
  | .shfli s h d a b k => w2 s 0x65 d a 3 (rx (zx h) 0 (zx k) b)
  | .wred s o d a k => w2 s 0x65 d a 4 (rx o 0 (zx k) 0)
  | .wscan s e o d a k => w2 s 0x65 d a 5 (rx (b1 e ++ o) 0 (zx k) 0)
  | .bcast s d a b k => w2 s 0x65 d a 6 (rx 0 0 (zx k) (zx b))
  | .mget s d n => w2 s 0x65 (zx d) 0 7 (rx 0 0 0 n)
  | .mset s n a => w2 s 0x65 0 (zx a) 8 (rx 0 0 0 n)
  | .bar s a b => w2 s 0x66 0 (zx a) 0 (rx 0 0 0 (zx b))
  | .bara s a b => w2 s 0x66 0 (zx a) 1 (rx 0 0 0 (zx b))
  | .barw s a => w2 s 0x66 0 (zx a) 2 0
  | .waitge s a d => w2 s 0x67 (zx d) (zx a) 0 0
  | .waitgeCont s a d o => w2 s 0x67 (zx d) (zx a) 1 (o ++ 0#2)
  | .atomFlat s o d k b c => w2 s 0x68 d (zx k) (0#2 ++ 0#2 ++ o) (rx 0 0 c b)
  | .atomScr s o d b c => w2 s 0x68 d 0 (1#2 ++ 0#2 ++ o) (rx 0 0 c b)
  | .atomPeer s o d k b c => w2 s 0x68 d (zx k) (2#2 ++ 0#2 ++ o) (rx 0 0 c b)
  | .atomcFlat s d k b c => w2 s 0x68 d (zx k) 0x08 (rx 0 0 c b)
  | .atomcScr s d b c => w2 s 0x68 d 0 0x48 (rx 0 0 c b)
  | .atomcPeer s d k b c => w2 s 0x68 d (zx k) 0x88 (rx 0 0 c b)
  | .redFlat s o k b c => w2 s 0x69 0 (zx k) (0#2 ++ 0#2 ++ o) (rx 0 0 c b)
  | .redScr s o b c => w2 s 0x69 0 0 (1#2 ++ 0#2 ++ o) (rx 0 0 c b)
  | .redPeer s o k b c => w2 s 0x69 0 (zx k) (2#2 ++ 0#2 ++ o) (rx 0 0 c b)
  | .amode s b t w e => w2 s 0x6A 0 0 0 (0#5 ++ e ++ 0#5 ++ w ++ b1 t ++ b)
  | .mmac s t k b g r => w2 s 0x6A (zx t) (zx k) 1 (0#22 ++ r ++ g ++ b)
  | .mzero s t => w2 s 0x6A (zx t) 0 2 0
  | .mdrain s d t n c z g sl => w2 s 0x6A d (zx t) 3 (0#11 ++ n ++ c ++ 0#1 ++ b1 z ++ g ++ 0#1 ++ sl)
  | .mpack s k b => w2 s 0x6A 0 (zx k) 4 (zx b)
  | .mcal s b => w2 s 0x6A 0 0 5 (zx b)
  | .mstat s d b => w2 s 0x6A (zx d) 0 6 (zx b)
  | .copy s a => w2 s 0x6B 0 (zx a) 0 0
  | .cstat s d a => w2 s 0x6B (zx d) (zx a) 1 0
  | .tsend s a b k => w2 s 0x6C 0 (zx a) 0 (rx 0 0 (zx k) b)
  | .trecv s d a => w2 s 0x6C (zx d) (zx a) 1 0
  | .tpoll s d a => w2 s 0x6C (zx d) (zx a) 2 0
  | .tsteal s d a => w2 s 0x6C (zx d) (zx a) 3 0
  | .tcap s a b => w2 s 0x6C 0 (zx a) 4 (rx 0 0 0 (zx b))
  | .tdrop s a b => w2 s 0x6C 0 (zx a) 5 (rx 0 0 0 (zx b))
  | .tadv s d a o dd ct n => w2 s 0x6C (zx d) (zx a) 6 (n ++ 0#10 ++ ct ++ dd ++ o)
  | .tsum s d a b => w2 s 0x6C (zx d) (zx a) 7 (rx 0 0 0 (zx b))
  | .fwait s a b => w2 s 0x6C 0 (zx a) 8 (rx 0 0 0 (zx b))
  | .fread s d a => w2 s 0x6C (zx d) (zx a) 9 0
  | .rehome s a b => w2 s 0x6D 0 (zx a) 0 (rx 0 0 0 (zx b))
  | .movkk s d i => some [baseWord s 0x7C (zx d) 0 0, i.extractLsb' 0 32, i.extractLsb' 32 32]
  | _ => none

/-- R33: bytes at rising addresses to a little-endian word. -/
def wordOfBytes (b0 b1 b2 b3 : Byte) : Word := b3 ++ b2 ++ b1 ++ b0

/-- Little-endian words from a string of bytes; a rest of fewer than four bytes is dropped. -/
def wordsOfBytes : List Byte → List Word
  | b0 :: b1 :: b2 :: b3 :: r => wordOfBytes b0 b1 b2 b3 :: wordsOfBytes r
  | _ => []

/-- The four bytes of a word, lowest address first (R33). -/
def bytesOfWord (w : Word) : List Byte := [w.extractLsb' 0 8, w.extractLsb' 8 8, w.extractLsb' 16 8, w.extractLsb' 24 8]

/-- Decode from memory bytes (R33): the instruction and how many bytes it takes. -/
def decodeBytes (bs : List Byte) : Except DecodeError (Instr × Nat) :=
  match wordsOfBytes bs with
  | [] => .error .truncated
  | w :: ls => (decode (w :: ls)).map fun i => (i, opcodeLength (Base.ofWord w).op)

/-- Bit string w of nbits bits, first word lowest, as the bytes the hardware stores, padded with zeros to the longest instruction. -/
def tableBytes (nbits w : Nat) : List Byte :=
  (List.range 12).map fun i => BitVec.ofNat 8 ((w % 2 ^ nbits) >>> (8 * i))

/-- The instruction the decoder reads from the table's bits w (bits above nbits are zero). -/
def decodeTableWord (nbits w : Nat) : Option Instr :=
  match decodeBytes (tableBytes nbits w) with
  | .ok (i, _) => some i
  | .error _ => none

end Sys2Proof
end

