-- ==== Sys2Proof/Machine/Flags.lean ====
section
/-! DEFINITION. The status flags (R150 bit[6:0], R76), as the byte that an effect ORs into status. -/
namespace Sys2Proof.Machine

/-- Invalid operation. -/
def fNV : BitVec 8 := 1
/-- Division of a non-zero finite number by zero. -/
def fDZ : BitVec 8 := 2
/-- Overflow. -/
def fOF : BitVec 8 := 4
/-- Underflow. -/
def fUF : BitVec 8 := 8
/-- Inexact. -/
def fNX : BitVec 8 := 16
/-- Saturated. -/
def fSV : BitVec 8 := 32
/-- ARRAY_BUSY: a load reached a compute-mode bank (R268). -/
def fBusy : BitVec 8 := 64

end Sys2Proof.Machine
end

