-- ==== Sys2Proof/Config.lean ====
section
/-! DEFINITION. What one part fixes (fuses, R7), and the free values: constants with no body, so that nothing can be proved of
the number they stand for.  Each is named in a log entry. -/
namespace Sys2Proof.Config

/-- A fresh value the manual leaves open, by the counter State.freeCount (log 3). -/
opaque freeValue : Nat → DWord
/-- A choice among the results that R121 and R123 allow, by function number, element-type code, FZ and input bits (log 4). -/
opaque approxChoice : Nat → Nat → Bool → DWord → Nat
/-- The converter's deviation from the ideal code before R275 limits it, by the counter State.freeCount (log 5). -/
opaque analogDeviation : Nat → Int
/-- Which of the allowed orders an unordered set of actions takes (log 6). -/
opaque orderChoice : Nat → Nat
/-- Core clocks that pass in one step, and ticks of the 100 MHz counter (R154, R420, log 9). -/
opaque clkAdvance : Nat → Nat
opaque rawAdvance : Nat → Nat
/-- The fused key hash of R439 (log 7). -/
opaque keyHash : BitVec 256
/-- The fused offset trim of an array bank (R287), by core number × 8 + bank (log 8). -/
opaque offTrim : Nat → Byte
/-- The fused gain trim of an array bank (R287) (log 8). -/
opaque gainTrim : Nat → Byte
/-- The fused calibration temperature of an array bank (R287) (log 8). -/
opaque calTempFuse : Nat → Half

/-- Where an L2 slice holds a byte of device memory: bank offset × 8 + data bank, by the byte's address (R229, log 34). -/
opaque l2Place : Nat → Nat
/-- The HOME of the leaves that map a granule of device memory while no cached leaf tells it (R416, log 16). -/
opaque leafHome : Nat → Nat

/-- The fabric port that leads to a device number, as firmware loaded it (R425, log 12). -/
opaque fabricPort : Nat → Nat
/-- EXPECT that another member of a group has registered for a collective (R428, log 21), by device number and collective. -/
opaque memberExpect : Nat → Nat → Nat

end Sys2Proof.Config
end

