-- ==== Sys2Proof/Machine/State.lean ====
section
/-! DEFINITION. The state of one Dzione device as plain data: every register, memory, queue and record that spec/ names, and
State.reset, the device right after power-good.  Lists of pairs keyed by a number are sparse maps in one canonical form (keys
rising, no entry equal to what an unlisted key reads as). -/
namespace Sys2Proof.Machine

/-- A map from numbers, as a list of pairs in rising order of the key. -/
abbrev Sparse (α : Type) := List (Nat × α)

/-- Why the model stops where the spec gives no effect. -/
inductive Fault where
  /-- A wave instruction is executed while no arm is issuing (State.cur names none): safe, no step of the machine does this. -/
  | noIssuingArm
  deriving DecidableEq, Repr

/-- What the model does not do. -/
inductive Refusal where
  /-- The instruction has no meaning in this model; raised by Dispatch only, safe. -/
  | notModelled (mnemonic : String)
  deriving DecidableEq, Repr

/-- What an instruction writes into its wave: vector words (key register × 1024 + lane), uniform registers, predicate bits
(register, lanes written, values) and status flags (R150 bit[6:0]). -/
structure Eff where
  v : Sparse Word := []
  k : Sparse DWord := []
  p : List (Nat × LaneMask × LaneMask) := []
  flags : BitVec 8 := 0
  deriving DecidableEq, Repr

/-- What completes an outstanding register result (R25, R28). -/
inductive ResKind where
  /-- The value is bound; it only remains to be written (RESULT_WRITE). -/
  | plain
  /-- The same, read from the block's scratchpad or arrays: an `amode` waits until it is written (R269). -/
  | scratch
  /-- The same, of a receive: no further receive of the wave issues until it is written (R369). -/
  | received
  /-- The lanes of a flat atomic, still to execute at their targets. -/
  | atomic (lanesLeft : Nat)
  /-- The block reads of an encoded `ldb` (R256). -/
  | decode (blocksLeft : Nat)
  /-- An `mdrain` to registers: its arbiter entry. -/
  | drain (entry : Nat)
  /-- A `trecv` on a port that has returned nothing yet (R369). -/
  | recv (graph port : Nat)
  /-- A `cstat` with its address operand, waiting for captures (R343). -/
  | cstat (ka : DWord)
  /-- A read from a peer device (R427): its request. -/
  | peer (req : Nat)
  deriving DecidableEq, Repr

/-- An outstanding variable-latency register result (R28). owner: 0 arm A or the undivided wave, 1 arm B, 2 both (R30). -/
structure OutRes where
  id : Nat
  owner : Nat
  kind : ResKind
  eff : Eff
  kd : Nat := 0
  /-- R457: the clk of the issue, and how many mask words of an LS load result are counted. -/
  at' : Nat := 0
  loads : Nat := 0
  deriving DecidableEq, Repr

/-- A fault to be taken later (R379, R405): cause, subcode, INFO and the launch site. -/
structure Deferred where
  cause : Nat
  sub : Nat
  info : DWord
  site : DWord
  seq : Word
  deriving DecidableEq, Repr

/-- A waiting warp-wide instance (R191, R192): which instruction, its member descriptor, executing lanes, the sampled sources by
lane, mode and destination. -/
structure WarpWait where
  key : List Nat
  desc : DWord
  exec : LaneMask
  src : Sparse DWord
  idx : Sparse DWord
  pq : LaneMask
  mode : Word
  dest : Nat
  pc : DWord
  /-- R192: the clk of the issue. -/
  clk : Nat := 0
  deriving DecidableEq, Repr

/-- A trap or halt that waits for the wave's outstanding results (R29, R143, R156): cause, subcode, resume address, INFO, AT, the launch
site; whether it is the oldest pending deferred fault, and whether the wave halts whatever the handler. -/
structure TrapWait where
  cause : Nat
  sub : Nat
  deferred : Bool
  halts : Bool
  pc : DWord
  info : DWord
  atWord : DWord
  site : DWord
  seq : Option Word
  deriving DecidableEq, Repr

/-- The states of an arm (R162), with what a waiting instruction read at issue (R405). -/
inductive ArmSt where
  | ready
  /-- Waits for its outstanding results: a switch marker, a rejoin, a drain (R27, R30). -/
  | parked
  /-- Stopped at the rejoin of the topmost divergence (R186). -/
  | stopped
  | waitge (va : DWord) (key : Nat) (target : DWord) (cont : Option DWord)
  | fwait (graph port key : Nat) (ts : DWord)
  | barw (ka : DWord) (gen : Half)
  | claim (p n : Nat)
  | warp (x : WarpWait)
  | amode (entry : Nat)
  | yield (others : List (Nat × Nat))
  /-- `rehome` waits for the arm's earlier accesses (R418): granules with the HOME of their leaves. -/
  | rehome (l : List (Nat × Nat))
  /-- Takes a trap, or halts, once the wave's results are written (R29). -/
  | trap (x : TrapWait)
  deriving DecidableEq, Repr

/-- An issued fence that has not completed (R301). -/
structure Fence where
  kind : Nat
  scope : Nat
  paths : BitVec 4
  deriving DecidableEq, Repr

/-- What belongs to one arm, or to the undivided wave (R30, R141, R185, R204, R324). -/
structure Arm where
  pc : DWord := 0
  mode : Word := 0
  dmask : BitVec 256 := 0
  mask : LaneMask := 0
  scope : Nat := 4
  st : ArmSt := .ready
  arrival : Option (DWord × Half) := none
  fence : Option Fence := none
  lastIssue : Nat := 0
  /-- R454: why the next instruction did not issue. -/
  reason : Nat := 0
  /-- R456: the next instruction issues once without a breakpoint match; where a handler runs first, the address of that instruction. -/
  skipBp : Bool := false
  skipAt : Option DWord := none
  /-- R408: the time that a wait has been counted, in 100 MHz ticks. -/
  waited : Nat := 0
  deriving DecidableEq, Repr

/-- An entry of the reconvergence stack (R185). -/
structure StackEntry where
  ownerB : Bool
  topmost : Bool
  rejoin : DWord
  parent : LaneMask
  mode : Word
  pend : LaneMask
  pendPc : DWord
  pendDone : Bool
  deriving DecidableEq, Repr

/-- R92: flags of a fixed-latency result that is not ready: the registers it writes (vector r as r, kn as 256 + n, pn as 320 + n), and the
clk in which it becomes ready (R26). -/
structure LateFlags where
  flags : BitVec 8
  regs : List Nat
  ready : Nat
  deriving DecidableEq, Repr

/-- One wave (R11, R162, R321, R405). -/
structure Wave where
  idx : Nat := 0
  slot : Nat := 0
  octets : Nat := 1
  v : Sparse Word := []
  k : Sparse DWord := []
  p : Sparse LaneMask := []
  exited : LaneMask := 0
  status : Word := 0
  /-- R92: flags of fixed-latency results that are not ready, each raised once. -/
  late : List LateFlags := []
  fault0 : DWord := 0
  fault1 : DWord := 0
  a : Arm := {}
  b : Option Arm := none
  stack : List StackEntry := []
  outst : List OutRes := []
  pend : List Deferred := []
  halted : Bool := false
  done : Bool := false
  epoch : BitVec 8 := 0
  res : Nat := 0
  /-- The arm whose handler runs while HND = 1, and whether the wave was divided when it was entered (R156). -/
  handlerB : Bool := false
  handlerArm : Bool := false
  /-- R387: register words (register × 1024 + lane) with a single-bit, and with an uncorrectable error. -/
  softRegs : List Nat := []
  badRegs : List Nat := []
  /-- R301, R310: work with a lower id was issued before the `bdiv` that divided the wave. -/
  division : Nat := 0
  deriving DecidableEq, Repr

/-- An entry of a block's held table (R354). -/
structure Held where
  port : Nat
  ts : DWord
  count : Nat
  deriving DecidableEq, Repr

/-- The inbox ring of one bound port (R361, R362). -/
structure Inbox where
  port : Nat
  head : Nat := 0
  tail : Nat := 0
  deriving DecidableEq, Repr

/-- One array bank of a core (R267, R277). -/
structure Bank where
  compute : Bool := false
  ww : Nat := 0
  exps : Sparse Byte := []
  calibrated : Bool := false
  calTemp : Option Half := none
  calAt : Nat := 0
  deriving DecidableEq, Repr

/-- What an array arbiter entry does (R279). -/
inductive ArrOp where
  | amode (banks : BitVec 8) (toC : Bool) (ww : Nat) (expofs : Nat)
  | mmac (t bank gain rep : Nat) (rec : DWord)
  | mzero (t : Nat)
  | mdrain (d t cnt col : Nat) (zero : Bool) (tgt slot : Nat) (offs : Sparse Word)
  | mpack (bank src : Nat)
  | mcal (banks : BitVec 8)
  deriving DecidableEq, Repr

/-- An entry of the array arbiter (R218, R403). -/
structure ArbEntry where
  id : Nat
  b : Nat
  w : Nat
  armB : Bool
  op : ArrOp
  /-- R218: the array banks in bits 7:0 and the check bank in bit 8, which no instruction of R279 names. -/
  banks : BitVec 9
  tiles : BitVec 8
  cls : Nat
  length : Nat
  granted : Bool := false
  /-- R275: the highest temperature reported in the die since the grant. -/
  hot : Int := 0
  mode : Word
  act : LaneMask
  lanesDone : Nat := 0
  site : DWord
  /-- R404: the instruction's words, and its operand kA. -/
  code : List Word := []
  ka : DWord := 0
  deriving DecidableEq, Repr

/-- A copy from its issue to its completion (R329, R403). -/
structure Copy where
  id : Nat
  b : Nat
  w : Nat
  armB : Bool
  /-- R310: every copy of the wave with a lower id is earlier in program order. -/
  since : Nat
  ka : DWord
  site : DWord
  block : Option (List Byte) := none
  /-- R403: positions before it, in the order of the dense offset, are done; the fault detected first; R337: a read met a compute-mode
  bank. -/
  progress : Nat := 0
  fault : Option (Nat × Nat × DWord) := none
  busy : Bool := false
  stopped : Bool := false
  deriving DecidableEq, Repr

/-- What a pre-empted block holds beside its waves and channels (R404): its range by block offset, modes, columns, tiles, copies. -/
structure Saved where
  scratch : Sparse Byte := []
  banks : Sparse Bank := []
  tiles : Sparse Word := []
  softTiles : List Nat := []
  badTiles : List Nat := []
  copies : List Copy := []
  deriving DecidableEq, Repr

/-- Where a block stands (R162, R163, R404 KIND). -/
inductive BlockSt where
  | resident
  | swapped
  | preempted
  | done
  deriving DecidableEq, Repr

/-- One block (R163 to R170, R354, R361, R451). -/
structure Block where
  launch : Nat
  gang : Nat
  index : Nat
  die : Nat
  core : Nat
  vdie : Nat
  base : Nat
  st : BlockSt := .resident
  pool : Nat := 0
  claims : List (Nat × Nat) := []
  /-- R168: the waves whose claims arrived in this clk. -/
  claimNow : List Nat := []
  waves : List Wave := []
  sampctl : DWord := 0x600
  sampbuf : DWord := 0
  sampleNext : Nat := 0
  /-- R455: the mark records in the ring that were written in the clk marksClk. -/
  marks : List (DWord × DWord) := []
  marksClk : Nat := 0
  held : List Held := []
  reserved : Nat := 0
  inboxes : List Inbox := []
  copyFaults : Nat := 0
  /-- The scratchpad range has been released with the gang (R173). -/
  released : Bool := false
  /-- R406: the block is back but its waves may not issue yet. -/
  restoring : Bool := false
  /-- R221: the restore of a woken block has begun; it waits for the slots and rows of blocks that stop. -/
  coming : Bool := false
  /-- The place of the block's save record in the save region (R401), as an offset and a size. -/
  save : Option (Nat × Nat) := none
  /-- R398, R402: what the block has while its range is not on its core; R221, R403: its recorded array entries. -/
  saved : Option Saved := none
  savedArb : List ArbEntry := []
  placed : Nat := 0
  deriving DecidableEq, Repr

/-- Where a gang stands (R210, R398 to R407). -/
inductive GangSt where
  | waiting
  | placed
  | preempted
  | done
  deriving DecidableEq, Repr

/-- One gang (R171, R172, R210, R398 to R400). -/
structure Gang where
  number : Nat
  vdie : Nat
  die : Nat
  x0 : Nat
  y0 : Nat
  st : GangSt := .waiting
  waited : Nat := 0
  promoted : Bool := false
  behind : Bool := false
  stopReq : Bool := false
  sliceDone : Bool := false
  /-- R210: the place in the order of acceptance. -/
  order : Nat := 0
  /-- R400: the place in that order of the stop by an expired slice that put the gang behind others; 0: none since its last placement. -/
  late : Nat := 0
  /-- R399: the step of its latest placement. -/
  placedAt : Nat := 0
  /-- R400: the 100 MHz tick of the placement or of the latest restore. -/
  since : Nat := 0
  /-- R401: the places kept for the records of a gang that has been asked to stop: block, offset, size. -/
  places : List (Nat × Nat × Nat) := []
  blocks : List Nat := []
  deriving DecidableEq, Repr

/-- The fields of an accepted launch record (R174) with its captured buffer table (R236). -/
structure Launch where
  ctx : Nat
  queue : Nat
  seq : Word
  entry : DWord := 0
  handler : DWord := 0
  waves : Nat := 1
  producer : Nat := 0
  lanes : Nat := 1
  octets : Nat := 1
  pool : Nat := 0
  granules : Nat := 0
  priority : Nat := 1
  hint : Nat := 0
  shape : Nat := 0
  roles : Word := 0
  graph : Option Nat := none
  arrays : Bool := false
  slots : List DWord := []
  args : List DWord := []
  rects : List (Nat × Nat × Nat × Nat × Nat) := []
  bufs : List (List DWord) := []
  caddr : DWord := 0
  cinc : DWord := 0
  gangs : List Gang := []
  ended : Bool := false
  done : Bool := false
  ordinal : Nat := 0
  /-- R214: the dies whose hold has been released. -/
  released : List Nat := []
  /-- R214: the dies whose point has been requested. -/
  asked : List Nat := []
  deriving DecidableEq, Repr

/-- An entry travelling on a channel (R358, R361): from its send to its place in a ring. -/
structure Entry where
  graph : Nat
  chan : Nat
  port : Nat
  /-- The consumer block; none for an owner on another device. -/
  cons : Option Nat
  ts : DWord
  sender : Word
  payload : List Word
  core : Nat
  b : Nat
  w : Nat
  armB : Bool := false
  /-- It has reached the consumer core's inbox controller. -/
  arrived : Bool := false
  /-- The batch with its +1 has been applied. -/
  applied : Bool := false
  id : Nat
  deriving DecidableEq, Repr

/-- One count change (R356). -/
structure Delta where
  port : Nat
  ts : DWord
  add : Int
  entry : Option Nat := none
  /-- R365: of a `tcap` or `tdrop`: block, wave, arm and place in the issue order. -/
  own : Option (Nat × Nat × Bool × Nat) := none
  deriving DecidableEq, Repr

/-- A batch of count changes of one core and graph (R356, R357). -/
structure Batch where
  core : Nat
  graph : Nat
  deltas : List Delta
  deriving DecidableEq, Repr

/-- What one core holds beside its waves (R163, R224, R227, R266, R321, R329, R335). -/
structure Core where
  scratch : Sparse Byte := []
  /-- R230: 32-bit bank words (bank × 16384 + word) whose detection code fails; bank 8 is the check bank. -/
  scrFail : List Nat := []
  /-- R231: lost banks of the scratchpad, the check bank with bit 8. -/
  lost : BitVec 9 := 0
  banks : Sparse Bank := []
  tiles : Sparse Word := []
  /-- R387: tile words with a single-bit, and with an uncorrectable error. -/
  softTiles : List Nat := []
  badTiles : List Nat := []
  arb : List ArbEntry := []
  copies : List Copy := []
  pcache : List (Nat × Nat) := []
  /-- Lines present and clean in L1 data, and their bytes that are older than the home slice's (R227, R308). -/
  l1 : List Nat := []
  l1Old : Sparse Byte := []
  /-- R23: words (key / 4) with a value that they had before a store since the core's instruction cache was last invalidated. -/
  icOld : List (Nat × Word) := []
  /-- Decoded lines (R264): encoded address, ENC, BUDGET and SHAPE, the encoded bytes they came from, the sixteen values. -/
  decoded : List (Nat × Nat × List Byte × List DWord) := []
  res : Sparse Nat := []
  raceScr : Sparse Word := []
  deriving DecidableEq, Repr

/-- An armed monitor, or a waiter in a retry set (R303).  fired: a compare after the arming held.  peer: the waiter is a peer device's wave
(R427), with its target. -/
structure Monitor where
  b : Nat
  w : Nat
  armB : Bool
  key : Nat
  line : Nat
  home : Nat
  retry : Bool := false
  fired : Bool := false
  peer : Option DWord := none
  deriving DecidableEq, Repr

/-- R209, R303, R364: a monitor of the distributor on a queue descriptor's line (context, queue), or of Cardamom on an external ring's
(graph, 16), in one of its slice's reserved entries.  fired: a write to the line has been applied since. -/
structure AgentMon where
  who : Nat × Nat
  home : Nat
  line : Nat
  fired : Bool := false
  deriving DecidableEq, Repr

/-- One lane of a flat atomic on its way to its target (R293 to R300). -/
structure AtomReq where
  inst : Nat
  b : Nat
  w : Nat
  armB : Bool
  core : Nat
  lane : Nat
  va : DWord
  key : Nat
  host : Bool
  /-- The page carries the race-check attribute. -/
  rc : Bool
  /-- R416: the HOME of the leaf. -/
  home : Nat
  op : Nat
  et : Nat
  rm : Nat
  fz : Bool
  c : DWord
  new : DWord
  ret : Bool
  d : Nat
  res : Nat
  site : DWord
  seq : Word
  f : Nat
  /-- R462: held at its slice by a replay, and when it came to be held there first (0: never). -/
  held : Bool := false
  arrived : Nat := 0
  deriving DecidableEq, Repr

/-- A block read or block write of Sumac (R256, R257). -/
structure Sumac where
  id : Nat
  /-- The wave it serves, or none for the aperture. -/
  who : Option (Nat × Nat × Bool)
  core : Nat
  die : Nat
  write : Bool
  /-- The five words of the buffer record; physical for an aperture window. -/
  buf : List DWord
  blk : Nat
  /-- Keys of the encoded bytes and of the map byte. -/
  key : Nat
  mapKey : Option Nat
  updates : Sparse DWord
  full : Bool
  /-- For a read: lane and element pairs, and the destination register. -/
  lanes : List (Nat × Nat)
  d : Nat
  res : Nat
  site : DWord
  seq : Word
  asid : Nat
  /-- R263: it holds its block's lock since its issue. -/
  locked : Bool := false
  /-- After SUMAC_BLOCK_WRITE: the bytes and map code to apply, and the values of R257's d and y. -/
  out : Option (List Byte × Nat × List DWord × List DWord) := none
  deriving DecidableEq, Repr

/-- A reported failure on its way to a wave's core (R379). -/
structure Report where
  b : Nat
  w : Nat
  d : Deferred
  deriving DecidableEq, Repr

/-- A cached leaf (R394).  holder: the number of the die whose TLB it is in, or 16 + 2 × core for a core's data TLB, and one more for its
instruction TLB. -/
structure Tlb where
  asid : Nat
  holder : Nat
  va : Nat
  size : Nat
  pa : Nat
  attr : BitVec 12
  deriving DecidableEq, Repr

/-- R394: a pointer entry of the walk cache, for the page of its level that holds an address. -/
structure Walk where
  asid : Nat
  lvl : Nat
  page : Nat
  entry : DWord
  deriving DecidableEq, Repr

/-- A contention-predictor entry (R297). st: 0 Q, 1 O(core), 2 H; the slice that keeps it. -/
structure Pred where
  line : Nat
  home : Nat := 0
  st : Nat
  core : Nat
  xfer : Nat
  run : Nat
  deriving DecidableEq, Repr

/-- The effect of a path on a timestamp, counter by counter (R352): cleared first?, then the amount added. -/
structure Summary where
  c0 : Bool × Nat
  c1 : Bool × Nat
  c2 : Bool × Nat
  c3 : Bool × Nat
  deriving DecidableEq, Repr

/-- A port of a graph image (R350). -/
structure Port where
  depth : Nat
  plen : Nat
  log2e : Nat
  inbox : Nat
  icap : Nat
  deriving DecidableEq, Repr

/-- A channel of a graph image (R350). -/
structure Edge where
  src : Nat
  dst : Nat
  kind : Nat
  vec : DWord
  deriving DecidableEq, Repr

/-- The circulating token of a shared graph (R432), held by this device: an antichain for every port, with OVF where it is a meet (R359). -/
structure Token where
  round : Nat
  black : Bool
  chains : List (List DWord × Bool)
  deriving DecidableEq, Repr

/-- R431: an entry sent to an owner on another device, which has not acknowledged it. -/
structure Unacked where
  chan : Nat
  b : Nat
  w : Nat
  armB : Bool := false
  id : Nat
  ts : DWord
  deriving DecidableEq, Repr

/-- A registered graph (R350 to R364, R431, R432). -/
structure Graph where
  ctx : Nat
  num : Nat
  image : DWord
  ports : List Port
  edges : List Edge
  front : DWord
  xring : DWord
  xlog2n : Nat
  /-- S(p, q) by p, then q. -/
  sums : List (List (List Summary))
  counts : List (Nat × DWord × Nat)
  extCaps : List (Nat × DWord × Nat)
  /-- The announced frontier of each port with OVF, and GEN. -/
  ann : List (List DWord × Bool × Nat)
  /-- A frontier word that awaits its write. -/
  dirty : List Nat := []
  bound : Option Nat := none
  /-- By port: the rotation position (R363). -/
  rotation : Sparse Nat := []
  group : Option Nat := none
  place : List Nat := []
  /-- R363, R431: credits that other devices hold: channel and consumer block, oldest first. -/
  lent : List (Nat × Nat) := []
  /-- R431: unacknowledged entries. -/
  unacked : List Unacked := []
  /-- R432: an entry was sent to an earlier position since the token was last passed. -/
  sentBack : Bool := false
  token : Option Token := none
  /-- R432: the token as this device last passed it on. -/
  passed : Option Token := none
  /-- The declared frontiers of a shared graph, with OVF. -/
  declared : List (List DWord × Bool) := []
  deriving DecidableEq, Repr

/-- A `tsend` that waits for its credits (R363, R368). -/
structure SendReq where
  b : Nat
  w : Nat
  armB : Bool
  graph : Nat
  chan : Nat
  lanes : Nat
  /-- The instruction's address and its kC: the checks on the values were made once, at its issue (R368). -/
  site : DWord
  kc : DWord
  granted : Option (List (Option Nat)) := none
  deriving DecidableEq, Repr

/-- A reduction collective (R428 to R430). -/
structure Coll where
  result : DWord
  nblk : Nat
  fmt : Nat
  group : Nat
  expect : Nat
  caddr : DWord
  cinc : DWord
  /-- Contributions by member: rows (offset, 256 words), oldest first. -/
  rows : List (Nat × Nat × List Word) := []
  deriving DecidableEq, Repr

/-- A context (R207, R220, R382, R384, R393, R400, R408, R414, R456, R460). -/
structure Context where
  number : Nat
  asid : Nat
  root : Nat
  rootHost : Bool
  ccb : DWord
  vdies : List Byte
  saveBase : Nat
  saveSize : Nat
  /-- R220, R400, R408: the swap threshold in µs, the hang time in 10 ms and the time slices of levels 1 to 7 in 10 µs. -/
  swapUs : Nat := 50
  hang : Nat := 1000
  slices : List Nat := List.replicate 7 1000
  live : Bool := true
  colls : Sparse Coll := []
  debug : Bool := false
  bps : List DWord := []
  /-- R385: a notification awaits the end of the hold-off, and one is running. -/
  notifyDue : Bool := false
  notifyHeld : Bool := false
  shootPending : Bool := false
  shootSeq : DWord := 0
  replayMode : Nat := 0
  replayVa : DWord := 0
  replayBytes : Nat := 0
  ordinals : Nat := 0
  /-- R385: the raw time of the last type 8 collector record. -/
  type8 : Option Nat := none
  deriving DecidableEq, Repr

/-- One line's remaining replay entries: (requester ordinal, gang, block, wave, runs). -/
structure ReplayLine where
  ctx : Nat
  line : Nat
  runs : List (Nat × Nat × Nat × Nat × Nat)
  diverged : Bool := false
  deriving DecidableEq, Repr

/-- A slice's recording of a context's atomics (R461): the open run and the entries written. -/
structure ReplaySeg where
  ctx : Nat
  slice : Nat
  count : Nat := 0
  ovf : Bool := false
  openRuns : List (Nat × Nat × Nat × Nat × Nat × Nat) := []
  deriving DecidableEq, Repr

/-- One entry of an applied-atomic log (R300), as its 48 bytes. -/
structure AtomLog where
  slice : Nat
  bytes : List Byte
  deriving DecidableEq, Repr

/-- A record of the error collector (R459). -/
structure CollRec where
  type : Nat
  die : Nat
  place : Nat
  time : DWord
  payload : List Byte
  deriving DecidableEq, Repr

/-- A monitor unit (R457, R458). -/
structure MonUnit where
  src : Nat := 0
  log2 : Bool := false
  shift : Nat := 0
  en : Bool := false
  sel : Nat := 0
  base : Int := 0
  lo : Int := 0x7FFFFFFF
  hi : Int := -0x80000000
  count : Nat := 0
  bins : Sparse Nat := []
  deriving DecidableEq, Repr

/-- An access to a peer device that awaits its response (R427). kind: 0 read, 1 write, 2 atomic. -/
structure PeerReq where
  id : Nat
  kind : Nat
  b : Nat
  w : Nat
  lane : Nat
  res : Nat
  dev : Nat
  pa : Nat
  va : DWord
  data : List Byte
  site : DWord
  seq : Word
  deriving DecidableEq, Repr

/-- An import window (R427). -/
structure Import where
  size : Nat
  dev : Nat
  peerPa : Nat
  deriving DecidableEq, Repr

/-- A mailbox command in progress (R440): IMAGE_WRITE, or RESTART, which may have stopped the dies already. -/
structure Job where
  cmd : Nat
  seq : DWord
  args : List Byte
  stopped : Bool := false
  deriving DecidableEq, Repr

/-- The device as a whole (R413, R420, R422 to R427, R436 to R448, R459, R463). -/
structure Dev where
  dieEn : BitVec 8 := 0xFF
  /-- Power is there (R438, R463). -/
  powered : Bool := true
  stage : Nat := 0
  failCode : BitVec 8 := 0
  dump : Bool := false
  /-- R463, R464: the reserved region of stack 2 × HOSTDIE, as far as the last dump wrote it. -/
  dumpMem : List Byte := []
  mbSeq : DWord := 0
  mbDone : DWord := 0
  mbCmd : DWord := 0
  mbArg : DWord := 0
  mbResult : DWord := 0
  /-- R440: the command in progress. -/
  job : Option Job := none
  /-- R440: RESTART with HOLD = 1 has been given. -/
  hold : Bool := false
  /-- Sensors by unit × 32 + s: unit 0 to 8 a die, 9 the HBM stacks.  (VALID, TEMP). -/
  sensors : Sparse (Bool × Half) := []
  /-- R443: (THROTTLED, WARNED, CRIT, THROTTLE, WARN) of dies 0 to 8. -/
  thr : Sparse (BitVec 64) := []
  /-- R445: the operating point of each compute die; index 0 at start. -/
  point : Sparse Nat := []
  granted : Sparse Nat := []
  /-- R443: the control die has throttled the dies and has not cooled to THROTTLE − 8 since. -/
  ctlThrottled : Bool := false
  /-- R214: a die is on its way to its granted point. -/
  unstable : List Nat := []
  pctl : DWord := 0xE10
  pmeas : DWord := 0
  /-- R447: ballast headroom withdrawn, and dies that the cap lowered. -/
  ballastStop : Bool := false
  overCap : Bool := false
  underCap : Bool := false
  drawMost : Nat := 0
  capped : List Nat := []
  /-- R448: Annatto keeps ballast from issuing until the next measurement. -/
  ballastGated : Bool := false
  /-- R448: the 10 µs measurements for which INBAND stays 0. -/
  outOfBand : Nat := 0
  /-- R444: the refresh band of each HBM stack. -/
  refresh : Sparse Nat := []
  slot : Sparse Byte := []
  ofs : Sparse DWord := []
  rate : Sparse Word := []
  /-- R421: the OFS and RATE that a die had before the last write, and the raw count of that write. -/
  steered : Sparse (Option (DWord × Word × Nat)) := []
  /-- clk and raw ticks since power-good at which a die was reset. -/
  clkZero : Sparse Nat := []
  rawZero : Sparse Nat := []
  number : Nat := 0
  groups : Sparse (List Nat) := []
  imports : Sparse Import := []
  linksDown : List Nat := []
  windows : Sparse (List DWord) := []
  homeDir : Sparse Byte := []
  collector : List CollRec := []
  dropped : Nat := 0
  /-- R231: the raw times of the corrected errors of the last 1 s, by unit and bank. -/
  corrected : List (Nat × Nat × List Nat) := []
  units : Sparse MonUnit := []
  deriving DecidableEq, Repr

/-- Which arm issues: block, wave, and whether it is arm B of the topmost divergence. -/
structure Cursor where
  b : Nat
  w : Nat
  armB : Bool
  deriving DecidableEq, Repr

/-- What the next step does: an event, or the issue of one core (die × 64 + core). -/
inductive Turn where
  | event (i : Instr)
  | core (c : Nat)
  deriving DecidableEq, Repr

/-- The whole device. -/
structure State where
  /-- Device memory at its physical address, host memory at 2^56 + its physical address (R222, R388). -/
  mem : List Host.Cell
  /-- R232: 16-bit symbols of device memory in error (address / 2), and 32-bit words (key / 4) that are uncorrectable of themselves: errors
  that the host reports, and bursts with more than two symbols in error. -/
  memFail : List Nat
  memBad : List Nat
  /-- R229, R231: L2 bank words whose detection code fails, as (slice × 9 + bank) × 2^40 + word, and lost banks, as slice × 9 + bank; bank 8 is
  the check bank. -/
  l2Fail : List Nat
  l2Lost : List Nat
  race : Sparse Word
  raceBlk : Sparse Word
  sync : Sparse Word
  preds : List Pred
  monitors : List Monitor
  tlb : List Tlb
  walks : List Walk
  ctxs : List Context
  launches : List Launch
  blocks : List Block
  cores : Sparse Core
  graphs : List Graph
  entries : List Entry
  openBatches : List Batch
  closedBatches : List Batch
  sendReqs : List SendReq
  atomReqs : List AtomReq
  sumac : List Sumac
  reports : List Report
  atomLog : List AtomLog
  logOver : Sparse Nat
  peerReqs : List PeerReq
  /-- R32, R427: what this device knows that peer devices' bytes hold, by 2^60 × (device number + 1) + address. -/
  peerMem : Sparse (Option Byte)
  /-- R301, R305: each `zwb` that has not completed: block, wave, arm B?, its id, the block writes it waits for. -/
  zwbs : List (Nat × Nat × Bool × Nat × List Nat)
  replayLines : List ReplayLine
  replaySegs : List ReplaySeg
  dev : Dev
  /-- Core clocks and 100 MHz ticks since power-good. -/
  clk : Nat
  raw : Nat
  /-- Steps taken: the order of issue (R215). -/
  ticks : Nat
  nextId : Nat
  /-- The model's own: how many free values have been drawn. -/
  freeCount : Nat
  /-- The model's own: what happens next, head first; and the arm that issues. -/
  agenda : List Turn
  cur : Option Cursor
  /-- R303: the monitors in the reserved entries. -/
  agentMons : List AgentMon := []
  /-- The model's own: the arm whose turn the last step was. -/
  ran : Option Cursor := none
  /-- The model's own: the clk of the last step, and the PC of its arm before it issued (R452). -/
  ranClk : Nat := 0
  ranPc : DWord := 0
  deriving DecidableEq, Repr

/-- The device right after power-good: stage 0, image slot empty, no context (R438, R439; logs 1 and 2). -/
def State.reset : State :=
  { mem := [], memFail := [], memBad := [], l2Fail := [], l2Lost := [], race := [], raceBlk := [], sync := [], preds := [], monitors := [],
    tlb := [], walks := [], ctxs := [], launches := [], blocks := [], cores := [], graphs := [], entries := [], openBatches := [],
    closedBatches := [], sendReqs := [], atomReqs := [], sumac := [], reports := [], atomLog := [], logOver := [],
    peerReqs := [], peerMem := [], zwbs := [], replayLines := [], replaySegs := [], dev := {}, clk := 0, raw := 0, ticks := 0, nextId := 1,
    freeCount := 0, agenda := [], cur := none }

end Sys2Proof.Machine
end

