-- ==== Sys2Proof/Machine/Sparse.lean ====
section
/-! DEFINITION. Sparse maps in canonical form, little-endian bytes, and the list operations of the machine. -/
namespace Sys2Proof.Machine

/-- What a sparse map holds at n; d where it lists nothing. -/
def sget {α : Type} (d : α) : Sparse α → Nat → α
  | [], _ => d
  | (k, x) :: t, n => if k == n then x else sget d t n

/-- A sparse map with x, which is not the default, at n. -/
def sins {α : Type} : Sparse α → Nat → α → Sparse α
  | [], n, x => [(n, x)]
  | (k, y) :: t, n, x => if n < k then (n, x) :: (k, y) :: t else if n = k then (n, x) :: t else (k, y) :: sins t n x

/-- A sparse map with x at n; an entry equal to the default d is dropped. -/
def sset {α : Type} [DecidableEq α] (d : α) (m : Sparse α) (n : Nat) (x : α) : Sparse α :=
  if x = d then m.filter fun y => y.1 != n else sins m n x

/-- Keys above lo, rising, and no default entry. -/
def swfFrom {α : Type} [DecidableEq α] (d : α) : Option Nat → Sparse α → Bool
  | _, [] => true
  | lo, (k, x) :: t => (match lo with | none => true | some l => l < k) && !(x = d : Bool) && swfFrom d (some k) t

/-- The canonical form of a sparse map. -/
def swf {α : Type} [DecidableEq α] (d : α) (l : Sparse α) : Bool := swfFrom d none l

/-- The canonical form of memory: an unlisted address reads as 0 (log 2). -/
def Memory.wf (m : List Host.Cell) : Bool := swf (0 : Byte) m

/-- Several bindings, in order. -/
def ssetAll {α : Type} [DecidableEq α] (d : α) (m : Sparse α) (l : Sparse α) : Sparse α :=
  l.foldl (fun m x => sset d m x.1 x.2) m

/-- A map without the keys that f names. -/
def sdrop {α : Type} (m : Sparse α) (f : Nat → Bool) : Sparse α := m.filter fun x => !f x.1

/-- Whether a key is listed. -/
def shas {α : Type} (m : Sparse α) (n : Nat) : Bool := m.any fun x => x.1 == n

/-- A list with its i-th element changed by f. -/
def upd {α : Type} : List α → Nat → (α → α) → List α
  | [], _, _ => []
  | x :: t, 0, f => f x :: t
  | x :: t, n + 1, f => x :: upd t n f

/-- A list without its i-th element. -/
def dropAt {α : Type} : List α → Nat → List α
  | [], _ => []
  | _ :: t, 0 => t
  | x :: t, n + 1 => x :: dropAt t n

/-- n consecutive numbers from a. -/
def span (a n : Nat) : List Nat := (List.range n).map (a + ·)

/-- The n low bytes of x, lowest first (R31). -/
def leBytes : Nat → Nat → List Byte
  | 0, _ => []
  | n + 1, x => BitVec.ofNat 8 x :: leBytes n (x / 256)

/-- The number that little-endian bytes hold. -/
def leNat : List Byte → Nat
  | [] => 0
  | b :: t => b.toNat + 256 * leNat t

/-- n bytes of a list from offset o, zero beyond its end. -/
def slice (l : List Byte) (o n : Nat) : List Byte := (List.range n).map fun i => l.getD (o + i) 0
/-- The field of n bytes at offset o of a record. -/
def field (l : List Byte) (o n : Nat) : Nat := leNat (slice l o n)

/-- Sign extension of an n-bit value to 64 bits. -/
def sx64 (n : Nat) (x : DWord) : DWord := (x.setWidth n).signExtend 64
/-- R31: bit[63:57] all equal bit[56]. -/
def canonical (va : DWord) : Bool := sx64 57 va == va

/-- R348: counter i of a timestamp. -/
def ctr (t : DWord) (i : Nat) : Nat := (t.toNat / 2 ^ (48 - 16 * i)) % 65536
/-- R349: product order of timestamps. -/
def tsLe (t u : DWord) : Bool := (List.range 4).all fun i => ctr t i ≤ ctr u i

/-- The lanes of a mask below n, in increasing order. -/
def lanesOf (n : Nat) (m : LaneMask) : List Nat := (List.range n).filter fun i => m.getLsbD i
/-- The mask of a list of lanes. -/
def maskOf (l : List Nat) : LaneMask := l.foldl (fun m i => m ||| (1#1024 <<< i)) 0
/-- The mask of lanes 0 to n − 1. -/
def lowMask (n : Nat) : LaneMask := BitVec.ofNat 1024 (2 ^ n - 1)
/-- The numbers of the set bits of a byte. -/
def bitsOf (m : BitVec 8) : List Nat := (List.range 8).filter fun i => m.getLsbD i

end Sys2Proof.Machine
end

