-- ==== Sys2Proof/Machine/Ops.lean ====
section
/-! DEFINITION. The named operations over the machine's state: blocks, waves and arms; registers; physical memory and its
hooks; translation; race and synchronisation records; fault records; taking a trap (R156) and returning from it (R157). -/
namespace Sys2Proof.Machine

/-! ### Named parts of the state -/

/-- A block that no launch has. -/
def noBlock : Block := { launch := 0, gang := 0, index := 0, die := 0, core := 0, vdie := 0, base := 0, st := .done }
/-- A launch that no queue has. -/
def noLaunch : Launch := { ctx := 0, queue := 0, seq := 0, ended := true, done := true }
/-- A context that does not exist. -/
def noCtx : Context :=
  { number := 0, asid := 0, root := 0, rootHost := false, ccb := 0, vdies := [], saveBase := 0, saveSize := 0, swapUs := 0,
    hang := 0, slices := [], live := false }
/-- A gang of no launch. -/
def noGang : Gang := { number := 0, vdie := 0, die := 0, x0 := 0, y0 := 0, st := .done }

def State.block (s : State) (b : Nat) : Block := s.blocks.getD b noBlock
def State.launch (s : State) (l : Nat) : Launch := s.launches.getD l noLaunch
def State.ctx (s : State) (x : Nat) : Context := s.ctxs.getD x noCtx
def State.wave (s : State) (b w : Nat) : Wave := (s.block b).waves.getD w { done := true }
def State.core (s : State) (c : Nat) : Core := sget {} s.cores c
def State.gang (s : State) (l g : Nat) : Gang := (s.launch l).gangs.getD g noGang

def State.modBlock (s : State) (b : Nat) (f : Block → Block) : State := { s with blocks := upd s.blocks b f }
def State.modLaunch (s : State) (l : Nat) (f : Launch → Launch) : State := { s with launches := upd s.launches l f }
def State.modCtx (s : State) (x : Nat) (f : Context → Context) : State := { s with ctxs := upd s.ctxs x f }
def State.modCore (s : State) (c : Nat) (f : Core → Core) : State := { s with cores := sset {} s.cores c (f (s.core c)) }
def State.modDev (s : State) (f : Dev → Dev) : State := { s with dev := f s.dev }
def State.modGraph (s : State) (g : Nat) (f : Graph → Graph) : State := { s with graphs := upd s.graphs g f }
def Block.modWave (k : Block) (w : Nat) (f : Wave → Wave) : Block := { k with waves := upd k.waves w f }
def State.modWave (s : State) (b w : Nat) (f : Wave → Wave) : State := s.modBlock b fun k => k.modWave w f
def State.modGang (s : State) (l g : Nat) (f : Gang → Gang) : State :=
  s.modLaunch l fun n => { n with gangs := upd n.gangs g f }

/-- The named arm of a wave; arm A stands for the undivided wave. -/
def Wave.arm (w : Wave) (armB : Bool) : Arm := if armB then w.b.getD {} else w.a
/-- A wave with one arm changed. -/
def Wave.modArm (w : Wave) (armB : Bool) (f : Arm → Arm) : Wave :=
  { w with a := if armB then w.a else f w.a, b := if armB then w.b.map f else w.b }
def State.modArm (s : State) (u : Cursor) (f : Arm → Arm) : State := s.modWave u.b u.w fun w => w.modArm u.armB f
def State.arm (s : State) (u : Cursor) : Arm := (s.wave u.b u.w).arm u.armB

/-- A wave is divided while it has two arms (R185). -/
def Wave.divided (w : Wave) : Bool := w.b.isSome
/-- R150 bit[8]. -/
def Wave.hnd (w : Wave) : Bool := w.status.getLsbD 8

/-- A free value of the spec: the j-th that this step draws (log 3). -/
def State.free (s : State) (j : Nat) : DWord := Config.freeValue (s.freeCount * 4194304 + j)
/-- A free choice among allowed orders: the j-th of this step (log 6). -/
def State.pick (s : State) (j : Nat) : Nat := Config.orderChoice (s.freeCount * 4194304 + j)
/-- A number that nothing else has. -/
def State.fresh (s : State) : Nat × State := (s.nextId, { s with nextId := s.nextId + 1 })

/-! ### Registers (R11 to R15) -/

def Wave.vreg (w : Wave) (r lane : Nat) : Word := sget 0 w.v (r * 1024 + lane)
def Wave.kreg (w : Wave) (n : Nat) : DWord := sget 0 w.k n
/-- R13: p0 reads 1 in every lane. -/
def Wave.preg (w : Wave) (n : Nat) : LaneMask := if n == 0 then BitVec.allOnes 1024 else sget 0 w.p n
/-- R189: what an effect leaves for lanes that have exited is discarded. -/
def Eff.live (e : Eff) (exited : LaneMask) : Eff :=
  { e with v := e.v.filter (fun x => !exited.getLsbD (x.1 % 1024)), p := e.p.map fun x => (x.1, x.2.1 &&& ~~~exited, x.2.2) }

/-- R13: predicate writes in order; p0 discards them, and only the lanes of the mask are written. -/
def setPs (m : Sparse LaneMask) (l : List (Nat × LaneMask × LaneMask)) : Sparse LaneMask :=
  l.foldl (fun m x => if x.1 == 0 then m else sset 0 m x.1 ((sget 0 m x.1 &&& ~~~x.2.1) ||| (x.2.2 &&& x.2.1))) m

/-- The register writes of an effect, in order; flags are ORed into status (R76, R92), and a written word is correctable again
(R387). -/
def Wave.apply (w : Wave) (e : Eff) : Wave :=
  { w with
    v := ssetAll 0 w.v e.v
    k := ssetAll 0 w.k e.k
    p := setPs w.p e.p
    status := w.status ||| e.flags.setWidth 32
    softRegs := w.softRegs.filter fun i => !(e.v.any fun x => x.1 == i)
    badRegs := w.badRegs.filter fun i => !(e.v.any fun x => x.1 == i) }

/-- The registers that an effect writes, as LateFlags names them. -/
def Eff.regs (e : Eff) : List Nat := (e.v.map fun x => x.1 / 1024).eraseDups ++ (e.k.map fun x => 256 + x.1) ++ e.p.map fun x => 320 + x.1
/-- R26, R92: what a fixed-latency instruction writes: its registers are there for the next instruction, its flags are raised once, in the
clk in which its result is ready. -/
def Wave.applyLate (w : Wave) (e : Eff) (ready : Nat) : Wave :=
  { w.apply { e with flags := 0 } with
    late := if e.flags == 0 then w.late else w.late ++ [{ flags := e.flags, regs := e.regs, ready := ready }] }
/-- The flags of results that are not ready, together. -/
def Wave.lateFlags (w : Wave) : BitVec 8 := w.late.foldl (fun a x => a ||| x.flags) 0
/-- R92: the flags of the results that f names are raised. -/
def Wave.raise (w : Wave) (f : LateFlags → Bool) : Wave :=
  { w with status := w.status ||| ((w.late.filter f).foldl (fun (a : BitVec 8) x => a ||| x.flags) 0).setWidth 32
           late := w.late.filter fun x => !f x }
/-- R21, R29: every earlier instruction of the wave has completed, so its flags are raised. -/
def Wave.settle (w : Wave) : Wave := { w with status := w.status ||| w.lateFlags.setWidth 32, late := [] }

/-! ### The device's layout (R3, R226, R321, R413 to R416, R422 to R427) -/

/-- Column and row of a physical compute die (R413). -/
def dieXY (d : Nat) : Nat × Nat := [(0, 0), (1, 0), (2, 0), (2, 1), (2, 2), (1, 2), (0, 2), (0, 1)].getD d (1, 1)
/-- The distance of two numbers. -/
def absDiff (a b : Nat) : Nat := if a ≤ b then b - a else a - b
/-- R413: the hop distance. -/
def hopDistance (a b : Nat) : Nat := absDiff (dieXY a).1 (dieXY b).1 + absDiff (dieXY a).2 (dieXY b).2
/-- The enabled compute dies. -/
def State.dies (s : State) : List Nat := bitsOf s.dev.dieEn
/-- R422: the lowest-numbered enabled die among 1, 3, 5 and 7. -/
def State.hostDie (s : State) : Nat := ([1, 3, 5, 7].filter fun d => s.dev.dieEn.getLsbD d).headD 1
/-- R423: installed device memory, 128 GiB for each enabled die. -/
def State.memSize (s : State) : Nat := s.dies.length * 2 ^ 37
/-- Where host memory stands in State.mem. -/
def hostBit : Nat := 2 ^ 56

/-- What a device physical address reaches. -/
inductive Place where
  | mem (key : Nat)
  | peer (window off : Nat)
  | window (window off : Nat)
  | hole (pa : Nat)
  deriving DecidableEq, Repr

/-- R423, R424, R427: the device physical address map. -/
def State.place (s : State) (pa : Nat) (host : Bool) : Place :=
  if host then .mem (hostBit + pa)
  else if pa < s.memSize then .mem pa
  else if pa / 2 ^ 48 == 0xE0 && (pa / 2 ^ 40) % 256 < 64 then
    (match s.dev.imports.find? fun x => x.1 == (pa / 2 ^ 40) % 256 with
     | some x => if pa % 2 ^ 40 < x.2.size then .peer x.1 (pa % 2 ^ 40) else .hole pa
     | none => .hole pa)
  else if pa / 2 ^ 48 == 0xF0 && (pa / 2 ^ 40) % 256 < 64 then .window ((pa / 2 ^ 40) % 256) (pa % 2 ^ 40)
  else .hole pa

/-- R416: the directory byte of a granule of device memory. -/
def State.dirByte (s : State) (pa : Nat) : Byte := sget 0 s.dev.homeDir (pa / 65536)
/-- R416: the effective home die. -/
def State.homeDie (s : State) (key leafHome : Nat) : Nat :=
  if key ≥ hostBit then s.hostDie
  else if (s.dirByte key).getLsbD 7 then ((s.dirByte key).extractLsb' 0 3).toNat else leafHome
/-- R226: the home slice within its die. -/
def sliceOf (pa : Nat) : Nat := ((pa / 2 ^ 7) % 16) ^^^ ((pa / 2 ^ 11) % 16) ^^^ ((pa / 2 ^ 15) % 16) ^^^ ((pa / 2 ^ 19) % 16)
/-- Slice number of the device, 16 × die + slice. -/
def State.home (s : State) (key leafHome : Nat) : Nat := 16 * s.homeDie key leafHome + sliceOf (key % hostBit)
/-- R416: the HOME of the leaf that maps a line, where the access has none of its own: of a cached leaf (log 16). -/
def State.leafHomeOf (s : State) (key : Nat) : Nat :=
  match s.tlb.find? fun t => !t.attr.getLsbD 8 && t.pa ≤ key && key < t.pa + t.size with
  | some t => (t.attr.extractLsb' 9 3).toNat
  | none => s.dies.getD (Config.leafHome (key / 65536) % s.dies.length) 0
/-- R226, R416: the home die of a line, and its slice of the device. -/
def State.lineHome (s : State) (key : Nat) : Nat := s.homeDie key (s.leafHomeOf key)
def State.lineSlice (s : State) (key : Nat) : Nat := s.home key (s.leafHomeOf key)

/-- R321: the global wave id. -/
def waveId (core slot res : Nat) : Nat := (core * 32 + slot) * 1024 + res
def State.idOf (s : State) (b w : Nat) : Nat := waveId (s.block b).core (s.wave b w).slot (s.wave b w).res
/-- R163, R165: a block whose waves hold slots. -/
def Block.resident (k : Block) : Bool := k.st == .resident
/-- R323, R325: the resident wave that a global wave id names; a wave that is being restored gets its new id first (R406). -/
def State.residentWave (s : State) (id : Nat) : Option (Nat × Nat) :=
  (List.range s.blocks.length).findSome? fun b =>
    if (s.block b).resident && !(s.block b).restoring then
      ((List.range (s.block b).waves.length).find? fun w => !(s.wave b w).done && s.idOf b w == id).map fun w => (b, w)
    else none

/-- R443: THR of a die, 118 °C, 108 °C and 100 °C until it is written. -/
def thrReset : BitVec 64 := 0x000001D801B00190#64
def State.thrOf (s : State) (d : Nat) : BitVec 64 := sget thrReset s.dev.thr d

/-! ### Time (R154, R420; the elapsed ticks are free values, log 9) -/

def State.ofsOf (s : State) (d : Nat) : DWord := sget 0 s.dev.ofs d
def State.rateOf (s : State) (d : Nat) : Word := sget 0x40000000 s.dev.rate d
/-- R420: TIMERAW of a die. -/
def State.rawOf (s : State) (d : Nat) : DWord := BitVec.ofNat 64 (s.raw - sget 0 s.dev.rawZero d)
/-- R420: conv. -/
def conv (raw ofs : DWord) (rate : Word) : DWord := BitVec.ofNat 64 ((raw - ofs).toNat * rate.toNat / 2 ^ 30)
/-- R420: converted time of a die. -/
def State.timeOf (s : State) (d : Nat) : DWord := conv (s.rawOf d) (s.ofsOf d) (s.rateOf d)
/-- R154: the clk counter of a die's cores. -/
def State.clkOf (s : State) (d : Nat) : DWord := BitVec.ofNat 64 (s.clk - sget 0 s.dev.clkZero d)

/-! ### Physical memory (R31, R225 to R233, R303, R308, R335) -/

/-- One byte as the home slice holds it. -/
def State.byteAt (s : State) (key : Nat) : Byte := sget 0 s.mem key
/-- n bytes from a key. -/
def State.bytesAt (s : State) (key n : Nat) : List Byte := (span key n).map s.byteAt
/-- R232: two symbols of a byte's burst are in error. -/
def State.burstBad (s : State) (key : Nat) : Bool := (s.memFail.filter fun x => x / 32 == key / 64).length ≥ 2
/-- R230, R231: the failing and lost banks of a codeword of an L2 slice. -/
def State.l2Failing (s : State) (slice row : Nat) : List Nat :=
  (List.range 9).filter fun i => s.l2Lost.contains (slice * 9 + i) || s.l2Fail.contains ((slice * 9 + i) * 2 ^ 40 + row / 4)
/-- R230: the L2 codeword of a byte cannot be corrected. -/
def State.l2Bad (s : State) (key : Nat) : Bool := (s.l2Failing (s.lineSlice key) (Config.l2Place key / 8)).length ≥ 2
/-- R230, R232: memory has no error anywhere. -/
def State.memGood (s : State) : Bool := s.memBad.isEmpty && s.memFail.isEmpty && s.l2Fail.isEmpty && s.l2Lost.isEmpty
/-- R230, R232: some byte of a range is uncorrectable. -/
def State.badIn (s : State) (key n : Nat) : Bool :=
  !s.memGood &&
  (s.memBad.any (fun x => x * 4 < key + n && key < x * 4 + 4) ||
   s.memFail.any (fun x => x / 32 * 64 < key + n && key < x / 32 * 64 + 64 && s.burstBad (x * 2)) ||
   (span key n).any s.l2Bad)

/-- Where a byte of a peer device stands in the keys of State.peerMem and of monitors (log 16). -/
def peerBit : Nat := 2 ^ 60
def peerKey (dev pa : Nat) : Nat := peerBit * (dev + 1) + pa
/-- R32, R427: one byte of a peer device: what this device last saw or wrote there, unless, by a free choice, another agent has written it
since; a free value where this device knows none (log 21). -/
def State.peerByte (s : State) (key : Nat) : Byte :=
  let other : Byte := (s.free (2097152 + key / 8 % 131072)).extractLsb' (8 * (key % 8)) 8
  match sget none s.peerMem key with
  | some b => if s.pick (28672 + key / 8 % 1024) % 2 == 0 then b else other
  | none => other
/-- The bytes that a peer holds from now on, as far as this device knows; none: they may have changed. -/
def State.peerKnow (s : State) (key : Nat) (l : List (Option Byte)) : State :=
  { s with peerMem := ssetAll none s.peerMem ((span key l.length).zip l) }
/-- R427: an import window, and where an offset of it stands at its peer. -/
def State.import (s : State) (w : Nat) : Import := sget { size := 0, dev := 0, peerPa := 0 } s.dev.imports w
def State.importKey (s : State) (w o : Nat) : Nat := peerKey (s.import w).dev ((s.import w).peerPa + o)
/-- R425: the link that leads to a device is down. -/
def State.linkDown (s : State) (dev : Nat) : Bool := s.dev.linksDown.contains (Config.fabricPort dev)
/-- R427: how a peer's access of this device's own agents fails: without a response on a link that is down, else, by a free choice, an error
response (TRANSLATION, SUB 1 or 3), or no response (log 21). -/
def State.peerFate (s : State) (key : Nat) : Option (Nat × Nat) :=
  if s.linkDown (key / peerBit - 1) then some (21, 0)
  else match s.pick (45056 + key / 8 % 4096) % 4 with
  | 1 => some (3, 1)
  | 2 => some (3, 3)
  | 3 => some (21, 0)
  | _ => none
/-- A read of n bytes of a peer. -/
def State.peerRead (s : State) (key n : Nat) : List Byte × State :=
  let l := (span key n).map s.peerByte
  (l, s.peerKnow key (l.map some))

/-- The 64-bit element at a key. -/
def State.wordAt (s : State) (key : Nat) : DWord :=
  BitVec.ofNat 64 (leNat (if key ≥ peerBit then (span key 8).map s.peerByte else s.bytesAt key 8))
/-- R360, R372: the timestamps of a frontier word. -/
def State.frontAt (s : State) (key : Nat) : List DWord :=
  let n := if key ≥ peerBit then s.peerByte (key + 8) else s.byteAt (key + 8)
  (List.range (min 8 n.toNat)).map fun i => s.wordAt (key + 16 + 8 * i)
/-- Whether a waiting arm's condition holds (R303, R372). -/
def State.waitHolds (s : State) : ArmSt → Bool
  | .waitge _ key target _ => !s.badIn key 8 && target.toNat ≤ (s.wordAt key).toNat
  | .fwait _ _ key ts => !s.badIn key 128 && !((s.frontAt key).any fun x => tsLe x ts)
  | _ => false
/-- R303: a monitor of an arm of this device. -/
def Monitor.waits (m : Monitor) (u : Cursor) : Bool := m.peer.isNone && m.b == u.b && m.w == u.w && m.armB == u.armB
/-- R303, R427: a monitor's compare. -/
def State.monitorHolds (s : State) (m : Monitor) : Bool :=
  match m.peer with
  | some target => !s.badIn m.key 8 && target.toNat ≤ (s.wordAt m.key).toNat
  | none => s.waitHolds (s.arm { b := m.b, w := m.w, armB := m.armB }).st
/-- One byte as a core's load sees it: an older value of its L1 may serve it (R227, R308; log 10). -/
def State.l1Byte (s : State) (core key : Nat) : Byte :=
  match ((s.core core).l1Old.find? fun x => x.1 == key) with
  | none => s.byteAt key
  | some o => if o.2 == s.byteAt key then o.2 else if s.pick (key / 128 % 4096) % 2 == 0 then o.2 else s.byteAt key
/-- n bytes through a core's L1. -/
def State.l1Bytes (s : State) (core key n : Nat) : List Byte := (span key n).map (s.l1Byte core)

/-- The older bytes that cached lines keep when the bytes of keys are written. -/
def keepOld (lines : List Nat) (kept : Sparse Byte) (old : Nat → Byte) (keys : List Nat) : Sparse Byte :=
  keys.foldl (fun l k => if lines.contains (k / 128) && !(l.any fun x => x.1 == k) then l ++ [(k, old k)] else l) kept

/-- R4, R224: of 64 KiB of instruction cache, 512 lines at most keep older words; which, is left open (log 15). -/
def trimWords (i : Nat) (l : List (Nat × Word)) : List (Nat × Word) :=
  let lines := (l.map (·.1 / 32)).eraseDups
  if lines.length ≤ 512 then l
  else
    let n := i % lines.length
    let keep := (lines.drop n ++ lines.take n).take 512
    l.filter fun x => keep.contains (x.1 / 32)
/-- R23: the values of instruction words that a write of the bytes of keys replaces, beside those already kept. -/
def keepWords (kept : List (Nat × Word)) (old : Nat → Byte) (keys : List Nat) : List (Nat × Word) :=
  (keys.map (· / 4)).eraseDups.foldl (fun l w =>
    let x : Nat × Word := (w, BitVec.ofNat 32 (leNat ((span (4 * w) 4).map old)))
    if l.contains x then l else l ++ [x]) kept

/-- R23, R227, R308: what a write does to a core's caches: the writer's L1 line is updated, another's keeps the older byte, and an
instruction cache may keep the older word. -/
def Core.seeWrite (c : Core) (own : Bool) (i : Nat) (old : Nat → Byte) (keys : List Nat) : Core :=
  { c with l1Old := if own then c.l1Old.filter fun x => !keys.contains x.1 else keepOld c.l1 c.l1Old old keys
           icOld := trimWords i (keepWords c.icOld old keys) }
/-- R4, R227: 128 KiB of L1 data hold 1,024 lines, the decoded ones among them: of a full L1 one goes, which is left open (log 10). -/
def Core.evict (c : Core) (i : Nat) : Core :=
  let n := c.l1.length
  if n + c.decoded.length < 1024 then c
  else
    let j := i % (n + c.decoded.length)
    if j < n then { c with l1 := dropAt c.l1 j, l1Old := c.l1Old.filter fun x => x.1 / 128 != c.l1.getD j 0 } else { c with decoded := dropAt c.decoded (j - n) }
/-- A line brought into L1. -/
def Core.addLine (c : Core) (i g : Nat) : Core := if c.l1.contains g then c else { c.evict i with l1 := (c.evict i).l1 ++ [g] }
/-- R311, R317: the waves of a core have seen bytes at their home slice: no older byte of its L1 serves them any more. -/
def Core.sawHome (c : Core) (keys : List Nat) : Core :=
  if c.l1Old.isEmpty then c else { c with l1Old := c.l1Old.filter fun x => !keys.contains x.1 }

/-- R301: what an acquire removes from the core's L1: decoded lines, and at a scope beyond the block every line. -/
def Core.acquire (c : Core) (wide : Bool) : Core :=
  let d := { c with decoded := [] }
  if wide then { d with l1 := [], l1Old := [] } else d

/-- R335: cached parameter blocks of written lines are removed. -/
def Core.dropParams (c : Core) (lines : List Nat) : Core :=
  if c.pcache.any fun x => lines.contains x.2 then { c with pcache := c.pcache.filter fun x => !lines.contains x.2 } else c

/-- R230: the keys cover the four bytes of a bank word of an L2 slice. -/
def State.l2Covered (s : State) (keys : List Nat) (slice bank word : Nat) : Bool :=
  (span (4 * word) 4).all fun o => keys.any fun k => s.lineSlice k == slice && Config.l2Place k == 8 * o + bank

/-- R233, R303: bytes written at the home slices, in order, with every hook of a write: the armed monitors of their lines compare. -/
def State.putBytes (s : State) (own : Option Nat) (l : List (Nat × Byte)) : State :=
  let keys := l.map (·.1)
  let lines := keys.map (· / 128)
  let t : State := { s with
    mem := ssetAll (0 : Byte) s.mem l
    cores := s.cores.map fun x => (x.1, (x.2.seeWrite (own == some x.1) (s.pick 4105) s.byteAt keys).dropParams lines)
    memBad := s.memBad.filter fun x => !(span (x * 4) 4).all keys.contains
    memFail := s.memFail.filter fun x => !(span (x * 2) 2).all keys.contains
    l2Fail := s.l2Fail.filter fun x => !s.l2Covered keys (x / 2 ^ 40 / 9) (x / 2 ^ 40 % 9) (x % 2 ^ 40) }
  { t with agentMons := s.agentMons.map fun m => if lines.contains m.line then { m with fired := true } else m
           monitors := s.monitors.map fun m => if lines.contains m.line && !m.retry && !m.fired && t.monitorHolds m then { m with fired := true } else m }

/-- R230: the bytes of a store that merge into an uncorrectable word they do not cover. -/
def State.unmergeable (s : State) (l : List (Nat × Byte)) : List (Nat × Byte) :=
  let keys := l.map (·.1)
  l.filter fun x =>
    (s.memBad.contains (x.1 / 4) && !(span (x.1 / 4 * 4) 4).all keys.contains) ||
    (s.memFail.contains (x.1 / 2) && s.burstBad x.1 && !(span (x.1 / 2 * 2) 2).all keys.contains) ||
    (!s.l2Fail.isEmpty && s.l2Bad x.1 &&
      (let at' := (s.lineSlice x.1 * 9 + Config.l2Place x.1 % 8) * 2 ^ 40 + Config.l2Place x.1 / 32
       s.l2Fail.contains at' && !s.l2Covered keys (s.lineSlice x.1) (Config.l2Place x.1 % 8) (Config.l2Place x.1 / 32)))

/-- R297: an access of another kind reaches a line's home slice: an ownership is recalled. -/
def State.predOther (s : State) (core line : Nat) : State :=
  { s with preds := s.preds.map fun p => if p.line == line && p.st == 1 && p.core != core then { p with st := 0 } else p }
/-- R297: accesses that reach the home slices of lines: their ownerships are recalled. -/
def State.recall (s : State) (lines : List Nat) : State :=
  if s.preds.any fun p => p.st == 1 && lines.contains p.line then
    { s with preds := s.preds.map fun p => if p.st == 1 && lines.contains p.line then { p with st := 0 } else p }
  else s
/-- R297: bytes written at the home slices by an agent that is no wave, or by an engine of a core (own): ownerships of their lines are
recalled first. -/
def State.agentWrite (s : State) (l : List (Nat × Byte)) (own : Option Nat := none) : State :=
  { s.putBytes own l with preds := s.preds.map fun p => if p.st == 1 && l.any (fun x => x.1 / 128 == p.line) then { p with st := 0 } else p }

/-- The bytes of a value at a key. -/
def cellsAt (key : Nat) (l : List Byte) : List (Nat × Byte) := (span key l.length).zip l

/-- R322: a CP, MX, CH, host or peer write clears the writers of the granules it touches. -/
def clearRace (m : Sparse Word) (granules : List Nat) : Sparse Word :=
  m.filterMap fun x => if granules.contains x.1 then (if x.2 &&& 0xFF == 0 then none else some (x.1, x.2 &&& 0xFF)) else some x
def State.clearRaceAt (s : State) (keys : List Nat) : State := { s with race := clearRace s.race (keys.map (· / 128)) }
/-- R325: engine increments, Cardamom writes and outside accesses clear the line's synchronisation record. -/
def State.clearSyncAt (s : State) (keys : List Nat) : State :=
  { s with sync := s.sync.filter fun x => !(keys.map (· / 128)).contains x.1 }

/-! ### The error collector (R459) -/

def State.collect (s : State) (r : CollRec) : State :=
  if s.dev.collector.length < 4096 then s.modDev fun d => { d with collector := d.collector ++ [r] }
  else s.modDev fun d => { d with dropped := d.dropped + 1 }

/-- R231: unit u is a core's scratchpad (die × 128 + core) or an L2 slice (die × 128 + 64 + slice).  The bank is lost; the loss is logged. -/
def State.loseBank (s : State) (unit bank : Nat) : State :=
  let t := s.collect { type := 2, die := unit / 128, place := unit % 64 + 256 * (bank % 8), time := s.timeOf 8, payload := [] }
  if bank > 8 then s
  else if unit % 128 < 64 then
    let core := unit / 128 * 64 + unit % 64
    if (s.core core).lost.getLsbD bank then s else t.modCore core fun c => { c with lost := c.lost ||| (1#9 <<< bank) }
  else
    let i := (16 * (unit / 128) + unit % 64) * 9 + bank
    if s.l2Lost.contains i then s else { t with l2Lost := t.l2Lost ++ [i] }
/-- R230, R231: a corrected error counted against a unit and bank; the bank is lost with the 65th within 1 s. -/
def State.countCorrected (s : State) (unit bank : Nat) : State :=
  let old := ((s.dev.corrected.find? fun x => x.1 == unit && x.2.1 == bank).map fun x => x.2.2).getD []
  let l := (old.filter fun t => s.raw < t + 100000000) ++ [s.raw]
  let t := (s.modDev fun d => { d with corrected := (unit, bank, l) :: d.corrected.filter fun x => !(x.1 == unit && x.2.1 == bank) }).collect
    { type := 1, die := unit / 128, place := unit % 64 + 256 * (bank % 8), time := s.timeOf 8, payload := leBytes 8 1 }
  if l.length > 64 then t.loseBank unit bank else t

/-- R232: the correctable burst of a byte is corrected, written back and counted against its stack. -/
def State.burstCorrect (s : State) (burst : Nat) : State :=
  match s.memFail.filter fun x => x / 32 == burst with
  | [x] =>
    ({ s with memFail := s.memFail.filter fun y => y != x }).collect
      { type := 1, die := s.lineHome (burst * 64), place := 2 * s.lineHome (burst * 64) + (burst / 2 + burst / 64) % 2, time := s.timeOf 8, payload := leBytes 8 1 }
  | _ => s
/-- R230, R231: an L2 codeword with one failing or lost bank is rebuilt and counted, and but for a lost bank the word is written back. -/
def State.l2Correct (s : State) (at' : Nat × Nat) : State :=
  let unit := at'.1 / 16 * 128 + 64 + at'.1 % 16
  match s.l2Failing at'.1 at'.2 with
  | [i] =>
    if s.l2Lost.contains (at'.1 * 9 + i) then s.countCorrected unit i
    else ({ s with l2Fail := s.l2Fail.filter (· != (at'.1 * 9 + i) * 2 ^ 40 + at'.2 / 4) }).countCorrected unit i
  | _ => s
/-- R230 to R232: what the read of n bytes of memory corrects, writes back and counts. -/
def State.memCorrect (s : State) (key n : Nat) : State :=
  if s.memGood then s
  else
    let s1 := ((span key n).map (· / 64)).eraseDups.foldl State.burstCorrect s
    ((span key n).map fun k => (s.lineSlice k, Config.l2Place k / 8)).eraseDups.foldl State.l2Correct s1

/-! ### Translation (R388 to R394) -/

/-- A translated address. -/
structure Xlat where
  pa : Nat
  size : Nat
  attr : BitVec 12
  deriving DecidableEq, Repr

def Xlat.host (x : Xlat) : Bool := x.attr.getLsbD 8
def Xlat.leafHome (x : Xlat) : Nat := (x.attr.extractLsb' 9 3).toNat
def Xlat.aper (x : Xlat) : Bool := x.attr.getLsbD 6
def Xlat.rc (x : Xlat) : Bool := x.attr.getLsbD 5
def Xlat.enc (x : Xlat) : Bool := x.attr.getLsbD 4
def Xlat.writable (x : Xlat) : Bool := x.attr.getLsbD 2
/-- R424: where a translated access of a program goes; it reaches a window through an aperture-only page alone, and another leaf onto a
window leads nowhere (log 16). -/
def State.reach (s : State) (x : Xlat) : Place :=
  match s.place x.pa x.host with
  | .window w o => if x.aper then .window w o else .hole x.pa
  | p => p

/-- R390: bytes that a leaf of a level maps. -/
def leafSize (e : DWord) (lvl : Nat) : Nat := if lvl == 0 && e.getLsbD 7 then 65536 else 2 ^ (12 + 9 * lvl)

/-- R390: a malformed entry. -/
def malformedEntry (dieEn : BitVec 8) (e : DWord) (lvl : Nat) : Bool :=
  e.extractLsb' 56 8 != 0 ||
  (if e.getLsbD 1 then
    lvl ≥ 3 || (e.getLsbD 7 && lvl != 0) ||
    (e &&& 0x00FFFFFFFFFFF000#64).toNat % leafSize e lvl != 0 ||
    (e.getLsbD 4 && (e.getLsbD 8 || e.getLsbD 6)) ||
    (!e.getLsbD 8 && !dieEn.getLsbD (e.extractLsb' 9 3).toNat)
  else lvl == 0 || (e &&& 0xEFC#64) != 0)

/-- R391: the entry of a table that a walk reads, or why the walk fails there. -/
def State.tableRead (s : State) (va : DWord) (lvl t : Nat) (h : Bool) : Except (Nat × Nat) DWord :=
  match s.place (t + 8 * (va.toNat / 2 ^ (12 + 9 * lvl) % 512)) h with
  | .mem key =>
    if s.badIn key 8 then .error (21, 0)
    else
      let e : DWord := BitVec.ofNat 64 (leNat (s.bytesAt key 8))
      if !e.getLsbD 0 then .error (3, 1) else if malformedEntry s.dev.dieEn e lvl then .error (3, 5) else .ok e
  | _ => .error (3, 1)

/-- R394: the entry that a walk uses: as the table holds it, or, by a free choice where they differ, a cached pointer (log 11). -/
def State.walkEntry (s : State) (asid : Nat) (va : DWord) (lvl t : Nat) (h : Bool) : Except (Nat × Nat) DWord :=
  let now := s.tableRead va lvl t h
  match s.walks.find? fun p => p.asid == asid && p.lvl == lvl && p.page == va.toNat / 2 ^ (12 + 9 * lvl) with
  | none => now
  | some p =>
    match now with
    | .ok e => if e == p.entry then .ok e else if s.pick (4098 + lvl) % 2 == 0 then .ok p.entry else .ok e
    | .error x => if s.pick (4098 + lvl) % 2 == 0 then .ok p.entry else .error x

/-- R391: one page-table walk: (cause, SUB) or the leaf. -/
def State.walkFrom (s : State) (asid : Nat) (va : DWord) : List Nat → Nat → Bool → Except (Nat × Nat) Xlat
  | [], _, _ => .error (3, 5)
  | lvl :: rest, t, h =>
    match s.walkEntry asid va lvl t h with
    | .error x => .error x
    | .ok e =>
      if e.getLsbD 1 then
        let size := leafSize e lvl
        .ok { pa := (e &&& 0x00FFFFFFFFFFF000#64).toNat / size * size + va.toNat % size, size := size, attr := e.extractLsb' 0 12 }
      else s.walkFrom asid va rest (e &&& 0x00FFFFFFFFFFF000#64).toNat (e.getLsbD 8)

/-- R394: the pointer entries that a walk goes through. -/
def State.pointersFrom (s : State) (asid : Nat) (va : DWord) : List Nat → Nat → Bool → List Walk
  | [], _, _ => []
  | lvl :: rest, t, h =>
    match s.walkEntry asid va lvl t h with
    | .error _ => []
    | .ok e =>
      if e.getLsbD 1 then []
      else { asid := asid, lvl := lvl, page := va.toNat / 2 ^ (12 + 9 * lvl), entry := e } ::
        s.pointersFrom asid va rest (e &&& 0x00FFFFFFFFFFF000#64).toNat (e.getLsbD 8)

/-- R391: the table bytes that a walk reads, 8 at each key. -/
def State.walkKeys (s : State) (asid : Nat) (va : DWord) : List Nat → Nat → Bool → List Nat
  | [], _, _ => []
  | lvl :: rest, t, h =>
    match s.place (t + 8 * (va.toNat / 2 ^ (12 + 9 * lvl) % 512)) h with
    | .mem key =>
      key :: (match s.walkEntry asid va lvl t h with
        | .error _ => []
        | .ok e => if e.getLsbD 1 then [] else s.walkKeys asid va rest (e &&& 0x00FFFFFFFFFFF000#64).toNat (e.getLsbD 8))
    | _ => []

def State.walk (s : State) (c : Context) (va : DWord) : Except (Nat × Nat) Xlat :=
  s.walkFrom c.asid va [4, 3, 2, 1, 0] c.root c.rootHost

/-- R394: who asks for a translation: a core's data or instruction side; an engine of a die, or firmware, by the die's number. -/
def dataSide (core : Nat) : Nat := 16 + 2 * core
def codeSide (core : Nat) : Nat := 17 + 2 * core
def dieOf (who : Nat) : Nat := if who < 16 then who else (who - 16) / 128
/-- R394: the leaf of an address in the TLB of who asks, or of its die. -/
def State.cached (s : State) (who : Nat) (c : Context) (va : DWord) : Option Xlat :=
  (s.tlb.find? fun t => t.asid == c.asid && (t.holder == who || t.holder == dieOf who) && t.va ≤ va.toNat && va.toNat < t.va + t.size).map fun t =>
    { pa := t.pa + (va.toNat - t.va), size := t.size, attr := t.attr }
/-- R394, R397: a cached leaf may go on being used until a shootdown completes; it is used where it agrees with the tables, and
by a free choice where it does not (log 11). -/
def State.lookup (s : State) (who : Nat) (c : Context) (va : DWord) : Except (Nat × Nat) Xlat :=
  match s.cached who c va with
  | none => s.walk c va
  | some x =>
    match s.walk c va with
    | .ok y => if x == y then .ok y else if s.pick 4097 % 2 == 0 then .ok x else .ok y
    | .error e => if s.pick 4097 % 2 == 0 then .ok x else .error e

/-- R145 items 2 and 3, R392: a legal translation of one address. -/
def State.translate (s : State) (who : Nat) (c : Context) (va : DWord) (write exec : Bool) : Except (Nat × Nat) Xlat :=
  if !canonical va then .error (3, 0)
  else
    match s.lookup who c va with
    | .error e => .error e
    | .ok x => if (write && !x.writable) || (exec && !x.attr.getLsbD 3) then .error (3, 2) else .ok x

/-- R230, R297: what a walk does beside its answer: the table bytes that it reads are corrected, ownerships of their lines recalled. -/
def State.walked (s : State) (c : Context) (va : DWord) : State :=
  let ks := s.walkKeys c.asid va [4, 3, 2, 1, 0] c.root c.rootHost
  (if s.memGood then s else ks.foldl (fun s k => s.memCorrect k 8) s).recall (ks.map (· / 128))
/-- R394: the entries of a TLB: 64 for data and 32 for instructions of a core, 4,096 of a compute die; the control die caches no leaves. -/
def tlbRoom (holder : Nat) : Nat := if holder ≥ 16 then (if holder % 2 == 0 then 64 else 32) else if holder < 8 then 4096 else 0
/-- R394: a leaf enters a TLB; of a full one, an entry that the spec leaves open goes (log 11). -/
def State.keepLeaf (s : State) (t : Tlb) : State :=
  if s.tlb.contains t || tlbRoom t.holder == 0 then s
  else
    let mine := s.tlb.filter fun x => x.holder == t.holder
    let out := if mine.length < tlbRoom t.holder then none else mine[s.pick 4103 % mine.length]?
    { s with tlb := (s.tlb.filter fun x => some x != out) ++ [t] }
/-- R394: pointers enter the walk cache, which keeps 512 (log 11). -/
def State.keepPointers (s : State) (l : List Walk) : State :=
  l.foldl (fun s p =>
    if s.walks.contains p then s
    else { s with walks := (if s.walks.length < 512 then s.walks else dropAt s.walks (s.pick 4104 % s.walks.length)) ++ [p] }) s
/-- R230, R394: the leaf of an access is cached by who asks and by its die, and the pointers of its walk where it was walked. -/
def State.fillTlb (s0 : State) (who : Nat) (c : Context) (va : DWord) : State :=
  match s0.lookup who c va with
  | .error _ => s0.walked c va
  | .ok x =>
    let t : Nat → Tlb := fun h => { asid := c.asid, holder := h, va := va.toNat / x.size * x.size, size := x.size, pa := x.pa - va.toNat % x.size, attr := x.attr }
    let s := if s0.cached who c va == some x then s0
      else (s0.walked c va).keepPointers (s0.pointersFrom c.asid va [4, 3, 2, 1, 0] c.root c.rootHost)
    (s.keepLeaf (t (dieOf who))).keepLeaf (t who)

/-- R145 items 4 and 5: a page that only Sumac or an aperture record reaches. -/
def flatPage (x : Xlat) : Option (Nat × Nat) := if x.enc then some (3, 3) else if x.aper then some (3, 4) else none

/-- A plain range of a context's memory that an engine or firmware reaches: its keys, a peer's above peerBit (R427), or why not. -/
def State.engineKeys (s : State) (die : Nat) (c : Context) (va : DWord) (write : Bool) : Nat → Nat → Except (Nat × Nat) (List Nat)
  | _, 0 => .ok []
  | 0, _ => .error (3, 1)
  | fuel + 1, n =>
    match s.translate die c va write false with
    | .error e => .error e
    | .ok x =>
      match flatPage x with
      | some e => .error e
      | none =>
        match (match s.place x.pa x.host with | .mem k => some k | .peer w o => some (s.importKey w o) | _ => none) with
        | some key =>
          let m := min n (4096 - va.toNat % 4096)
          match s.engineKeys die c (va + BitVec.ofNat 64 m) write fuel (n - m) with
          | .error e => .error e
          | .ok l => .ok (span key m ++ l)
        | none => .error (3, 1)

/-- One byte at its home slice or at its peer. -/
def State.keyByte (s : State) (key : Nat) : Byte := if key ≥ peerBit then s.peerByte key else s.byteAt key
/-- R427: why the first peer that a range reaches does not answer. -/
def State.peersFail (s : State) (l : List Nat) : Option (Nat × Nat) := (l.find? fun k => decide (k ≥ peerBit)).bind s.peerFate
/-- n bytes of a context's memory, as an agent at system scope reads them. -/
def State.ctxLoad (s : State) (c : Context) (va : DWord) (n : Nat) : Except (Nat × Nat) (List Byte) :=
  match s.engineKeys 8 c va false (n / 4096 + 2) n with
  | .error e => .error e
  | .ok l =>
    if !s.memGood && l.any (fun k => decide (k < peerBit) && s.badIn k 1) then .error (21, 0)
    else match s.peersFail l with
      | some e => .error e
      | none => .ok (l.map s.keyByte)
/-- R230, R232, R297, R427: what that read does beside its answer: it and its walks correct, write back and count, they recall ownerships, and
what a peer answers is known. -/
def State.ctxFix (s : State) (c : Context) (va : DWord) (n : Nat) : State :=
  let pages := (List.range (n / 4096 + 2)).map fun i => va + BitVec.ofNat 64 (min (n - 1) (4096 * i))
  let s0 := pages.foldl (fun s va => s.walked c va) s
  match s.engineKeys 8 c va false (n / 4096 + 2) n with
  | .error _ => s0
  | .ok l =>
    let s1 := if s0.memGood then s0 else (l.filter (· < peerBit)).foldl (fun s k => s.memCorrect k 1) s0
    let s2 := s1.recall (l.map (· / 128))
    if l.any fun k => decide (k ≥ peerBit) then { s2 with peerMem := ssetAll none s2.peerMem ((l.filter (· ≥ peerBit)).map fun k => (k, some (s.peerByte k))) } else s2

/-- Bytes written at home slices and at peers by an agent that is no wave (R427). -/
def State.engineWrite (s : State) (l : List (Nat × Byte)) : State :=
  if l.any fun x => decide (x.1 ≥ peerBit) then
    { s.agentWrite (l.filter (·.1 < peerBit)) with peerMem := ssetAll none s.peerMem ((l.filter (·.1 ≥ peerBit)).map fun x => (x.1, some x.2)) }
  else s.agentWrite l
/-- Bytes written into a context's memory at system scope by the distributor or firmware. -/
def State.ctxStore (s : State) (c : Context) (va : DWord) (l : List Byte) : Except (Nat × Nat) State :=
  match s.engineKeys 8 c va true (l.length / 4096 + 2) l.length with
  | .error e => .error e
  | .ok ks =>
    if !(s.unmergeable ((ks.zip l).filter (·.1 < peerBit))).isEmpty then .error (21, 0)
    else match s.peersFail ks with
      | some e => .error e
      | none => .ok (s.engineWrite (ks.zip l))
/-- R378: the lowest address of a write of the distributor or firmware that fails: a page of its range, or a byte that cannot be merged or
whose peer does not answer. -/
def State.failsAt (s : State) (c : Context) (va : DWord) (l : List Byte) : DWord :=
  match s.engineKeys 8 c va true (l.length / 4096 + 2) l.length with
  | .error _ =>
    let first := 4096 - va.toNat % 4096
    ((va :: (List.range (l.length / 4096 + 1)).map fun i => va + BitVec.ofNat 64 (first + 4096 * i)).find? fun a =>
      match s.engineKeys 8 c a true 1 1 with | .error _ => true | .ok _ => false).getD va
  | .ok ks =>
    let bad := (s.unmergeable ((ks.zip l).filter (·.1 < peerBit))).map (·.1)
    va + BitVec.ofNat 64 (ks.findIdx fun k => bad.contains k || (decide (k ≥ peerBit) && (s.peerFate k).isSome))
/-- R320: a race record goes with its line when L2 evicts it, at a free choice (log 10). -/
def State.evictRaces (s : State) : State :=
  if s.race.isEmpty then s else { s with race := s.race.filter fun x => s.pick (524288 + x.1 % 524288) % 2 == 0 }

/-- The records that a write of an engine clears: of races on the CP and CH paths (R322), of synchronisation where it is an increment or
Cardamom's (R325). -/
def State.engineStore (s : State) (c : Context) (va : DWord) (race sync : Bool) (l : List Byte) : Except (Nat × Nat) State :=
  match s.engineKeys 8 c va true (l.length / 4096 + 2) l.length, s.ctxStore c va l with
  | .ok ks, .ok t =>
    let u := if race then t.clearRaceAt ks else t
    .ok (if sync then u.clearSyncAt ks else u)
  | .error e, _ => .error e
  | _, .error e => .error e

/-- R177, R339, R430: an engine's atomic add to an n64 counter of a context; path: it is on the CP path. -/
def State.counterAdd (s : State) (c : Context) (va inc : DWord) (path : Bool) : Except (Nat × Nat) State :=
  match s.ctxLoad c va 8 with
  | .error e => .error e
  | .ok l => (s.ctxFix c va 8).engineStore c va path true (leBytes 8 (BitVec.ofNat 64 (leNat l) + inc).toNat)

/-! ### Monitors of the distributor and Cardamom (R209, R303, R364) -/

/-- R209, R303: nothing has been written to the line that an agent watches. -/
def State.agentWaits (s : State) (who : Nat × Nat) : Bool := s.agentMons.any fun m => m.who == who && !m.fired
/-- R303: an agent arms a monitor on the line of an address in one of the 256 reserved entries of its slice; when they are taken, or the line
is a peer's, it reads the line at each round. -/
def State.armAgent (s : State) (who : Nat × Nat) (c : Context) (va : DWord) : State :=
  let rest := s.agentMons.filter fun m => m.who != who
  match s.engineKeys 8 c va false 1 1 with
  | .ok [key] =>
    let home := s.lineSlice key
    { s with agentMons := if key ≥ peerBit || (rest.filter fun m => m.home == home).length ≥ 256 then rest else rest ++ [{ who := who, home := home, line := key / 128 }] }
  | _ => { s with agentMons := rest }

/-! ### Answers of the management mailbox (R438, R441) -/

/-- R441: MBRESULT, then MBDONE := MBSEQ. -/
def State.answer (s : State) (r : Nat) : State := s.modDev fun d => { d with mbResult := BitVec.ofNat 64 r, mbDone := d.mbSeq }
/-- R441: a set-up event completes a set-up command (MBCMD 16 to 25) that waits. -/
def State.answerSetup (s : State) (r : Nat) : State :=
  if s.dev.mbSeq != s.dev.mbDone && 16 ≤ s.dev.mbCmd.toNat && s.dev.mbCmd.toNat ≤ 25 then s.answer r else s
/-- R438, R441: set-up by firmware, once no other command is in progress: BUSY outside stage 3, refused where an argument breaks a limit, else
done. -/
def State.setup (s : State) (ok : Bool) (t : State) : Host.Outcome State Fault Refusal :=
  .next (if s.dev.job.isSome then s else if s.dev.stage != 3 then s.answerSetup 2 else if ok then t.answerSetup 0 else s.answerSetup 1)

/-! ### Monitor units (R457, R458) -/

/-- R458: the bin of a sample. -/
def MonUnit.bin (u : MonUnit) (x : Int) : Nat :=
  if u.log2 then (if x ≤ 0 then 0 else min (Nat.log2 x.toNat + 1) 31)
  else (max 0 (min 31 ((x - u.base) / (2 ^ u.shift : Int)))).toNat
/-- R458: one sample. -/
def MonUnit.sample (u : MonUnit) (x : Int) : MonUnit :=
  { u with lo := min u.lo x, hi := max u.hi x, count := u.count + 1
           bins := sset 0 u.bins (u.bin x) (min (2 ^ 32 - 1) (sget 0 u.bins (u.bin x) + 1)) }
/-- R457: samples of a source and index reach the units that f names. -/
def State.feedTo (s : State) (f : Nat → Bool) (src sel : Nat) (xs : List Int) : State :=
  if s.dev.units.isEmpty then s
  else
    let l := s.dev.units.map fun y => if f y.1 && y.2.src == src && y.2.en && y.2.sel == sel then (y.1, xs.foldl MonUnit.sample y.2) else y
    s.modDev fun d => { d with units := l }
/-- R457: samples of a source and index reach the units of a die (die × 64 + unit). -/
def State.feed (s : State) (die src sel : Nat) (xs : List Int) : State := s.feedTo (fun k => k / 64 == die) src sel xs

/-! ### The error collector (R385) -/

/-- R385: a type 8 record, at most once per 10 ms for one context. -/
def State.collect8 (s : State) (x reason : Nat) : State :=
  let c := s.ctx x
  let due := match c.type8 with | none => true | some t => decide (s.raw ≥ t + 1000000)
  if due then
    (s.modCtx x fun c => { c with type8 := some s.raw }).collect
      { type := 8, die := 8, place := 0, time := s.timeOf 8, payload := leBytes 4 c.number ++ [BitVec.ofNat 8 reason] }
  else s

/-! ### Fault records (R384 to R386) -/

/-- The fields of a fault record. -/
structure FaultRec where
  cause : Nat
  sub : Nat := 0
  deferred : Bool := false
  handled : Bool := false
  spill : Bool := false
  halted : Bool := false
  nowave : Bool := false
  site : DWord := 0
  seq : Word := 0
  gid : Nat := 0
  queue : Nat := 0
  stop : DWord := 0
  info : DWord := 0
  atWord : DWord := 0
  gang : Nat := 0
  block : Nat := 0
  wave : Nat := 0
  die : Nat := 8
  deriving DecidableEq, Repr

def bit (b : Bool) (n : Nat) : Nat := if b then 2 ^ n else 0

/-- R386: the 64 bytes. -/
def FaultRec.bytes (r : FaultRec) (ctxNo : Nat) (time : DWord) : List Byte :=
  leBytes 8 (r.cause % 32 + r.sub % 256 * 256 + bit r.deferred 16 + bit r.handled 17 + bit r.spill 18 + bit r.halted 19 +
    bit r.nowave 20 + ctxNo % 2 ^ 32 * 2 ^ 32) ++
  leBytes 8 (r.site.toNat % 2 ^ 57) ++ leBytes 4 r.seq.toNat ++ leBytes 4 (r.gid % 2 ^ 24 + r.queue % 16 * 2 ^ 24) ++
  leBytes 8 (r.stop.toNat % 2 ^ 57) ++ leBytes 8 r.info.toNat ++ leBytes 8 r.atWord.toNat ++ leBytes 8 time.toNat ++
  leBytes 4 r.gang ++ leBytes 1 r.block ++ leBytes 1 r.wave ++ leBytes 2 0

/-- R384, R385: the descriptor at the head of the context control block is well formed. -/
def faultQueueOk (d : List Byte) : Bool :=
  (slice d 10 6).all (· == 0) && (slice d 52 12).all (· == 0) && field d 9 1 ≤ 1 &&
  canonical (BitVec.ofNat 64 (field d 0 8)) && field d 0 8 % 4096 == 0 &&
  4 ≤ field d 8 1 && field d 8 1 ≤ 16 &&
  (field d 40 8 == 0 || (canonical (BitVec.ofNat 64 (field d 40 8)) && field d 40 8 % 4 == 0)) &&
  field d 16 8 ≤ field d 24 8

/-- R385: a dropped record raises LOST. -/
def State.loseRecord (s : State) (x : Nat) (d : List Byte) : Option State :=
  match s.ctxStore (s.ctx x) ((s.ctx x).ccb + 32) (leBytes 8 (field d 32 8 + 1)) with
  | .ok t => some t
  | .error _ => none

/-- R385: the notification write of a posting, held off to once per 10 µs. -/
def State.notify (s : State) (x : Nat) (d : List Byte) : State :=
  if field d 40 8 == 0 then s
  else if (s.ctx x).notifyHeld then s.modCtx x fun c => { c with notifyDue := true }
  else
    let t := s.modCtx x fun c => { c with notifyHeld := true, notifyDue := false }
    match t.ctxStore (s.ctx x) (BitVec.ofNat 64 (field d 40 8)) (slice d 48 4) with
    | .ok u => u
    | .error _ => t.collect8 x 3

/-- R385: a fault record is posted to a context's fault queue. -/
def State.post (s : State) (x : Nat) (r : FaultRec) : State :=
  let c := s.ctx x
  let s := s.ctxFix c c.ccb 64
  match s.ctxLoad c c.ccb 64 with
  | .error _ => s.collect8 x 1
  | .ok d =>
    if !faultQueueOk d then
      (match s.loseRecord x d with
       | some t => t.collect8 x 0
       | none => s.collect8 x 1)
    else if field d 9 1 == 0 || field d 24 8 - field d 16 8 ≥ 2 ^ field d 8 1 then (s.loseRecord x d).getD (s.collect8 x 1)
    else
      let slot : DWord := BitVec.ofNat 64 (field d 0 8 + 64 * (field d 24 8 % 2 ^ field d 8 1))
      match s.ctxStore c slot (r.bytes c.number (s.timeOf r.die)) with
      | .error _ => (match s.loseRecord x d with
         | some t => t.collect8 x 2
         | none => s.collect8 x 1)
      | .ok t =>
        match t.ctxStore c (c.ccb + 24) (leBytes 8 (field d 24 8 + 1)) with
        | .error _ => s.collect8 x 1
        | .ok u => u.notify x d

/-- A record that names a wave of a block (R386). -/
def State.waveRec (s : State) (b w : Nat) (r : FaultRec) : FaultRec :=
  let k := s.block b
  let n := s.launch k.launch
  { r with seq := n.seq, gid := s.idOf b w, queue := n.queue, gang := (s.gang k.launch k.gang).number, block := k.index, wave := w, die := k.die }

/-! ### Deferred faults on their way (R379) -/

def State.report (s : State) (b w : Nat) (d : Deferred) : State := { s with reports := s.reports ++ [{ b := b, w := w, d := d }] }

/-- R146, R299: a report of a wave's failed access. -/
def State.reportAt (s : State) (b w cause sub : Nat) (info site : DWord) : State :=
  s.report b w { cause := cause, sub := sub, info := info, site := site, seq := (s.launch (s.block b).launch).seq }

/-- R386: the address of an arm's next instruction that has not issued: while a warp-wide instruction or an `amode` waits, the one behind it;
while a `waitge` with a continuation waits, the continuation (R304). -/
def Arm.nextPc (a : Arm) : DWord :=
  match a.st with
  | .warp _ => a.pc + 8
  | .amode _ => a.pc + 8
  | .trap x => x.pc
  | .waitge _ _ _ (some p) => p
  | _ => a.pc
/-- R379, R386: a report reaches its wave's core: it becomes pending, spills, or goes to the fault queue alone. -/
def State.deliver (s : State) (r : Report) : State :=
  let v := s.wave r.b r.w
  let x := (s.launch (s.block r.b).launch).ctx
  let base : FaultRec := { cause := r.d.cause, sub := r.d.sub, deferred := true, site := r.d.site, info := r.d.info }
  if v.done then s.post x { s.waveRec r.b r.w base with seq := r.d.seq, stop := 0 }
  else if v.pend.length ≥ 4 then s.post x { s.waveRec r.b r.w base with seq := r.d.seq, stop := v.a.nextPc, spill := true }
  else s.modWave r.b r.w fun v => { v with pend := v.pend ++ [r.d] }

/-- Every report of a wave is delivered, oldest first. -/
def State.deliverAll (s : State) (b w : Nat) : State :=
  let mine := s.reports.filter fun r => r.b == b && r.w == w
  mine.foldl State.deliver { s with reports := s.reports.filter fun r => !(r.b == b && r.w == w) }

/-! ### Outstanding results (R25 to R30) -/

/-- The results that an arm waits for. -/
def Wave.mine (w : Wave) (armB : Bool) : List OutRes :=
  w.outst.filter fun r => r.owner == 2 || r.owner == (if armB then 1 else 0)
/-- R25: the result's value is bound; it only remains to be written. -/
def ResKind.bound : ResKind → Bool
  | .plain => true
  | .scratch => true
  | .received => true
  | _ => false
/-- R29: results that remain only to be written are written. -/
def Wave.writeBound (w : Wave) : Wave :=
  (w.outst.filter fun r => r.kind.bound).foldl (fun w r => w.apply (r.eff.live w.exited))
    { w with outst := w.outst.filter fun r => !r.kind.bound }
/-- R457: the latencies of LS load results that are now written. -/
def State.feedLoads (s : State) (b : Nat) (l : List OutRes) : State :=
  l.foldl (fun s r => s.feed ((s.block b).core / 64) 1 ((s.block b).core % 64) (List.replicate r.loads ((s.clk - r.at' : Nat) : Int))) s
/-- R180: arms parked for results become ready when none is left. -/
def Wave.unpark (v : Wave) : Wave :=
  let go := fun (v : Wave) (armB : Bool) => if (v.arm armB).st == .parked && (v.mine armB).isEmpty then v.modArm armB fun a => { a with st := .ready, waited := 0 } else v
  go (go v false) true
/-- Results of a wave that remain only to be written are written; an arm parked for the last of them becomes ready (R180). -/
def State.writeBound (s : State) (b w : Nat) : State :=
  let bound := (s.wave b w).outst.filter fun r => r.kind.bound
  if bound.isEmpty then s else (s.feedLoads b bound).modWave b w fun v => v.writeBound.unpark
/-- R27, R29: no result of the wave is outstanding. -/
def Wave.drained (w : Wave) : Bool := w.outst.isEmpty

/-! ### Taking a trap and returning from it (R155 to R157, R377 to R381) -/

/-- A precise trap: cause, SUB, INFO, AT for a fetch, and whether fault0 names the next instruction (R151). -/
structure Trap where
  cause : Nat
  sub : Nat := 0
  info : DWord := 0
  atWord : DWord := 0
  after : Bool := false
  deriving DecidableEq, Repr

/-- R151: fault0. -/
def fault0Of (cause : Nat) (deferred : Bool) (pc : DWord) : DWord :=
  BitVec.ofNat 64 (cause % 32 * 2 ^ 59 + bit deferred 58 + pc.toNat % 2 ^ 57)

/-- R156 steps 2 to 4: the handler is entered. -/
def Wave.enter (w : Wave) (armB : Bool) (f0 f1 handler : DWord) : Wave :=
  { w.modArm armB fun a => { a with pc := handler, dmask := 0, st := .ready, skipBp := false, skipAt := if a.skipBp then some a.pc else a.skipAt } with
    fault0 := f0, fault1 := f1, status := w.status ||| w.lateFlags.setWidth 32 ||| 0x100, late := []
    handlerB := armB, handlerArm := w.divided }

/-- R143, R381: the wave halts; its arms keep their PCs. -/
def Wave.halt (w : Wave) : Wave := { w.settle with halted := true }

/-- R156, R379, R381: a trap or halt of an arm whose wave has no result outstanding: the reports that fell due meanwhile become
pending, a deferred fault leaves the pending ones, and the wave enters its handler or halts. -/
def State.trapNow (s : State) (u : Cursor) (x : TrapWait) : State :=
  let s1 := s.deliverAll u.b u.w
  let v := s1.wave u.b u.w
  let n := s1.launch (s1.block u.b).launch
  let handled := !x.halts && !v.hnd && n.handler != 0
  let s2 := s1.modWave u.b u.w fun v => if x.deferred then { v with pend := v.pend.drop 1 } else v
  let s3 :=
    if handled then s2.modWave u.b u.w fun v => v.enter u.armB (fault0Of x.cause x.deferred x.pc) x.info n.handler
    else s2.modWave u.b u.w fun v => (v.modArm u.armB fun a => { a with pc := x.pc, st := .ready, reason := 29, skipBp := a.skipBp && x.pc == a.pc }).halt
  if handled && !x.deferred then s3
  else
    let r := s3.waveRec u.b u.w { cause := x.cause, sub := x.sub, deferred := x.deferred, handled := handled, halted := !handled,
                                  site := x.site, stop := x.pc, info := x.info, atWord := x.atWord }
    s3.post n.ctx (match x.seq with | some q => { r with seq := q } | none => r)

/-- R363: the credits that an arm waits for or holds are given back. -/
def State.dropSend (s : State) (u : Cursor) : State :=
  { s with sendReqs := s.sendReqs.filter fun r => !(r.b == u.b && r.w == u.w && r.armB == u.armB) }
/-- R29, R156, R381: an arm takes a trap or halts: bound results are written; while another remains outstanding the arm waits for it. -/
def State.enterTrap (s : State) (u : Cursor) (x : TrapWait) : State :=
  let s1 := (s.dropSend u).writeBound u.b u.w
  if !(s1.wave u.b u.w).drained then s1.modArm u fun a => { a with st := .trap x, reason := 24 } else s1.trapNow u x

/-- The one exception entry of an instruction's own trap; len is the instruction's length. -/
def State.takeTrap (s : State) (u : Cursor) (len : Nat) (t : Trap) : State :=
  let pc := (s.arm u).pc
  s.enterTrap u { cause := t.cause, sub := t.sub, deferred := false, halts := false, pc := if t.after then pc + BitVec.ofNat 64 len else pc
                  info := t.info, atWord := t.atWord, site := pc, seq := none }

/-- R157: the return: HND clears, PC is the sign-extended field of fault0, a new segment begins. -/
def Wave.tret (w : Wave) (armB : Bool) : Wave :=
  { w.modArm armB fun a =>
      { a with pc := sx64 57 w.fault0, dmask := 0, st := .ready, skipBp := a.skipAt == some (sx64 57 w.fault0), skipAt := none } with
    status := (w.status ||| w.lateFlags.setWidth 32) &&& ~~~0x100#32, late := [] }

end Sys2Proof.Machine
end

