-- ==== Sys2Proof/Machine/Issue.lean ====
section
/-! DEFINITION. Issuing an instruction (R21, R24 to R30, R43, R44): what the issuing arm samples, the checks in their order, and
what becomes of the arm afterwards. -/
namespace Sys2Proof.Machine

/-- R39: codes of the types whose operand is a register pair. -/
def isPair (et : Nat) : Bool := et == 2 || et == 3 || et == 9 || et == 12 || et == 13
/-- R39: the width of a class M type in bytes. -/
def etBytes (et : Nat) : Nat :=
  if isPair et then 8 else if et == 0 || et == 1 || et == 8 then 4 else if et == 4 || et == 5 || et == 10 || et == 11 then 2 else 1
/-- R40 class I. -/
def clsI (et : Nat) : Bool := et ≤ 7
/-- R40 class F. -/
def clsF (et : Nat) : Bool := 8 ≤ et && et ≤ 13
/-- R40 class W: every assigned code. -/
def clsW (et : Nat) : Bool := et ≤ 23
/-- R40 class M: every assigned code except the bfp types. -/
def clsM (et : Nat) : Bool := et ≤ 16
/-- R40 class A. -/
def clsA (et : Nat) : Bool := et ≤ 3 || et == 8 || et == 9 || et == 10

def modeET (m : Word) : Nat := (m.extractLsb' 3 5).toNat
def modeRM (m : Word) : Nat := (m.extractLsb' 8 3).toNat
def modeGP (m : Word) : Nat := (m.extractLsb' 0 3).toNat
def modeSat (m : Word) : Bool := m.getLsbD 11
def modeFZ (m : Word) : Bool := m.getLsbD 12

/-- R17: a mode value with no reserved bit and no unassigned RM or ET. -/
def modeOk (m : Word) : Bool := m.extractLsb' 13 19 == 0 && modeET m < 24 && modeRM m < 6

/-- What the issuing arm holds and samples at issue (R18, R19, R24). -/
structure Env where
  u : Cursor
  blk : Block
  ln : Launch
  cx : Context
  wv : Wave
  arm : Arm
  act : LaneMask
  deriving DecidableEq, Repr

def State.env (s : State) (u : Cursor) : Env :=
  let k := s.block u.b
  let n := s.launch k.launch
  let v := s.wave u.b u.w
  let a := v.arm u.armB
  { u := u, blk := k, ln := n, cx := s.ctx n.ctx, wv := v, arm := a, act := a.mask &&& v.preg (modeGP a.mode) &&& lowMask n.lanes }

def Env.et (e : Env) : Nat := modeET e.arm.mode
def Env.rm (e : Env) : Nat := modeRM e.arm.mode
def Env.sat (e : Env) : Bool := modeSat e.arm.mode
def Env.fz (e : Env) : Bool := modeFZ e.arm.mode
def Env.pair (e : Env) : Bool := isPair e.et
def Env.lanes (e : Env) : List Nat := lanesOf e.ln.lanes e.act
/-- The core number, die × 64 + core. -/
def Env.core (e : Env) : Nat := e.blk.core
def Env.pc (e : Env) : DWord := e.arm.pc
def Env.k (e : Env) (n : KReg) : DWord := e.wv.kreg n.toNat
/-- A predicate source (R37). -/
def Env.q (e : Env) (q : QPred) : LaneMask := if q.neg then ~~~(e.wv.preg q.p.toNat) else e.wv.preg q.p.toNat
/-- A register or pair of a lane (R12). -/
def Env.elem (e : Env) (pair : Bool) (r lane : Nat) : DWord :=
  if pair then (e.wv.vreg (r + 1) lane) ++ (e.wv.vreg r lane) else (e.wv.vreg r lane).setWidth 64
/-- The words of a value in a register or pair (R12). -/
def words (pair : Bool) (r lane : Nat) (x : DWord) : Sparse Word :=
  if pair then [(r * 1024 + lane, x.setWidth 32), ((r + 1) * 1024 + lane, x.extractLsb' 32 32)] else [(r * 1024 + lane, x.setWidth 32)]

/-- A vector operand: n registers or pairs from r; lanes names the lanes that are read where these are not the active ones. -/
structure VOp where
  r : Nat
  pair : Bool := false
  n : Nat := 1
  dest : Bool := false
  lanes : Option LaneMask := none
  deriving DecidableEq, Repr

def VOp.regs (o : VOp) : List Nat := span o.r (o.n * (if o.pair then 2 else 1))

/-- What is checked at issue: pre is the failure of the element-type step (R40, R85, R164, R240); mem holds where an incomplete
fence stops the instruction (R301). -/
structure Form where
  pre : Option Trap := none
  vs : List VOp := []
  ks : List Nat := []
  ps : List Nat := []
  guarded : Bool := false
  mem : Bool := false
  /-- R191: the instruction reads its vector sources only after checks of its own. -/
  late : Bool := false
  deriving DecidableEq, Repr

def illegal : Trap := { cause := 1 }
/-- The element-type step of an instruction whose class test is ok. -/
def need (ok : Bool) : Option Trap := if ok then none else some illegal

/-- R28: the destination-mask bits of an instruction's registers. -/
def Form.bits (f : Form) (gp : Nat) : List Nat :=
  ((f.vs.map fun o => o.regs.map (· / 2)).flatten ++ f.ks.map (128 + ·)) ++ (f.ps ++ (if f.guarded then [gp] else [])).map (192 + ·)

/-- The least number of a list. -/
def least : List Nat → Option Nat
  | [] => none
  | x :: t => match least t with
    | none => some x
    | some y => some (min x y)

/-- The register words that an instruction reads (register × 1024 + lane). -/
def Form.reads (f : Form) (e : Env) : List Nat :=
  ((f.vs.filter fun o => !o.dest).map fun o =>
    (o.regs.map fun r => ((o.lanes.map (lanesOf e.ln.lanes)).getD e.lanes).map fun i => r * 1024 + i).flatten).flatten
/-- R387: an uncorrectable source word: the first in the order of the operands, then of the lanes. -/
def Form.badSource (f : Form) (e : Env) : Option Trap :=
  ((f.reads e).find? fun i => e.wv.badRegs.contains i).map fun i => { cause := 21, info := BitVec.ofNat 64 (i / 1024 + 256 * (i % 1024)) }

/-- R387: the source words with a single-bit error. -/
def Form.softSources (f : Form) (e : Env) : List Nat := e.wv.softRegs.filter (f.reads e).contains

/-- R44: element type, even pairs, register bounds, segment hazard; then uncorrectable sources (R387), but for an instruction with
checks of its own before it reads them (late). -/
def Form.check (f : Form) (e : Env) : Option Trap :=
  match f.pre with
  | some t => some t
  | none =>
    if f.vs.any fun o => o.pair && o.r % 2 == 1 then some illegal
    else
      match least ((f.vs.map fun o => o.regs).flatten.filter fun r => r ≥ 8 * e.wv.octets) with
      | some r => some { cause := 4, info := BitVec.ofNat 64 r }
      | none =>
        match least ((f.bits (modeGP e.arm.mode)).filter fun i => e.arm.dmask.getLsbD i) with
        | some i => some { cause := 5, info := BitVec.ofNat 64 i }
        | none =>
          if e.wv.badRegs.isEmpty || f.late then none
          else f.badSource e

/-- What an instruction's own work answers. -/
inductive Out where
  /-- Done; the arm goes on at the next instruction. -/
  | next (s : State)
  /-- Done; the arm goes on at pc. -/
  | jump (s : State) (pc : DWord)
  /-- Done; the work has placed the arms itself. -/
  | placed (s : State)
  /-- A precise trap: no effect. -/
  | trap (t : Trap)
  /-- Not eligible yet (R215), for a reason of R454: the arm stays at the instruction. -/
  | hold (reason : Nat)
  /-- The model's stop. -/
  | stop (f : Fault)
  deriving DecidableEq, Repr

/-- The arm goes on at pc after issuing. -/
def State.advance (s : State) (u : Cursor) (pc : DWord) : State :=
  s.modArm u fun a => { a with pc := pc, lastIssue := s.ticks, reason := 0, skipBp := false }

/-- R27: an S = 1 instruction empties the destination mask. -/
def State.beginSegment (s : State) (u : Cursor) (sw : Bool) : State := s.modArm u fun a => { a with dmask := if sw then 0 else a.dmask }

/-- The state after an instruction's work.  The PC of the next instruction is a 64-bit sum (R10, R11): one that carries out of bit[55] is
not canonical, and its fetch traps TRANSLATION (log 39). -/
def State.finish (s : State) (u : Cursor) (len : Nat) : Out → Host.Outcome State Fault Refusal
  | .next t => .next (t.advance u ((s.arm u).pc + BitVec.ofNat 64 len))
  | .jump t pc => .next (t.advance u pc)
  | .placed t => .next t
  | .trap t => .next (s.takeTrap u len t)
  | .hold r => .next (s.modArm u fun a => { a with reason := r })
  | .stop f => .fault f

/-- R27, R146: a switch marker parks the arm while a result or a fault report of the wave is on its way. -/
def State.mustPark (s : State) (u : Cursor) (sw : Bool) : Bool :=
  sw && (!((s.wave u.b u.w).mine u.armB).isEmpty || s.reports.any fun r => r.b == u.b && r.w == u.w)

/-- R27: the arm parks at its switch marker, with the wave's reports delivered. -/
def State.park (s : State) (u : Cursor) : State :=
  (s.deliverAll u.b u.w).modArm u fun a =>
    { a with st := if ((s.wave u.b u.w).mine u.armB).isEmpty then .ready else .parked, reason := 4, waited := 0 }

/-- R387, R459: the single-bit errors of the words that an instruction reads are corrected and counted. -/
def State.correctRegs (s : State) (e : Env) (f : Form) : State :=
  let l := f.softSources e
  if l.isEmpty then s
  else
    (s.modWave e.u.b e.u.w fun v => { v with softRegs := v.softRegs.filter fun i => !l.contains i }).collect
      { type := 1, die := e.core / 64, place := e.core % 64, time := s.timeOf 8, payload := leBytes 8 l.length }

/-- The registers that an instruction reads or writes, its guard predicate among them, as LateFlags names them. -/
def Form.regs (f : Form) (gp : Nat) : List Nat :=
  (f.vs.map VOp.regs).flatten ++ f.ks.map (256 + ·) ++ (f.ps ++ (if f.guarded then [gp] else [])).map (320 + ·)
/-- R25, R26, R92: an instruction that reads or writes a result issues when it is ready: its flags are raised. -/
def State.raiseFor (s : State) (e : Env) (f : Form) : State :=
  let l := f.regs (modeGP e.arm.mode)
  if e.wv.late.any fun x => x.regs.any l.contains then s.modWave e.u.b e.u.w fun v => v.raise fun x => x.regs.any l.contains else s

/-- R21: the loop from the switch marker on, for the arm that State.cur names. -/
def issue (sw : Bool) (len : Nat) (form : Env → Form) (body : Env → State → Out) (s : State) : Host.Outcome State Fault Refusal :=
  match s.cur with
  | none => .fault .noIssuingArm
  | some u =>
    if s.mustPark u sw then .next (s.park u)
    else
      let t := s.beginSegment u sw
      let e := t.env u
      if (form e).mem && e.arm.fence.isSome then t.finish u len (.hold 13)
      else
        match (form e).check e with
        | some x => t.finish u len (.trap x)
        | none => t.finish u len (body e ((t.correctRegs e (form e)).raiseFor e (form e)))

/-- An instruction without registers. -/
def plainForm (_ : Env) : Form := {}
/-- A form that names uniform registers only. -/
def kForm (ks : List KReg) (_ : Env) : Form := { ks := ks.map (·.toNat) }

/-! ### Results -/

/-- R158, R160: the non-empty mask words of the issuing arm. -/
def Env.maskWords (e : Env) : Nat := ((List.range 32).filter fun w => (e.arm.mask >>> (32 * w)).setWidth 32 != 0#32).length
/-- R26: the clk in which a result of latency lat, issued now, is ready. -/
def Env.readyAt (e : Env) (s : State) (lat : Nat) : Nat := s.clk + lat + e.maskWords - 1
/-- Fixed latency: the registers are there for the next instruction (R26), the flags are raised when the result is ready (R92). -/
def Env.write (e : Env) (f : Eff) (s : State) (lat : Nat := 4) : State := s.modWave e.u.b e.u.w fun v => v.applyLate f (e.readyAt s lat)
/-- Blocking (R25): registers and flags are there when the instruction completes. -/
def Env.done (e : Env) (f : Eff) (s : State) : State := s.modWave e.u.b e.u.w fun v => v.apply f

/-- R28: registers enter the arm's destination mask. -/
def dmaskOf (l : List Nat) : BitVec 256 := l.foldl (fun m i => m ||| (1#256 <<< i)) 0

/-- R25, R28: a variable-latency result of the registers whose mask bits are l. -/
def Env.outstanding (e : Env) (kind : ResKind) (f : Eff) (l : List Nat) (kd : Nat) (s : State) : State :=
  let r := s.fresh
  (r.2.modWave e.u.b e.u.w fun v =>
    { v with outst := v.outst ++ [{ id := r.1, owner := if e.u.armB then 1 else 0, kind := kind, eff := f, kd := kd, at' := s.clk }] }).modArm e.u
    fun a => { a with dmask := a.dmask ||| dmaskOf l }

/-- R457: the result that was just made outstanding, of the mask bits given, is an LS load's. -/
def Env.asLoad (e : Env) (bits : List Nat) (s : State) : State :=
  s.modWave e.u.b e.u.w fun v => { v with outst := match v.outst.getLast? with
    | some r => v.outst.dropLast ++ [{ r with loads := if bits.all (· < 128) then e.maskWords else 1 }]
    | none => [] }

def vbits (r : Nat) (pair : Bool) (n : Nat) : List Nat := (span r (n * (if pair then 2 else 1))).map (· / 2)

/-- An outstanding result of a wave changed. -/
def State.modResult (s : State) (b w id : Nat) (f : OutRes → OutRes) : State :=
  s.modWave b w fun v => { v with outst := v.outst.map fun r => if r.id == id then f r else r }

/-- Later words and flags of an outstanding result. -/
def OutRes.add (r : OutRes) (f : Eff) : OutRes :=
  { r with eff := { v := r.eff.v ++ f.v, k := r.eff.k ++ f.k, p := r.eff.p ++ f.p, flags := r.eff.flags ||| f.flags } }

/-! ### Which arms may be chosen (R156, R162, R188, R215, R402) -/

/-- The other arm of a divided wave waits to take a trap or to halt (R156, R381). -/
def Wave.otherTraps (v : Wave) (armB : Bool) : Bool := v.divided && (match (v.arm !armB).st with | .trap _ => true | _ => false)
/-- The arm may be chosen: ready, in a resident block that is neither restoring nor stopping, its wave running, and the other arm neither in
its handler nor on its way there (R188).  A wave that divides inside its handler runs the handler with both arms (log 33). -/
def State.eligible (s : State) (u : Cursor) : Bool :=
  let k := s.block u.b
  let v := k.waves.getD u.w { done := true }
  k.resident && !k.restoring && !(s.gang k.launch k.gang).stopReq && !v.done && !v.halted &&
  !(v.hnd && v.handlerArm && v.divided && v.handlerB != u.armB) && !v.otherTraps u.armB && (!u.armB || v.b.isSome) && (v.arm u.armB).st == .ready

/-- The arms of a core's resident waves; a block that is being restored has none yet (R406). -/
def State.armsOf (s : State) (core : Nat) : List Cursor :=
  ((List.range s.blocks.length).map fun b =>
    if (s.block b).core == core && (s.block b).resident && !(s.block b).restoring then
      ((List.range (s.block b).waves.length).map fun w =>
        { b := b, w := w, armB := false } :: (if (s.wave b w).divided then [{ b := b, w := w, armB := true }] else [])).flatten
    else []).flatten

def State.levelOf (s : State) (u : Cursor) : Nat := (s.launch (s.block u.b).launch).priority

end Sys2Proof.Machine
end

