-- ==== Sys2Proof/Machine/Num.lean ====
section
/-! DEFINITION. Number formats, rounding, floating-point operations, conversions and the order of summation (R63 to R83, R87,
R115 to R125).  A finite value is a sign, a natural number and a power of two, so every operation is exact until its one
rounding. -/
namespace Sys2Proof.Machine

/-! ### Integers (R63 to R65) -/

/-- Bits of an integer element type. -/
def intBits (et : Nat) : Nat := if et ≤ 1 then 32 else if et ≤ 3 then 64 else if et ≤ 5 then 16 else 8
/-- R63: the s types have even codes. -/
def intSigned (et : Nat) : Bool := et % 2 == 0
def intMin (et : Nat) : Int := if intSigned et then -(2 ^ (intBits et - 1) : Int) else 0
def intMax (et : Nat) : Int := if intSigned et then 2 ^ (intBits et - 1) - 1 else 2 ^ intBits et - 1
/-- R63: the value of a pattern in its low bits. -/
def intVal (et : Nat) (x : DWord) : Int :=
  let n := x.toNat % 2 ^ intBits et
  if intSigned et && n ≥ 2 ^ (intBits et - 1) then (n : Int) - 2 ^ intBits et else n
/-- R64: a value of the type as its register or pair holds it. -/
def intReg (et : Nat) (v : Int) : DWord :=
  let w := BitVec.ofInt 64 (intVal et (BitVec.ofInt 64 v))
  if isPair et then w else w &&& 0xFFFFFFFF#64
/-- R65: fitting; SV where it saturates. -/
def fitInt (et : Nat) (sat : Bool) (v : Int) : DWord × BitVec 8 :=
  if sat && v < intMin et then (intReg et (intMin et), fSV)
  else if sat && v > intMax et then (intReg et (intMax et), fSV)
  else (intReg et v, 0)

/-! ### Floating formats (R66, R67) -/

/-- Exponent bits, fraction bits, bias; f8e4 has no infinity. -/
structure Fmt where
  ew : Nat
  fw : Nat
  bias : Nat
  noInf : Bool := false
  flush : Bool := true
  deriving DecidableEq, Repr

def fmtOf (et : Nat) : Fmt :=
  match et with
  | 9 => { ew := 11, fw := 52, bias := 1023 }
  | 10 => { ew := 5, fw := 10, bias := 15 }
  | 11 => { ew := 8, fw := 7, bias := 127 }
  | 13 => { ew := 5, fw := 10, bias := 15 }
  | 14 => { ew := 4, fw := 3, bias := 7, noInf := true, flush := false }
  | 15 => { ew := 5, fw := 2, bias := 15, flush := false }
  | _ => { ew := 8, fw := 23, bias := 127 }

/-- An unpacked value: a NaN with its fraction (of fw bits), an infinity, or (−1)^s × m × 2^p. -/
inductive Num where
  | nan (s : Bool) (fw frac : Nat)
  | inf (s : Bool)
  | fin (s : Bool) (m : Nat) (p : Int)
  deriving DecidableEq, Repr

def Num.isNan : Num → Bool | .nan _ _ _ => true | _ => false
def Num.sign : Num → Bool | .nan s _ _ => s | .inf s => s | .fin s _ _ => s
def Num.isZero : Num → Bool | .fin _ 0 _ => true | _ => false
/-- R69: a NaN whose quiet bit is clear. -/
def Num.signalling : Num → Bool | .nan _ fw f => f < 2 ^ (fw - 1) | _ => false
def Num.negate : Num → Num | .nan s w f => .nan s w f | .inf s => .inf (!s) | .fin s m p => .fin (!s) m p

def Fmt.bits (f : Fmt) : Nat := 1 + f.ew + f.fw
def signBit (f : Fmt) (s : Bool) : Nat := if s then 2 ^ (f.ew + f.fw) else 0
def Fmt.defaultNan (f : Fmt) (s : Bool) : Nat :=
  signBit f s + (if f.noInf then 127 else (2 ^ f.ew - 1) * 2 ^ f.fw + 2 ^ (f.fw - 1))
def Fmt.maxFinite (f : Fmt) (s : Bool) : Nat :=
  signBit f s + (if f.noInf then 126 else (2 ^ f.ew - 1) * 2 ^ f.fw - 1)
def Fmt.infinity (f : Fmt) (s : Bool) : Nat := signBit f s + (2 ^ f.ew - 1) * 2 ^ f.fw

/-- R66, R72: the value of a pattern; fz reads subnormals as zeros. -/
def unpack (f : Fmt) (fz : Bool) (x : DWord) : Num :=
  let n := x.toNat % 2 ^ f.bits
  let s := n / 2 ^ (f.ew + f.fw) == 1
  let e := n / 2 ^ f.fw % 2 ^ f.ew
  let m := n % 2 ^ f.fw
  if e == 2 ^ f.ew - 1 && (!f.noInf || m == 7) then
    (if f.noInf then .nan s f.fw (2 ^ (f.fw - 1)) else if m == 0 then .inf s else .nan s f.fw m)
  else if e == 0 then .fin s (if fz && f.flush then 0 else m) (1 - (f.bias : Int) - f.fw)
  else .fin s (2 ^ f.fw + m) ((e : Int) - f.bias - f.fw)

/-- R70 rule 1, R71: a NaN delivered in a format, quieted. -/
def packNan (f : Fmt) (s : Bool) (fw frac : Nat) : Nat :=
  if f.noInf then signBit f s + 127
  else
    let top := if fw ≤ f.fw then frac * 2 ^ (f.fw - fw) else frac / 2 ^ (fw - f.fw)
    signBit f s + (2 ^ f.ew - 1) * 2 ^ f.fw + (top % 2 ^ (f.fw - 1) + 2 ^ (f.fw - 1))

/-! ### Rounding (R72 to R74) -/

/-- R73: is the magnitude m, cut below 2^sh with a further non-zero part where sticky, rounded up or made odd?  The kept part. -/
def roundMag (rm : Nat) (s : Bool) (m sh : Nat) (sticky : Bool) : Nat × Bool :=
  let kept := m / 2 ^ sh
  let rem := m % 2 ^ sh
  let inexact := rem != 0 || sticky
  let half := sh ≥ 1 && rem == 2 ^ (sh - 1)
  let above := sh ≥ 1 && (rem > 2 ^ (sh - 1) || (half && sticky))
  let tie := half && !sticky
  if !inexact then (kept, false)
  else
    match rm with
    | 0 => (if above || (tie && kept % 2 == 1) then kept + 1 else kept, true)
    | 1 => (kept, true)
    | 2 => (if s then kept + 1 else kept, true)
    | 3 => (if s then kept else kept + 1, true)
    | 4 => (if above || tie then kept + 1 else kept, true)
    | _ => (if kept % 2 == 0 then kept + 1 else kept, true)

/-- m × 2^p with the low bits below 2^q dropped: shifted so that its unit is 2^q. -/
def roundAt (rm : Nat) (s : Bool) (m : Nat) (p q : Int) (sticky : Bool) : Nat × Bool :=
  if p ≥ q then (m * 2 ^ (p - q).toNat, sticky) else roundMag rm s m (q - p).toNat sticky

/-- R74: an overflow's result and flags; conv for a conversion instruction. -/
def overflowed (f : Fmt) (rm : Nat) (sat conv : Bool) (s : Bool) : Nat × BitVec 8 :=
  let toInf := rm == 0 || rm == 4 || (rm == 2 && s) || (rm == 3 && !s)
  if conv && sat then (f.maxFinite s, fOF ||| fNX ||| fSV)
  else if !toInf then (f.maxFinite s, fOF ||| fNX)
  else if f.noInf then (if sat then f.maxFinite s else f.defaultNan s, fOF ||| fNX)
  else (f.infinity s, fOF ||| fNX)

/-- R72 to R74: a non-zero exact value rounded once into a format. -/
def roundFin (f : Fmt) (rm : Nat) (fz sat conv s : Bool) (m : Nat) (p : Int) (sticky : Bool) : Nat × BitVec 8 :=
  let e : Int := (Nat.log2 m : Int) + p
  let emin : Int := 1 - (f.bias : Int)
  let q : Int := max (e - f.fw) (emin - f.fw)
  let r := roundAt rm s m p q sticky
  let u := roundAt rm s m p (e - f.fw) sticky
  let tiny := e < emin && !(e + 1 == emin && u.1 == 2 ^ (f.fw + 1))
  if tiny && fz && f.flush then (signBit f s, fUF ||| fNX)
  else
    let k := if r.1 ≥ 2 ^ (f.fw + 1) then r.1 / 2 else r.1
    let q' := if r.1 ≥ 2 ^ (f.fw + 1) then q + 1 else q
    let fl := (if r.2 then fNX else 0) ||| (if tiny && r.2 then fUF else 0)
    if k < 2 ^ f.fw then (signBit f s + k, fl)
    else
      let biased := (q' + f.fw + f.bias).toNat
      let mag := biased * 2 ^ f.fw + (k - 2 ^ f.fw)
      if mag > f.maxFinite false then overflowed f rm sat conv s else (signBit f s + mag, fl)

/-- A value delivered in a format (R71, R77): conv for a conversion. -/
def pack (f : Fmt) (rm : Nat) (fz sat conv : Bool) : Num → Nat × BitVec 8
  | .nan s w x => (packNan f s w x, if x < 2 ^ (w - 1) then fNV else 0)
  | .inf s => if f.noInf then (if sat then (f.maxFinite s, fSV) else (f.defaultNan s, fNV)) else (f.infinity s, 0)
  | .fin s 0 _ => (signBit f s, 0)
  | .fin s m p => roundFin f rm fz sat conv s m p false

/-! ### Exact arithmetic -/

/-- The integer of a finite value in units of 2^q, q at most its own power. -/
def scaled (s : Bool) (m : Nat) (p q : Int) : Int := if s then -((m * 2 ^ (p - q).toNat : Nat) : Int) else (m * 2 ^ (p - q).toNat : Nat)

/-- R75: an exact sum of two finite values, with the sign of a zero. -/
def addFin (rm : Nat) (s1 : Bool) (m1 : Nat) (p1 : Int) (s2 : Bool) (m2 : Nat) (p2 : Int) : Num :=
  let q := min p1 p2
  let v := scaled s1 m1 p1 q + scaled s2 m2 p2 q
  if v == 0 then .fin (if s1 == s2 then s1 else rm == 2) 0 0 else .fin (decide (v < 0)) v.natAbs q

/-- A sum that is not NaN by its sources; none is invalid. -/
def addNum (rm : Nat) : Num → Num → Option Num
  | .fin s1 m1 p1, .fin s2 m2 p2 => some (addFin rm s1 m1 p1 s2 m2 p2)
  | .inf s1, .inf s2 => if s1 == s2 then some (.inf s1) else none
  | .inf s, _ => some (.inf s)
  | _, .inf s => some (.inf s)
  | x, _ => some x

def mulNum : Num → Num → Option Num
  | .fin s1 m1 p1, .fin s2 m2 p2 => some (.fin (s1 != s2) (m1 * m2) (p1 + p2))
  | .inf s1, .fin s2 m2 _ => if m2 == 0 then none else some (.inf (s1 != s2))
  | .fin s1 m1 _, .inf s2 => if m1 == 0 then none else some (.inf (s1 != s2))
  | .inf s1, .inf s2 => some (.inf (s1 != s2))
  | x, _ => some x

/-- R70: the first NaN source, with NV for any signalling one. -/
def firstNan (l : List Num) : Option (Num × BitVec 8) :=
  (l.find? Num.isNan).map fun x => (x, if l.any Num.signalling then fNV else 0)

/-- R70: the result of an operation over sources in the order A, B, D; none is the default NaN and NV. -/
def finishOp (f : Fmt) (rm : Nat) (fz : Bool) (src : List Num) (alsoNV : Bool) (r : Option Num) : DWord × BitVec 8 :=
  match firstNan src with
  | some (.nan s w x, fl) => (BitVec.ofNat 64 (packNan f s w x), fl ||| (if alsoNV then fNV else 0))
  | _ =>
    match r with
    | none => (BitVec.ofNat 64 (f.defaultNan false), fNV)
    | some y => let z := pack f rm fz false false y; (BitVec.ofNat 64 z.1, z.2)

def fpAdd (f : Fmt) (rm : Nat) (fz neg : Bool) (x y : DWord) : DWord × BitVec 8 :=
  let a := unpack f fz x
  let b := unpack f fz y
  finishOp f rm fz [a, b] false (addNum rm a (if neg then b.negate else b))

def fpMul (f : Fmt) (rm : Nat) (fz : Bool) (x y : DWord) : DWord × BitVec 8 :=
  let a := unpack f fz x
  let b := unpack f fz y
  finishOp f rm fz [a, b] false (mulNum a b)

/-- R115: the fused forms; negP and negD negate the product and the addend exactly. -/
def fpFma (f : Fmt) (rm : Nat) (fz negP negD : Bool) (x y z : DWord) : DWord × BitVec 8 :=
  let a := unpack f fz x
  let b := unpack f fz y
  let d := unpack f fz z
  let prod := if a.isNan || b.isNan then some a else mulNum a b
  finishOp f rm fz [a, b, d] prod.isNone
    (prod.bind fun m => addNum rm (if negP then m.negate else m) (if negD then d.negate else d))

/-- Bit by bit integer square root of n, bits k − 1 down to 0. -/
def isqrt (n : Nat) : Nat → Nat → Nat
  | 0, r => r
  | k + 1, r => if (r + 2 ^ k) * (r + 2 ^ k) ≤ n then isqrt n k (r + 2 ^ k) else isqrt n k r

/-- R120: division. -/
def fpDiv (f : Fmt) (rm : Nat) (fz : Bool) (x y : DWord) : DWord × BitVec 8 :=
  let a := unpack f fz x
  let b := unpack f fz y
  let s := a.sign != b.sign
  match a, b with
  | .fin _ m1 p1, .fin _ m2 p2 =>
    if m2 == 0 then (if m1 == 0 then finishOp f rm fz [] false none else (BitVec.ofNat 64 (f.infinity s), fDZ))
    else if m1 == 0 then (BitVec.ofNat 64 (signBit f s), 0)
    else
      let n := m1 * 2 ^ 128
      let r := roundFin f rm fz false false s (n / m2) (p1 - p2 - 128) (n % m2 != 0)
      (BitVec.ofNat 64 r.1, r.2)
  | .inf _, .fin _ _ _ => (BitVec.ofNat 64 (f.infinity s), 0)
  | .fin _ _ _, .inf _ => (BitVec.ofNat 64 (signBit f s), 0)
  | a, b => finishOp f rm fz [a, b] false none

/-- R120: square root. -/
def fpSqrt (f : Fmt) (rm : Nat) (fz : Bool) (x : DWord) : DWord × BitVec 8 :=
  match unpack f fz x with
  | .fin s m p =>
    if m == 0 then (BitVec.ofNat 64 (signBit f s), 0)
    else if s then finishOp f rm fz [] false none
    else
      let odd := p % 2 != 0
      let n := (if odd then 2 * m else m) * 2 ^ 128
      let q := (if odd then p - 1 else p) - 128
      let r := isqrt n 96 0
      let z := roundFin f rm fz false false false r (q / 2) (r * r != n)
      (BitVec.ofNat 64 z.1, z.2)
  | .inf s => if s then finishOp f rm fz [] false none else (BitVec.ofNat 64 (f.infinity false), 0)
  | a => finishOp f rm fz [a] false none

/-- Order of two values that are not NaN: a < b, with −0 below +0 where strict. -/
def numLt (strictZero : Bool) : Num → Num → Bool
  | .fin s1 m1 p1, .fin s2 m2 p2 =>
    let q := min p1 p2
    let u := scaled s1 m1 p1 q
    let v := scaled s2 m2 p2 q
    u < v || (strictZero && u == v && m1 == 0 && s1 && !s2)
  | .inf s1, .inf s2 => s1 && !s2
  | .inf s, _ => s
  | _, .inf s => !s
  | _, _ => false
def numEq (a b : Num) : Bool := !a.isNan && !b.isNan && !numLt false a b && !numLt false b a

/-- R116. -/
def fpMinMax (f : Fmt) (fz mx : Bool) (x y : DWord) : DWord × BitVec 8 :=
  let a := unpack f fz x
  let b := unpack f fz y
  let nv := if a.signalling || b.signalling then fNV else 0
  let out := fun (v : Num) (raw : DWord) =>
    BitVec.ofNat 64 (if v.isZero then signBit f v.sign else raw.toNat % 2 ^ f.bits)
  if a.isNan && b.isNan then ((finishOp f 0 fz [a, b] false none).1, nv)
  else if a.isNan then (out b y, nv)
  else if b.isNan then (out a x, nv)
  else (if (if mx then numLt true a b else numLt true b a) then out b y else out a x, nv)

/-- R117: sign operations: 0 abs, 1 neg, 2 the sign of y. -/
def fpSign (f : Fmt) (op : Nat) (x y : DWord) : DWord × BitVec 8 :=
  let n := x.toNat % 2 ^ f.bits
  let mag := n % 2 ^ (f.bits - 1)
  let s := match op with | 0 => false | 1 => !(n ≥ 2 ^ (f.bits - 1) : Bool) | _ => y.toNat % 2 ^ f.bits ≥ 2 ^ (f.bits - 1)
  (BitVec.ofNat 64 (mag + signBit f s), 0)

/-- R118. -/
def fpCmp (f : Fmt) (fz : Bool) (cc : Nat) (x y : DWord) : Bool × BitVec 8 :=
  let a := unpack f fz x
  let b := unpack f fz y
  let nan := a.isNan || b.isNan
  let nv := if a.signalling || b.signalling || (nan && 2 ≤ cc && cc ≤ 5) then fNV else 0
  let r := match cc with
    | 0 => numEq a b
    | 1 => !numEq a b
    | 2 => !nan && numLt false a b
    | 3 => !nan && !numLt false b a
    | 4 => !nan && numLt false b a
    | 5 => !nan && !numLt false a b
    | 6 => !nan
    | _ => nan
  (r, nv)

/-- R119. -/
def fpClass (f : Fmt) (x : DWord) : Nat :=
  match unpack f false x with
  | .nan _ fw m => if m < 2 ^ (fw - 1) then 256 else 512
  | .inf s => if s then 1 else 128
  | .fin s m _ => if m == 0 then (if s then 8 else 16) else if m < 2 ^ f.fw then (if s then 4 else 32) else (if s then 2 else 64)

/-- R125: rounding to integral in its own type. -/
def fpRnd (f : Fmt) (rm : Nat) (fz : Bool) (x : DWord) : DWord × BitVec 8 :=
  match unpack f fz x with
  | .fin s m p =>
    if m == 0 then (BitVec.ofNat 64 (signBit f s), 0)
    else if p ≥ 0 then (BitVec.ofNat 64 (x.toNat % 2 ^ f.bits), 0)
    else
      let r := roundAt rm s m p 0 false
      let z := if r.1 == 0 then (signBit f s, (0 : BitVec 8)) else roundFin f rm fz false false s r.1 0 false
      (BitVec.ofNat 64 z.1, if r.2 then fNX else 0)
  | .inf s => (BitVec.ofNat 64 (f.infinity s), 0)
  | a => finishOp f rm fz [a] false none

/-! ### Conversions (R71, R77 to R81) -/

/-- The value of an element of any integer, floating or e8m0 type. -/
def valueOf (et : Nat) (fz : Bool) (x : DWord) : Num :=
  if clsI et then (let v := intVal et x; .fin (decide (v < 0)) v.natAbs 0)
  else if et == 16 then (if x.toNat % 256 == 255 then .nan false 23 (2 ^ 22) else .fin false 1 ((x.toNat % 256 : Nat) - 127 : Int))
  else unpack (fmtOf et) fz x

/-- R78: a value to an integer type. -/
def toInt (et rm : Nat) (sat : Bool) : Num → DWord × BitVec 8
  | .nan _ _ _ => (0, fNV)
  | .inf s => if sat then (intReg et (if s then intMin et else intMax et), fSV) else (0, fNV)
  | .fin s m p =>
    let r := roundAt rm s m p 0 false
    let v : Int := if s then -(r.1 : Int) else r.1
    if v < intMin et || v > intMax et then (let z := fitInt et sat v; (z.1, if sat then fSV else fNV))
    else (intReg et v, if r.2 then fNX else 0)

/-- R130 (see Convert): a value to e8m0 is the concern of `toE8`; here every other destination of a conversion. -/
def convertTo (et rm : Nat) (sat fz : Bool) (v : Num) : DWord × BitVec 8 :=
  if clsI et then toInt et rm sat v else (let z := pack (fmtOf et) rm fz sat true v; (BitVec.ofNat 64 z.1, z.2))

/-- m × 2^p rounded to f64 under rne (R254). -/
def dyToF64 (s : Bool) (m : Nat) (p : Int) : DWord :=
  if m == 0 then 0 else BitVec.ofNat 64 (roundFin (fmtOf 9) 0 false false false s m p false).1
/-- |d − y| of two finite f64 values, rounded up (R261). -/
def absDiffUp (d y : DWord) : DWord :=
  match addNum 0 (unpack (fmtOf 9) false d) (unpack (fmtOf 9) false y).negate with
  | some (.fin _ m p) => if m == 0 then 0 else BitVec.ofNat 64 (roundFin (fmtOf 9) 3 false false false false m p false).1
  | _ => 0

/-! ### Element-wise operations and reductions (R68, R87) -/

/-- R68, R113: number of elements, the bits of each that are read, and the scalar type. -/
def packing (et : Nat) : Nat × Nat × Nat := if et == 12 then (2, 32, 8) else if et == 13 then (4, 16, 10) else (1, if et == 10 || et == 11 then 16 else 64, et)

/-- R68: a scalar operation over the elements of one or more operands; flags are ORed. -/
def overElems (et : Nat) (f : Fmt → List DWord → DWord × BitVec 8) (ops : List DWord) : DWord × BitVec 8 :=
  let p := packing et
  (List.range p.1).foldl (fun a i =>
    let r := f (fmtOf p.2.2) (ops.map fun (x : DWord) => (x >>> (i * p.2.1)) &&& BitVec.ofNat 64 (2 ^ p.2.1 - 1))
    (a.1 ||| (r.1 <<< (i * p.2.1)), a.2 ||| r.2)) (0, 0)

/-- R48, R198: the ops of `wred` and `wscan`: 0 add, 1 min, 2 max, 3 and, 4 or, 5 xor. -/
def redOpEval (et rm : Nat) (fz : Bool) (op : Nat) (x y : DWord) : DWord × BitVec 8 :=
  match op with
  | 0 => if clsI et then (intReg et (intVal et x + intVal et y), 0) else fpAdd (fmtOf et) rm fz false x y
  | 1 => if clsI et then (if intVal et y < intVal et x then y else x, 0) else fpMinMax (fmtOf et) fz false x y
  | 2 => if clsI et then (if intVal et x < intVal et y then y else x, 0) else fpMinMax (fmtOf et) fz true x y
  | 3 => (intReg et (intVal et (x &&& y)), 0)
  | 4 => (intReg et (intVal et (x ||| y)), 0)
  | _ => (intReg et (intVal et (x ^^^ y)), 0)

/-- R87: identities. -/
def redIdentity (et op : Nat) : DWord :=
  match op with
  | 1 => if clsI et then intReg et (intMax et) else BitVec.ofNat 64 ((fmtOf et).infinity false)
  | 2 => if clsI et then intReg et (intMin et) else BitVec.ofNat 64 ((fmtOf et).infinity true)
  | 3 => intReg et (-1)
  | _ => 0

/-- One level of the tree: neighbours combined, the left operand at the lower lane. -/
def treeLevel (f : DWord → DWord → DWord × BitVec 8) : List (Option DWord) → List (Option DWord) × BitVec 8
  | a :: b :: t =>
    let r := treeLevel f t
    (match a, b with
     | some x, some y => let z := f x y; (some z.1 :: r.1, z.2 ||| r.2)
     | none, y => (y :: r.1, r.2)
     | x, none => (x :: r.1, r.2))
  | l => (l, 0)
def treeAll (f : DWord → DWord → DWord × BitVec 8) : Nat → List (Option DWord) → List (Option DWord) × BitVec 8
  | 0, l => (l, 0)
  | n + 1, l => let r := treeLevel f l; let q := treeAll f n r.1; (q.1, r.2 ||| q.2)

/-- R87: tree_reduce over n lanes. -/
def waveReduce (et rm : Nat) (fz : Bool) (op n : Nat) (present : LaneMask) (x : Nat → DWord) : DWord × BitVec 8 :=
  let r := treeAll (redOpEval et rm fz op) 10 ((List.range n).map fun i => if present.getLsbD i then some (x i) else none)
  match r.1 with
  | some y :: _ => (y, r.2)
  | _ => (redIdentity et op, r.2)

/-- R87: the scan at one lane. -/
def waveScan (et rm : Nat) (fz excl : Bool) (op n : Nat) (present : LaneMask) (x : Nat → DWord) (lane : Nat) : DWord × BitVec 8 :=
  waveReduce et rm fz op n (present &&& lowMask (if excl then lane else lane + 1)) x

end Sys2Proof.Machine
end

