-- ==== Sys2Proof/Machine/Codec.lean ====
section
/-! DEFINITION. The FP64 block codec (R245 to R255): positions, layouts, encoding and decoding of one block. -/
namespace Sys2Proof.Machine

/-! ### Buffer record fields (R234) -/

def bufBase (r : List DWord) : DWord := sx64 57 ((r.getD 0 0) &&& 0x01FFFFFFFFFFFFFF#64)
def bufShape (r : List DWord) : Bool := (r.getD 1 0).getLsbD 52
def bufAper (r : List DWord) : Bool := (r.getD 1 0).getLsbD 51
def bufRace (r : List DWord) : Bool := (r.getD 1 0).getLsbD 50
def bufEnc (r : List DWord) : Nat := ((r.getD 1 0).extractLsb' 48 2).toNat
def bufExtent (r : List DWord) : Nat := ((r.getD 1 0).extractLsb' 0 48).toNat
def bufScale (r : List DWord) : Word := (r.getD 2 0).extractLsb' 32 32
/-- The bit budget b = 4 × (c + 1). -/
def bufBudget (r : List DWord) : Nat := 4 * (((r.getD 2 0).extractLsb' 24 4).toNat + 1)
def bufIlv (r : List DWord) : Nat := 2 ^ ((r.getD 2 0).extractLsb' 16 2).toNat
def bufRfmt (r : List DWord) : Nat := ((r.getD 2 0).extractLsb' 8 5).toNat
def bufMfmt (r : List DWord) : Nat := ((r.getD 2 0).extractLsb' 0 5).toNat
def bufErrs (r : List DWord) : DWord := sx64 57 ((r.getD 3 0) &&& 0x01FFFFFFFFFFFFFF#64)
def bufPitch (r : List DWord) : Nat := ((r.getD 4 0).extractLsb' 0 48).toNat
def bufEncoded (r : List DWord) : Bool := bufEnc r ≥ 2

/-! ### Blocks and positions (R245) -/

def ceilDiv (a b : Nat) : Nat := (a + b - 1) / b
/-- N, the values of the buffer. -/
def bufValues (r : List DWord) : Nat := bufExtent r / 8
/-- NB. -/
def bufBlocks (r : List DWord) : Nat :=
  if bufShape r then ceilDiv (ceilDiv (bufValues r) (bufPitch r)) 4 * (bufPitch r / 4) else bufValues r / 16
/-- R245: block and element of a position. -/
def blockOf (r : List DWord) (p : Nat) : Nat × Nat :=
  if bufShape r then
    let row := p / bufPitch r
    let col := p % bufPitch r
    (row / 4 * (bufPitch r / 4) + col / 4, 4 * (row % 4) + col % 4)
  else (p / 16, p % 16)
/-- R245: the position of an element of a block. -/
def positionOf (r : List DWord) (j i : Nat) : Nat :=
  if bufShape r then (4 * (j / (bufPitch r / 4)) + i / 4) * bufPitch r + 4 * (j % (bufPitch r / 4)) + i % 4 else 16 * j + i
/-- R245: an element beyond the buffer. -/
def isPadding (r : List DWord) (j i : Nat) : Bool := positionOf r j i ≥ bufValues r

/-! ### Layouts (R246, R247) -/

/-- R247: MAPLEN. -/
def mapLen (r : List DWord) : Nat := ceilDiv (bufBlocks r) 128 * 128
/-- Offset of a block's encoded bytes from BASE. -/
def blockOffset (r : List DWord) (j : Nat) : Nat :=
  if bufEnc r == 2 then (let per := 64 / bufBudget r; 128 * (j / per) + 2 * bufBudget r * (j % per)) else mapLen r + 128 * j
/-- Bytes that a block occupies. -/
def blockBytes (r : List DWord) : Nat := if bufEnc r == 2 then 2 * bufBudget r else 128

/-! ### The transform (R250 to R252) -/

/-- One four-point row of integers. -/
structure Quad where
  a : Int
  b : Int
  c : Int
  d : Int
  deriving DecidableEq, Repr

/-- R250: fwd4; Int division by 2 rounds towards minus infinity. -/
def fwd4 (x : Quad) : Quad :=
  let d0 := x.a - x.b
  let s0 := x.b + d0 / 2
  let d1 := x.c - x.d
  let s1 := x.d + d1 / 2
  let d2 := s0 - s1
  ⟨s1 + d2 / 2, d2, d0, d1⟩
/-- R250: inv4. -/
def inv4 (x : Quad) : Quad :=
  let s1 := x.a - x.b / 2
  let s0 := x.b + s1
  let a1 := s0 - x.c / 2
  let a3 := s1 - x.d / 2
  ⟨x.c + a1, a1, x.d + a3, a3⟩

/-- A four-point map over the rows of sixteen values. -/
def overRows (f : Quad → Quad) (l : List Int) : List Int :=
  ((List.range 4).map fun r =>
    let y := f ⟨l.getD (4 * r) 0, l.getD (4 * r + 1) 0, l.getD (4 * r + 2) 0, l.getD (4 * r + 3) 0⟩
    [y.a, y.b, y.c, y.d]).flatten
/-- Rows and columns exchanged. -/
def transpose4 (l : List Int) : List Int := (List.range 16).map fun i => l.getD (4 * (i % 4) + i / 4) 0
def overCols (f : Quad → Quad) (l : List Int) : List Int := transpose4 (overRows f (transpose4 l))

/-- R251. -/
def negaMask : Nat := 0x2AAAAAAAAAAAAAAAA
def negabinary (v : Int) : Nat := (((v + negaMask) % (2 ^ 66 : Int)).toNat) ^^^ negaMask
def negaValue (u : Nat) : Int := ((u ^^^ negaMask : Nat) : Int) - negaMask

/-- R252: position of each rank. -/
def zOrder : List Nat := [0, 1, 4, 5, 2, 8, 3, 12, 6, 9, 7, 13, 10, 11, 14, 15]
/-- R252: rank of each position. -/
def zRank : List Nat := [0, 1, 4, 6, 2, 3, 8, 10, 5, 9, 12, 13, 7, 11, 14, 15]

/-! ### Bit planes (R253, R254) -/

/-- R253: the group tests of one plane, from n known ranks: the bits put and the new n. -/
def groupTests (u : List Nat) (k : Nat) : Nat → Nat → List Bool × Nat
  | 0, n => ([], n)
  | fuel + 1, n =>
    if n ≥ 16 then ([], n)
    else
      match (List.range (16 - n)).find? fun i => (u.getD (n + i) 0).testBit k with
      | none => ([false], n)
      | some i =>
        -- i ranks with digit 0, then the rank whose digit is 1; the digit of rank 15 is implied
        if n + i == 15 then (true :: List.replicate i false, 16)
        else
          let r := groupTests u k fuel (n + i + 1)
          (true :: (List.replicate i false ++ true :: r.1), r.2)

/-- R253: planes k − 1 down to 0. -/
def planesFrom (u : List Nat) : Nat → Nat → List Bool
  | 0, _ => []
  | k + 1, n =>
    let g := groupTests u k 17 n
    (List.range n).map (fun t => (u.getD t 0).testBit k) ++ g.1 ++ planesFrom u k g.2

/-- R254: the loop of one group: digits of rank n on until a 1; consumed stream, new n, ranks set. -/
def readGroup : Nat → List Bool → Nat → List Bool × Nat × List Nat
  | 0, st, n => (st, n, [])
  | fuel + 1, st, n =>
    if n == 15 then (st, 16, [15])
    else if st.headD false then (st.tail, n + 1, [n])
    else readGroup fuel st.tail (n + 1)

/-- R254: the group tests of one plane. -/
def readGroups : Nat → List Bool → Nat → List Nat → List Bool × Nat × List Nat
  | 0, st, n, acc => (st, n, acc)
  | fuel + 1, st, n, acc =>
    if n ≥ 16 then (st, n, acc)
    else if !st.headD false then (st.tail, n, acc)
    else
      match readGroup 17 st.tail n with
      | (st', n', l) => readGroups fuel st' n' (acc ++ l)

/-- R254: planes k − 1 down to 0; digits are collected as numbers per rank. -/
def readPlanes : Nat → List Bool → Nat → List Nat → List Nat
  | 0, _, _, u => u
  | k + 1, st, n, u =>
    if st.isEmpty then u
    else
      let verb := (List.range n).filter fun t => st.getD t false
      match readGroups 17 (st.drop n) n [] with
      | (st', n', set) =>
        readPlanes k st' n' ((List.range 16).map fun t => u.getD t 0 + (if verb.contains t || set.contains t then 2 ^ k else 0))

/-! ### Blocks -/

def f64Exp (x : DWord) : Nat := (x.extractLsb' 52 11).toNat
def f64Frac (x : DWord) : Nat := (x.extractLsb' 0 52).toNat
def isSpecial (x : DWord) : Bool := f64Exp x == 2047
def isZeroF64 (x : DWord) : Bool := (x &&& 0x7FFFFFFFFFFFFFFF#64) == 0

/-- R250: the exact product truncated towards zero. -/
def scaleIn (em : Nat) (x : DWord) : Int :=
  let e := max (f64Exp x) 1
  let m := f64Frac x + (if f64Exp x == 0 then 0 else 2 ^ 52)
  let n := if e + 9 ≥ em then m * 2 ^ (e + 9 - em) else m / 2 ^ (em - e - 9)
  if x.getLsbD 63 then -(n : Int) else n

/-- R249, R250: the uncut stream of sixteen values. -/
def encodeBits (x : List DWord) : List Bool :=
  if x.all isZeroF64 then [false]
  else if x.any isSpecial then true :: List.replicate 11 true
  else
    let em := x.foldl (fun m v => if isZeroF64 v then m else max m (max (f64Exp v) 1)) 1
    let c := overCols fwd4 (overRows fwd4 (x.map (scaleIn em)))
    let u := zOrder.map fun q => negabinary (c.getD q 0)
    true :: ((List.range 11).map (fun i => em.testBit i) ++ planesFrom u 66 0)

/-- Stream bits as bytes, padded with zeros to n bytes (R249). -/
def packBits : Nat → List Bool → List Byte
  | 0, _ => []
  | n + 1, l => BitVec.ofNat 8 ((List.range 8).foldl (fun a i => a + (if l.getD i false then 2 ^ i else 0)) 0) :: packBits n (l.drop 8)
def unpackBits (l : List Byte) : List Bool := (l.map fun b => (List.range 8).map fun i => b.getLsbD i).flatten

/-- R254: the sixteen values of a stream; none is CODEC_FORMAT. -/
def decodeBits (st : List Bool) : Option (List DWord) :=
  if !st.headD false then some (List.replicate 16 0)
  else
    let em := (List.range 11).foldl (fun a i => a + (if st.getD (i + 1) false then 2 ^ i else 0)) 0
    if em == 0 then none
    else if em == 2047 then some (List.replicate 16 0x7FF8000000000000#64)
    else
      let u := readPlanes 66 (st.drop 12) 0 (List.replicate 16 0)
      let c := zRank.map fun t => negaValue (u.getD t 0)
      let x := overRows inv4 (overCols inv4 c)
      some (x.map fun v => dyToF64 (decide (v < 0)) v.natAbs ((em : Int) - 1084))

/-- A list without its trailing zero bits. -/
def dropTrailing (l : List Bool) : List Bool := (l.reverse.dropWhile (!·)).reverse
def rawBlock (x : List DWord) : List Byte := (x.map fun v => leBytes 8 v.toNat).flatten
def unrawBlock (l : List Byte) : List DWord := (List.range 16).map fun i => BitVec.ofNat 64 (field l (8 * i) 8)

/-- R253: the bytes of a zfixed block of budget b. -/
def encodeFixed (b : Nat) (x : List DWord) : List Byte := packBits (2 * b) ((encodeBits x).take (16 * b))
def decodeFixed (l : List Byte) : Option (List DWord) := decodeBits (unpackBits l)

/-- R255: the map code and slot bytes of a full zrev write; a block that holds a NaN is stored raw. -/
def encodeRev (x : List DWord) : Nat × List Byte :=
  if x.all (· == 0) then (0, [])
  else if x.any fun v => isSpecial v && f64Frac v != 0 then (31, rawBlock x)
  else
    let st := dropTrailing (encodeBits x)
    let units := ceilDiv st.length 64
    let by8 := packBits (8 * units) st
    if st.length < 1024 && decodeBits (unpackBits by8) == some x then (units, by8) else (31, rawBlock x)

/-- R247, R254: the values of a zrev block from its map byte and slot; none is CODEC_FORMAT. -/
def decodeRev (mapByte : Byte) (slot : List Byte) : Option (List DWord) :=
  let code := mapByte.toNat
  if code == 0 then some (List.replicate 16 0)
  else if code ≤ 16 then decodeBits (unpackBits (slot.take (8 * code)))
  else if code == 31 then some (unrawBlock slot)
  else none

/-- R257: the values stored by a block write of y, with its bytes and map code. -/
def codeBlock (r : List DWord) (full : Bool) (y : List DWord) : List Byte × Nat × List DWord :=
  if bufEnc r == 2 then
    let by2 := encodeFixed (bufBudget r) y
    (by2, 0, (decodeFixed by2).getD y)
  else if full then (let z := encodeRev y; (z.2, z.1, y))
  else (rawBlock y, 31, y)

/-- R261: the error of a lossy element, as f64 bits. -/
def elemError (d y : DWord) : DWord :=
  if d == y then 0
  else if isSpecial d || isSpecial y then 0x7FF0000000000000#64
  else absDiffUp d y

/-- R261: the write's error, and whether it is lossy. -/
def writeError (r : List DWord) (j : Nat) (d y : List DWord) : Bool × DWord :=
  ((List.range 16).filter fun i => !isPadding r j i).foldl (fun a i =>
    let di := d.getD i 0
    let yi := y.getD i 0
    let er := elemError di yi
    (a.1 || di != yi, if er.toNat > a.2.toNat then er else a.2)) (false, 0)

end Sys2Proof.Machine
end

