-- ==== Sys2Proof/Machine/Aperture.lean ====
section
/-! DEFINITION. One block of Sumac as memory holds it, its block write and error counters (R247, R254 to R261), and the decompressing
aperture (R424). -/
namespace Sys2Proof.Machine

/-! ### Sumac: one block (R247, R254 to R261) -/

/-- Where a block's bytes, and under zrev its map byte, stand. -/
structure BlockAt where
  key : Nat
  mapKey : Option Nat
  deriving DecidableEq, Repr

/-- R257, R263: the lock of a block is held by a job other than the one with this id. -/
def State.lockedBy (s : State) (i key : Nat) : Bool := s.sumac.any fun j => j.id != i && j.key == key && (j.locked || (j.write && j.out.isSome))
def State.blockLocked (s : State) (key : Nat) : Bool := s.lockedBy 0 key
/-- The current bytes of a block with its map byte. -/
def State.storedBytes (s : State) (r : List DWord) (x : BlockAt) : List Byte :=
  s.bytesAt x.key (blockBytes r) ++ (match x.mapKey with | some m => [s.byteAt m] | none => [])
/-- R247: a zrev block is raw: the code of its map byte is 31. -/
def State.mapRaw (s : State) (m : Nat) : Bool := (s.byteAt m).toNat % 32 == 31
/-- R246, R247: the bytes of a block that a decode reads. -/
def State.readLen (s : State) (r : List DWord) (x : BlockAt) : Nat :=
  match x.mapKey with
  | none => blockBytes r
  | some m => let c := (s.byteAt m).toNat; if c ≤ 16 then 8 * c else if c == 31 then 128 else 0
/-- R254, R259: the decoded values, or the cause of failure. -/
def State.blockValues (s : State) (r : List DWord) (x : BlockAt) : Except Nat (List DWord) :=
  if s.badIn x.key (s.readLen r x) || (match x.mapKey with | some m => s.badIn m 1 | none => false) then .error 21
  else
    match (match x.mapKey with
      | some m => decodeRev (s.byteAt m) (s.bytesAt x.key 128)
      | none => decodeFixed (s.bytesAt x.key (blockBytes r))) with
    | some v => .ok v
    | none => .error 22
/-- R230, R232, R297: what such a read corrects and recalls. -/
def State.blockFix (s : State) (r : List DWord) (x : BlockAt) : State :=
  let t := if s.memGood then s
    else let t := s.memCorrect x.key (s.readLen r x); match x.mapKey with | some m => t.memCorrect m 1 | none => t
  t.recall (x.key / 128 :: x.mapKey.toList.map (· / 128))

/-- R246: the padding of a line, zero, written with the line's last block, which in the last line may come before place P − 1 (log 33). -/
def linePad (r : List DWord) (x : BlockAt) (j : Nat) : List Byte :=
  let n := blockBytes r
  if bufEnc r == 2 && (x.key % 128 + 2 * n > 128 || j + 1 == bufBlocks r) then List.replicate (128 - (x.key % 128 + n)) 0 else []

/-- R245, R257: what a write of block j stores: bytes, map code, the values d it leaves and the values y it was given, padding as +0. -/
def State.blockCode (s : State) (r : List DWord) (x : BlockAt) (j : Nat) (full : Bool) (updates : Sparse DWord) : Except Nat (List Byte × Nat × List DWord × List DWord) :=
  let whole := full && !updates.isEmpty
  match if whole then .ok (List.replicate 16 0) else s.blockValues r x with
  | .error c => .error c
  | .ok base =>
    let y := (List.range 16).map fun i => if isPadding r j i then 0 else if shas updates i then sget 0 updates i else base.getD i 0
    let z := codeBlock r full y
    .ok (z.1 ++ linePad r x j, z.2.1, z.2.2, y)

/-- R257: the lock slice applies a request whole. -/
def State.blockApply (s : State) (own : Option Nat) (x : BlockAt) (l : List Byte) (code : Nat) : State :=
  let cells := cellsAt x.key l ++ (match x.mapKey with | some m => [(m, BitVec.ofNat 8 code)] | none => [])
  s.agentWrite cells own

/-- R261: the counter updates that a block write makes: offset, whether it is the maximum of an f64 or an addition, operand. -/
def counterUpdates (r : List DWord) (j : Nat) (full : Bool) (code : Nat) (d y : List DWord) : List (Nat × Bool × DWord) :=
  let er := writeError r j d y
  (if bufEnc r == 2 && er.1 then [(0, true, er.2), (8, false, 1)] else []) ++ (if full then [] else [(16, false, 1)]) ++
  (if bufEnc r == 3 && code == 31 then [(24, false, 1)] else [])
/-- R261: what an update makes of an element.  The maximum is taken with FZ = 0, whatever the mode of the instruction (log 33). -/
def counterNew (u : Nat × Bool × DWord) (m : DWord) : DWord := if u.2.1 then (fpMinMax (fmtOf 9) false true m u.2.2).1 else m + u.2.2
/-- R261: the updates at a home slice, in host memory too (log 33); each with uncorrectable data is dropped by itself. -/
def State.countersAt (s : State) (own : Option Nat) (key : Nat) (l : List (Nat × Bool × DWord)) : State × Option (Nat × Nat) :=
  l.foldl (fun a u =>
    if a.1.badIn (key + u.1) 8 then (a.1, a.2.or (some (21, 0)))
    else ((a.1.memCorrect (key + u.1) 8).agentWrite (cellsAt (key + u.1) (leBytes 8 (counterNew u (a.1.wordAt (key + u.1))).toNat)) own, a.2)) (s, none)

/-- R427: what names a request to a peer: the wave, its lane, result, launch site and sequence number. -/
structure Asker where
  b : Nat
  w : Nat
  lane : Nat := 0
  res : Nat := 0
  site : DWord
  seq : Word
/-- R427: a request to the peer that an import window's offset reaches. -/
def State.askPeer (s : State) (a : Asker) (kind w o : Nat) (va : DWord) (data : List Byte) : State :=
  { s with
    nextId := s.nextId + 1
    peerReqs := s.peerReqs ++ [{ id := s.nextId, kind := kind, b := a.b, w := a.w, lane := a.lane, res := a.res, dev := (s.import w).dev
                                 pa := (s.import w).peerPa + o, va := va, data := data, site := a.site, seq := a.seq }] }
/-- R427: a read-modify-write of n bytes at a peer: the old value, and the state with what is known of the new one. -/
def State.peerModify (s : State) (w o n : Nat) (f : DWord → DWord) : DWord × State :=
  let z := s.peerRead (s.importKey w o) n
  let m : DWord := BitVec.ofNat 64 (leNat z.1)
  (m, z.2.peerKnow (s.importKey w o) ((leBytes n (f m).toNat).map some))

/-- R177, R339, R427, R430: an engine's atomic add to an n64 counter, at its home slice, or at a peer that has answered; why it cannot be
made. -/
def State.engineAdd (s : State) (die : Nat) (c : Context) (va inc : DWord) (path : Bool) : Except (Nat × Nat) State :=
  match s.translate die c va true false with
  | .error e => .error e
  | .ok x =>
    match flatPage x with
    | some e => .error e
    | none => match s.place x.pa x.host with
      | .peer w o => (match s.peerFate (s.importKey w o) with
        | some e => .error (if e.1 == 21 then (24, 0) else e)
        | none => .ok (s.peerModify w o 8 (· + inc)).2)
      | _ => s.counterAdd c va inc path

/-- R261, R427: the updates at a peer: each is a read-modify-write there, asked for where a wave makes it. -/
def State.countersPeer (s : State) (who : Option Asker) (va : DWord) (w o : Nat) (l : List (Nat × Bool × DWord)) : State :=
  l.foldl (fun s u =>
    let z := (s.peerModify w (o + u.1) 8 (counterNew u)).2
    match who with
    | some a => z.askPeer a 2 w (o + u.1) (va + BitVec.ofNat 64 u.1) (leBytes 8 u.2.2.toNat)
    | none => z) s
/-- R261: the updates at the place an ERRS address has; no counter is at an address that nothing serves. -/
def State.countersGo (s : State) (who : Option Asker) (va : DWord) (l : List (Nat × Bool × DWord)) : Place → State × Option (Nat × Nat)
  | .mem k => s.countersAt (who.map fun a => (s.block a.b).core) k l
  | .peer w o => (s.countersPeer who va w o l, none)
  | _ => (s, some (3, 1))
/-- R261, R427: the counter updates of a record's block write, made for a wave (who) or from outside; why the first that failed did. -/
def State.bumpErrs (s : State) (who : Option Asker) (c : Context) (die : Nat) (r : List DWord) (phys : Bool) (l : List (Nat × Bool × DWord)) :
    State × Option (Nat × Nat) :=
  if bufErrs r == 0 || l.isEmpty then (s, none)
  else if phys then s.countersGo who (bufErrs r) l (s.place (bufErrs r).toNat false)
  else
    match s.translate die c (bufErrs r) true false with
    | .error e => (s, some e)
    | .ok x => match flatPage x with | some e => (s, some e) | none => (s.fillTlb die c (bufErrs r)).countersGo who (bufErrs r) l (s.place x.pa x.host)

/-! ### The decompressing aperture (R424) -/

/-- A window's descriptor as a buffer record over physical addresses. -/
def winRecord (w : List DWord) : List DWord :=
  [w.getD 0 0, (w.getD 1 0) &&& 0x0013FFFFFFFFFFFF#64, ((w.getD 2 0).extractLsb' 48 4).setWidth 64 <<< 24, w.getD 3 0, (w.getD 2 0) &&& 0xFFFFFFFFFFFF#64]
def State.window (s : State) (w : Nat) : List DWord := sget [] s.dev.windows w
/-- R424: an offset that the window serves. -/
def State.windowOk (s : State) (w off n : Nat) : Bool :=
  ((s.window w).getD 1 0).getLsbD 63 && off + n ≤ bufExtent (winRecord (s.window w))
/-- The device physical address of a window's offset. -/
def windowPa (w off : Nat) : Nat := 0xF0 * 2 ^ 48 + w * 2 ^ 40 + off
/-- A physical block of a window. -/
def winBlock (r : List DWord) (j : Nat) : BlockAt :=
  { key := (r.getD 0 0).toNat + blockOffset r j, mapKey := if bufEnc r == 3 then some ((r.getD 0 0).toNat + j) else none }
/-- R378: what INFO holds where a block of a window fails: its encoded address for CODEC_FORMAT, else the access's own. -/
def winInfo (r : List DWord) (j cause : Nat) (va : DWord) : DWord := if cause == 22 then BitVec.ofNat 64 (winBlock r j).key else va
/-- R261: a counter update dropped: a wave's is reported to it, with its launch site; the host's or a peer's is logged. -/
def State.bumpLost (s : State) (who : Option Asker) (w : Nat) (errs : DWord) (x : Nat × Nat) : State :=
  match who with
  | some u => s.report u.b u.w { cause := x.1, sub := x.2, info := errs, site := u.site, seq := u.seq }
  | none => s.collect { type := 9, die := 8, place := 0, time := s.timeOf 8, payload := leBytes 8 errs.toNat ++ leBytes 1 w }

/-- R262, R322: a write of the host or a peer clears the writer of a block's race record. -/
def State.blockRaceClear (s : State) (key : Nat) : State := { s with raceBlk := sset 0 s.raceBlk key (sget 0 s.raceBlk key &&& 0xFF) }

/-- R424: one block write of a window, for a wave with its launch site or from outside: bytes by decoded offset in the block.
A full write decodes nothing (R257). -/
def State.windowBlockWrite (s : State) (who : Option Asker) (w j : Nat) (bytes : List (Nat × Byte)) : Except Nat State :=
  let r := winRecord (s.window w)
  let x := winBlock r j
  let whole := (List.range 16).all fun i => isPadding r j i || (List.range 8).all fun q => bytes.any fun b => b.1 == 8 * i + q
  match if whole then .ok (List.replicate 16 0) else s.blockValues r x with
  | .error c => .error c
  | .ok old =>
    let elems := ((List.range 16).filter fun i => bytes.any fun b => b.1 / 8 == i)
    let up := elems.map fun i =>
      let o := leBytes 8 (old.getD i 0).toNat
      (i, BitVec.ofNat 64 (leNat ((List.range 8).map fun q => ((bytes.reverse.find? fun b => b.1 == 8 * i + q).map fun b => b.2).getD (o.getD q 0))))
    match s.blockCode r x j whole up with
    | .error c => .error c
    | .ok (l, code, d, y) =>
      let t := (if whole then s else s.blockFix r x).blockApply none x l code
      let t1 := if who.isNone then t.blockRaceClear x.key else t
      let z := t1.bumpErrs who noCtx 8 r true (counterUpdates r j whole code d y)
      .ok (match z.2 with | none => z.1 | some f => z.1.bumpLost who w (bufErrs r) f)

/-- R424: bytes written at window offsets, block by block; the blocks that failed with their causes. -/
def State.windowWrite (s : State) (who : Option Asker) (w : Nat) (l : List (Nat × Byte)) : State × List (Nat × Nat) :=
  let r := winRecord (s.window w)
  let at' := fun (o : Nat) => blockOf r (o / 8)
  let blocks := (l.map fun x => (at' x.1).1).foldl (fun a j => if a.contains j then a else a ++ [j]) []
  blocks.foldl (fun a j =>
    match a.1.windowBlockWrite who w j ((l.filter fun x => (at' x.1).1 == j).map fun x => (8 * (at' x.1).2 + x.1 % 8, x.2)) with
    | .ok t => (t, a.2)
    | .error c => (a.1, a.2 ++ [(j, c)])) (s, [])
/-- R424: the decoded element of a window's offset, or the cause of failure with the block. -/
def State.windowElem (s : State) (w off : Nat) : Except (Nat × Nat) DWord :=
  let r := winRecord (s.window w)
  let z := blockOf r (off / 8)
  match s.blockValues r (winBlock r z.1) with
  | .error c => .error (c, z.1)
  | .ok v => .ok (v.getD z.2 0)
/-- R230: what that read corrects. -/
def State.windowFix (s : State) (w off : Nat) : State :=
  let r := winRecord (s.window w)
  s.blockFix r (winBlock r (blockOf r (off / 8)).1)

/-- A block of a window's range is locked by a write of a device wave. -/
def State.windowBusy (s : State) (w : Nat) (offs : List Nat) : Bool :=
  let r := winRecord (s.window w)
  offs.any fun o => s.blockLocked (winBlock r (blockOf r (o / 8)).1).key

end Sys2Proof.Machine
end

