-- ==== Sys2Proof/Machine/Collective.lean ====
section
/-! DEFINITION. The reduction collective (R428 to R430). -/
namespace Sys2Proof.Machine

/-- The exact sum of contributions; none is a NaN result (R430). -/
def exactSum : List Num → Option Num
  | [] => some (.fin false 0 0)
  | [x] => if x.isNan then none else some x
  | x :: t => if x.isNan then none else (match exactSum t with | none => none | some y => addNum 0 x y)

/-- R430: one result element in FMT. -/
def collElem (fmt : Nat) (l : List Word) : DWord :=
  let f := fmtOf fmt
  match exactSum (l.map fun w => unpack f false (w.setWidth 64)) with
  | none => BitVec.ofNat 64 (f.defaultNan false)
  | some y => BitVec.ofNat 64 (pack f 0 false false false y).1

/-- The rows of the open round: the first EXPECT of each member, of which every member registers its own (R428). -/
def Coll.round (c : Coll) (expect : Nat → Nat) (members : List Nat) : Option (List (Nat × Nat × List Word)) :=
  let of' := fun m => (c.rows.filter fun r => r.1 == m).take (expect m)
  if members.all fun m => (of' m).length ≥ expect m then some ((members.map of').flatten) else none

/-- The rows beyond the round. -/
def Coll.rest (c : Coll) (expect : Nat → Nat) (members : List Nat) : List (Nat × Nat × List Word) :=
  (members.map fun m => (c.rows.filter fun r => r.1 == m).drop (expect m)).flatten

/-- R428: EXPECT of a member of collective n: this device's own, or what the peer has registered, at least 1, which is the peer's (log 21). -/
def State.expectOf (s : State) (c : Coll) (n m : Nat) : Nat := if m == s.dev.number then c.expect else max 1 (Config.memberExpect m n)

/-- R430: the bytes of a round's results. -/
def Coll.results (c : Coll) (rows : List (Nat × Nat × List Word)) : List Byte :=
  ((List.range c.nblk).map fun b =>
    let mine := rows.filter fun r => r.2.1 == b
    ((List.range 256).map fun i => leBytes (if c.fmt == 8 then 4 else 2) (collElem c.fmt (mine.map fun r => r.2.2.getD i 0)).toNat).flatten).flatten

/-- R430: a full round writes its results and adds CINC; a fault posts a record and the add is still made. -/
def State.collRound (s : State) (x n : Nat) : State :=
  let cx := s.ctx x
  if !shas cx.colls n then s
  else
    let c := sget { result := 0, nblk := 0, fmt := 0, group := 0, expect := 0, caddr := 0, cinc := 0 } cx.colls n
    let members := sget [] s.dev.groups c.group
    match if members.isEmpty then none else c.round (s.expectOf c n) members with
    | none => s
    | some rows =>
      let s1 := s.modCtx x fun k => { k with colls := k.colls.map fun y => if y.1 == n then (n, { c with rows := c.rest (s.expectOf c n) members }) else y }
      let s2 := match s1.engineStore cx c.result true false (c.results rows) with
        | .ok t => t
        | .error e => s1.post x { cause := e.1, sub := e.2, nowave := true, info := s1.failsAt cx c.result (c.results rows) }
      if c.caddr == 0 then s2
      else
        match s2.engineAdd 8 cx c.caddr c.cinc true with
        | .ok t => t
        | .error e => s2.post x { cause := e.1, sub := e.2, nowave := true, info := c.caddr }

/-- R429, R430: one row delivered by a member. -/
def State.collRow (s : State) (x n memb off : Nat) (row : List Word) : State :=
  if (s.ctx x).colls.any fun y => y.1 == n then
    (s.modCtx x fun k => { k with colls := k.colls.map fun y => if y.1 == n then (n, { y.2 with rows := y.2.rows ++ [(memb, off, row)] }) else y }).collRound x n
  else s

/-- The event: a contribution of another member arrives. -/
def execCollectiveContribution (x coll memb off : Nat) (row : List Word) (s : State) : Host.Outcome State Fault Refusal :=
  .next (s.collRow x coll memb off row)

end Sys2Proof.Machine
end

