-- ==== Sys2Proof/Machine/Operands.lean ====
section
/-! DEFINITION. Operand forms (R12, R24, R28, R39, R40): vector operands of the element type, single registers, and the
lane-by-lane shape of an instruction, of fixed or variable latency. -/
namespace Sys2Proof.Machine

/-- A vector source of the element type's width. -/
def Env.src (e : Env) (r : VReg) : VOp := { r := r.toNat, pair := e.pair }
/-- A vector destination of the element type's width. -/
def Env.dst (e : Env) (r : VReg) : VOp := { r := r.toNat, pair := e.pair, dest := true }
/-- One register, whatever the element type. -/
def one (r : VReg) : VOp := { r := r.toNat }
def oneDst (r : VReg) : VOp := { r := r.toNat, dest := true }

/-- A vector instruction whose destination and sources have the element type's width. -/
def vForm (cls : Nat → Bool) (d : VReg) (src : List VReg) (e : Env) : Form :=
  { pre := need (cls e.et), vs := e.dst d :: src.map e.src, guarded := true }

/-- The value of a source of the element type in a lane. -/
def Env.get (e : Env) (r : VReg) (lane : Nat) : DWord := e.elem e.pair r.toNat lane
/-- Bit[31:0] of one register in a lane. -/
def Env.word (e : Env) (r : VReg) (lane : Nat) : Word := e.wv.vreg r.toNat lane

/-- The effect of a function over the active lanes, into a register or pair (R19, R76). -/
def laneEff (lanes : List Nat) (pair : Bool) (d : Nat) (f : Nat → DWord × BitVec 8) : Eff :=
  lanes.foldl (fun a i => let r := f i; { a with v := a.v ++ words pair d i r.1, flags := a.flags ||| r.2 }) {}

/-- The effect of a condition over the active lanes, into a predicate (R19). -/
def predEff (lanes : List Nat) (act : LaneMask) (pd : PReg) (f : Nat → Bool × BitVec 8) : Eff :=
  lanes.foldl (fun a i => { a with flags := a.flags ||| (f i).2 })
    { p := [(pd.toNat, act, maskOf (lanes.filter fun i => (f i).1))] }

/-- A fixed-latency instruction over the active lanes. -/
def vecBody (pair : Env → Bool) (d : VReg) (f : Env → Nat → DWord × BitVec 8) (e : Env) (t : State) (lat : Nat := 4) : Out :=
  .next (e.write (laneEff e.lanes (pair e) d.toNat (f e)) t lat)

/-- A variable-latency instruction over the active lanes: its values are bound at issue (R25, R28). -/
def varBody (d : VReg) (f : Env → Nat → DWord × BitVec 8) (e : Env) (t : State) : Out :=
  .next (e.outstanding .plain (laneEff e.lanes e.pair d.toNat (f e)) (vbits d.toNat e.pair 1) 0 t)

/-- R42: the conditions of an integer comparison. -/
def ccHolds (cc : Nat) (x y : Int) : Bool :=
  match cc with
  | 0 => x == y
  | 1 => x != y
  | 2 => decide (x < y)
  | 3 => decide (x ≤ y)
  | 4 => decide (x > y)
  | _ => decide (x ≥ y)

end Sys2Proof.Machine
end

