-- ==== Sys2Proof/Machine/Convert.lean ====
section
/-! DEFINITION. Format slots, conversions, block floating point and the conversion stage of the load-store pipeline (R77 to
R86, R126 to R133, R241). -/
namespace Sys2Proof.Machine

/-! ### Format slots (R84 to R86) -/

def slotFmt (x : DWord) : Nat := (x.extractLsb' 0 5).toNat
def slotLen (x : DWord) : Nat := if x.getLsbD 5 then 32 else 16
def slotScale (x : DWord) : Nat := (x.extractLsb' 8 2).toNat
def slotClip (x : DWord) : Bool := x.getLsbD 16
def slotLo (x : DWord) : Num := unpack (fmtOf 11) false ((x.extractLsb' 32 16).setWidth 64)
def slotHi (x : DWord) : Num := unpack (fmtOf 11) false ((x.extractLsb' 48 16).setWidth 64)

/-- R85: a descriptor without a fault of its own. -/
def slotOk (x : DWord) : Bool :=
  (x &&& 0xFFFEFCC0#64) == 0 && slotScale x != 3 && slotFmt x < 24 &&
  (!slotClip x || (!(slotLo x).isNan && !(slotHi x).isNan && !numLt true (slotHi x) (slotLo x)))
/-- R86: the settings of a block format. -/
def slotBfpOk (x : DWord) : Bool := slotFmt x < 17 || (x.getLsbD 5 && slotScale x == 1)

/-- The descriptor of a slot of the launch (R84). -/
def Env.slot (e : Env) (n : SlotNo) : DWord := e.ln.slots.getD n.toNat 0

/-- R86: clipping; −0 lies below +0, infinities clip, NaNs pass. -/
def clipNum (x : DWord) (v : Num) : Num :=
  if !slotClip x || v.isNan then v
  else
    let y := if numLt true v (slotLo x) then slotLo x else v
    if numLt true (slotHi x) y then slotHi x else y

/-! ### Scales and exact quotients (R128, R129) -/

/-- R128: the scale a lane holds; none is NaN. -/
def scaleOf (kind : Nat) (w : Word) : Option Num :=
  if kind == 1 then (match valueOf 16 false (w.setWidth 64) with | .nan _ _ _ => none | x => some x)
  else
    match unpack (fmtOf 8) false (w.setWidth 64) with
    | .fin false (m + 1) p => some (.fin false (m + 1) p)
    | _ => none

/-- The default NaN as a value. -/
def nanNum : Num := .nan false 23 (2 ^ 22)

/-- x / S for a positive finite S: exact where S is a power of two; otherwise cut at 2^−1300 of the unit with a last bit for what
is cut off, which no rounding can tell from the exact quotient. -/
def quotient (x sc : Num) : Num :=
  match x, sc with
  | .fin s m p, .fin _ n q =>
    if m == 0 then .fin s 0 0
    else if n == 2 ^ Nat.log2 n then .fin s m (p - q - Nat.log2 n)
    else .fin s (2 * (m * 2 ^ 1300 / n) + (if m * 2 ^ 1300 % n == 0 then 0 else 1)) (p - q - 1301)
  | x, _ => x

/-- x × S for a positive finite S. -/
def product (x sc : Num) : Num :=
  match x, sc with
  | .fin s m p, .fin _ n q => .fin s (m * n) (p + q)
  | x, _ => x

/-- R129: a value divided or multiplied by a lane's scale. -/
def scaleBy (kind : Nat) (w : Word) (mul : Bool) (x : Num) : Num :=
  if kind == 0 then x
  else
    match scaleOf kind w with
    | none => nanNum
    | some sc => if mul then product x sc else quotient x sc

/-! ### Conversion of a value (R77 to R81, R130) -/

/-- R130: to e8m0.  A NaN that comes from a NaN scale gives 0xFF with NV as any other: R129 lists floating and integer destinations
only (DEDUCED, log 39). -/
def toE8 (rm : Nat) (sat : Bool) : Num → DWord × BitVec 8
  | .nan _ _ _ => (0xFF, fNV)
  | .inf s => if s || !sat then (0xFF, fNV) else (0xFE, fSV)
  | .fin s m p =>
    if s || m == 0 then (0xFF, fNV)
    else
      let e : Int := (Nat.log2 m : Int) + p
      let exact := m == 2 ^ Nat.log2 m
      let up := !exact && (rm == 3 || ((rm == 0 || rm == 4) && 2 * m ≥ 3 * 2 ^ Nat.log2 m))
      let r := if up then e + 1 else e
      if r < -127 then (0, fUF ||| fNX)
      else if r > 127 then
        (if rm == 1 || rm == 2 || rm == 5 then (0xFE, fOF ||| fNX)
         else if sat then (0xFE, fOF ||| fNX ||| fSV) else (0xFF, fOF ||| fNX))
      else (BitVec.ofInt 64 (r + 127), if exact then 0 else fNX)

/-- The integer that a value is, where it is one. -/
def asInt : Num → Option Int
  | .fin s m p =>
    let v : Option Nat := if p ≥ 0 then some (m * 2 ^ p.toNat) else if m % 2 ^ (-p).toNat == 0 then some (m / 2 ^ (-p).toNat) else none
    v.map fun (n : Nat) => if s then -(n : Int) else n
  | _ => none

/-- R77 to R81, R130: a value of type src delivered in type dst. -/
def deliver (src dst rm : Nat) (sat fz : Bool) (v : Num) : DWord × BitVec 8 :=
  if dst == 16 then toE8 rm sat v
  else
    match clsI src && clsI dst, asInt v with
    | true, some n => fitInt dst sat n
    | _, _ => convertTo dst rm sat fz v

/-- The types of `cvt` (R126). -/
def cvtType (t : Nat) : Bool := t ≤ 11 || (14 ≤ t && t ≤ 16)
/-- The narrow types of f32x2 and f16x4 (R126). -/
def narrowType (et t : Nat) : Bool :=
  if et == 12 then t == 10 || t == 11 || t == 4 || t == 5 else et == 13 && (t == 14 || t == 15 || t == 6 || t == 7)

/-- Bits of a narrow element in a 32-bit register (R127). -/
def narrowBits (et : Nat) : Nat := if et == 12 then 16 else 8

/-- R128: vD as the destination, and its even register as a source where it holds the scale. -/
def scaleDst (x : DWord) (r : VReg) (pair : Bool) : List VOp :=
  { r := r.toNat, pair := pair, dest := true } :: (if slotScale x == 0 then [] else [one r])

def execCvt (sw : Bool) (d a : VReg) (slot : SlotNo) (s : State) : Host.Outcome State Fault Refusal :=
  issue sw 4
    (fun e => { pre := need (cvtType e.et && slotOk (e.slot slot) && cvtType (slotFmt (e.slot slot)))
                vs := scaleDst (e.slot slot) d (isPair (slotFmt (e.slot slot))) ++ [e.src a], guarded := true })
    (vecBody (fun e => isPair (slotFmt (e.slot slot))) d fun e i =>
      let x := e.slot slot
      deliver e.et (slotFmt x) e.rm e.sat e.fz (scaleBy (slotScale x) (e.word d i) false (clipNum x (valueOf e.et e.fz (e.get a i))))) s

/-- The elements of a packed pair, converted to narrow elements of one register (R129). -/
def narrowLane (e : Env) (x : DWord) (d a : VReg) (i : Nat) : DWord × BitVec 8 :=
  let p := packing e.et
  let n := narrowBits e.et
  (List.range p.1).foldl (fun r j =>
    let v := valueOf p.2.2 e.fz ((e.elem true a.toNat i >>> (j * p.2.1)) &&& BitVec.ofNat 64 (2 ^ p.2.1 - 1))
    let z := deliver p.2.2 (slotFmt x) e.rm e.sat e.fz (scaleBy (slotScale x) (e.word d i) false (clipNum x v))
    (r.1 ||| ((z.1 &&& BitVec.ofNat 64 (2 ^ n - 1)) <<< (n * j)), r.2 ||| z.2)) (0, 0)

def execCvtn (sw : Bool) (d a : VReg) (slot : SlotNo) (s : State) : Host.Outcome State Fault Refusal :=
  issue sw 4
    (fun e => { pre := need (slotOk (e.slot slot) && narrowType e.et (slotFmt (e.slot slot)))
                vs := scaleDst (e.slot slot) d false ++ [{ r := a.toNat, pair := true }], guarded := true })
    (vecBody (fun _ => false) d fun e i => narrowLane e (e.slot slot) d a i) s

/-- `cvtw` for one lane: one element, or the narrow elements of a register widened into a pair (R129). -/
def widenLane (e : Env) (x : DWord) (d a : VReg) (i : Nat) : DWord × BitVec 8 :=
  let p := packing e.et
  if p.1 == 1 then
    deliver (slotFmt x) e.et e.rm e.sat e.fz (scaleBy (slotScale x) (e.word d i) true (valueOf (slotFmt x) e.fz (e.elem (isPair (slotFmt x)) a.toNat i)))
  else
    let n := narrowBits e.et
    (List.range p.1).foldl (fun r j =>
      let v := valueOf (slotFmt x) e.fz (((e.word a i).setWidth 64 >>> (n * j)) &&& BitVec.ofNat 64 (2 ^ n - 1))
      let z := deliver (slotFmt x) p.2.2 e.rm e.sat e.fz (scaleBy (slotScale x) (e.word d i) true v)
      (r.1 ||| (z.1 <<< (p.2.1 * j)), r.2 ||| z.2)) (0, 0)

def execCvtw (sw : Bool) (d a : VReg) (slot : SlotNo) (s : State) : Host.Outcome State Fault Refusal :=
  issue sw 4
    (fun e =>
      let t := slotFmt (e.slot slot)
      { pre := need (slotOk (e.slot slot) && ((cvtType e.et && cvtType t) || narrowType e.et t))
        vs := scaleDst (e.slot slot) d e.pair ++ [{ r := a.toNat, pair := cvtType e.et && isPair t }], guarded := true })
    (vecBody Env.pair d fun e i => widenLane e (e.slot slot) d a i) s

/-! ### Shared scales (R131) -/

/-- floor(log2) of a format's largest finite magnitude. -/
def topExp (t : Nat) : Int :=
  if t ≥ 17 then -1
  else if clsI t then (if intSigned t then (intBits t : Int) - 2 else (intBits t : Int) - 1)
  else if t == 10 || t == 15 then 15 else if t == 14 then 8 else if t == 9 then 1023 else 127

/-- floor(log2) of the largest magnitude of a list; none where all are zero. -/
def maxExp : List Num → Option Int
  | [] => none
  | .fin _ m p :: t =>
    if m == 0 then maxExp t else (match maxExp t with | none => some ((Nat.log2 m : Int) + p) | some y => some (max ((Nat.log2 m : Int) + p) y))
  | _ :: t => maxExp t

/-- The largest finite magnitude of a floating type, as a value. -/
def largestFin (f : Fmt) (s : Bool) : Num := unpack f false (BitVec.ofNat 64 (f.maxFinite s))

/-- R83 steps 1 and 2, R131: none is a NaN block; otherwise the finite values and SV for a replaced infinity. -/
def finiteValues (f : Fmt) (sat : Bool) (l : List Num) : Option (List Num) × BitVec 8 :=
  let inf := fun (x : Num) => match x with | .inf _ => true | _ => false
  if l.any fun x => x.isNan || (inf x && !sat) then (none, if l.any Num.signalling then fNV else 0)
  else (some (l.map fun x => match x with | .inf s => largestFin f s | x => x), if l.any inf then fSV else 0)

/-- R131: S of one group. -/
def groupScale (f : Fmt) (kind fmt : Nat) (sat : Bool) (l : List Num) : Word × BitVec 8 :=
  match finiteValues f sat l with
  | (none, fl) => (if kind == 1 then 0xFF else 0x7FC00000, fl)
  | (some v, fl) =>
    match maxExp v with
    | none => (if kind == 1 then 0 else 0x3F800000, fl)
    | some e =>
      let x := e - topExp fmt
      if kind == 1 then (BitVec.ofInt 32 (max 0 (min 254 (x + 127))), fl)
      else
        let y := max (-149) (min 127 x)
        (if y ≥ -126 then BitVec.ofNat 32 ((y + 127).toNat * 2 ^ 23) else BitVec.ofNat 32 (2 ^ (y + 149).toNat), fl)

/-- The elements of a lane as values (R68). -/
def Env.laneValues (e : Env) (fz : Bool) (a : VReg) (i : Nat) : List Num :=
  let p := packing e.et
  (List.range p.1).map fun j => valueOf p.2.2 fz ((e.get a i >>> (j * p.2.1)) &&& BitVec.ofNat 64 (2 ^ p.2.1 - 1))

/-- R131; FZ is ignored for a bfp format, as R83 says of the quantising that `mxsc` shares (DEDUCED, log 39). -/
def mxscEff (e : Env) (x : DWord) (d a : VReg) : Eff :=
  let per := slotLen x / (packing e.et).1
  (List.range (1024 / per)).foldl (fun f g =>
    let mine := e.lanes.filter fun i => i / per == g
    if mine.isEmpty then f
    else
      let r := groupScale (fmtOf (packing e.et).2.2) (slotScale x) (slotFmt x) e.sat
        ((mine.map fun i => (e.laneValues (e.fz && slotFmt x < 17) a i).map (clipNum x)).flatten)
      { f with v := f.v ++ mine.map fun i => (d.toNat * 1024 + i, r.1), flags := f.flags ||| r.2 }) {}

/-- R126: the formats that `mxsc` accepts. -/
def mxscType (t : Nat) : Bool := t ≤ 11 || t == 14 || t == 15 || (17 ≤ t && t ≤ 23)

def execMxsc (sw : Bool) (d a : VReg) (slot : SlotNo) (s : State) : Host.Outcome State Fault Refusal :=
  issue sw 4
    (fun e =>
      let x := e.slot slot
      { pre := need (clsF e.et && slotOk x && mxscType (slotFmt x) && slotScale x != 0 && slotBfpOk x)
        vs := [oneDst d, e.src a], guarded := true })
    (fun e t => .next (e.write (mxscEff e (e.slot slot) d a) t)) s

/-! ### Block floating point (R82, R83, R132, R133) -/

/-- R83: E, the mantissas and the flags. -/
def quantise (f : Fmt) (w rm : Nat) (sat : Bool) (l : List Num) : Nat × List Int × BitVec 8 :=
  match finiteValues f sat l with
  | (none, fl) => (255, l.map fun _ => 0, fl)
  | (some v, fl) =>
    match maxExp v with
    | none => (0, v.map fun _ => 0, fl)
    | some e =>
      let ex := (max 0 (min 254 (e + 128))).toNat
      let lim : Int := 2 ^ (w - 1)
      let one := fun (x : Num) => match x with
        | .fin s m p =>
          let r := roundAt rm s m (p + w - 1 - ex + 127) 0 false
          let y : Int := if s then -(r.1 : Int) else r.1
          let c := if y > lim - 1 then lim - 1 else if y < -lim then -lim else y
          (c, (if c == y then (0 : BitVec 8) else fSV) ||| (if r.2 || c != y then fNX else 0))
        | _ => ((0 : Int), (0 : BitVec 8))
      let z := v.map one
      (ex, z.map (·.1), z.foldl (fun a x => a ||| x.2) fl)

/-- R82: the mantissa image as a number. -/
def mantissaImage (w : Nat) (l : List Int) : Nat :=
  ((List.range l.length).zip l).foldl (fun a x => a + (x.2 % (2 ^ w : Int)).toNat * 2 ^ (x.1 * w)) 0
/-- R82: mantissa i of an image. -/
def mantissaAt (w img i : Nat) : Int := sextBits w (img / 2 ^ (i * w) % 2 ^ w)
where
  /-- Two's complement of w bits. -/
  sextBits (w n : Nat) : Int := if n ≥ 2 ^ (w - 1) then (n : Int) - 2 ^ w else n
/-- R82: an element's value; E = 255 is a NaN block. -/
def bfpValue (w ex : Nat) (m : Int) : Num :=
  if ex == 255 then nanNum else .fin (decide (m < 0)) m.natAbs ((ex : Int) - 127 - (w - 1 : Nat))

/-- Mask words with an active lane. -/
def activeWords (e : Env) : List Nat := (List.range 32).filter fun m => e.lanes.any fun i => i / 32 == m

def bpackEff (e : Env) (x : DWord) (d a : VReg) : Eff :=
  let w := slotFmt x - 15
  (activeWords e).foldl (fun f m =>
    let q := quantise (fmtOf e.et) w e.rm e.sat ((span (32 * m) 32).map fun i =>
      if e.act.getLsbD i && i < e.ln.lanes then clipNum x (valueOf e.et false (e.get a i)) else .fin false 0 0)
    let img := mantissaImage w q.2.1
    let ws := ((List.range w).map fun j => (32 * m + j, BitVec.ofNat 32 (img / 2 ^ (32 * j)))) ++ [(32 * m + w, BitVec.ofNat 32 q.1)]
    { f with v := f.v ++ (ws.filter fun y => y.1 < e.ln.lanes).map fun y => (d.toNat * 1024 + y.1, y.2), flags := f.flags ||| q.2.2 }) {}

def bfpSlot (e : Env) (slot : SlotNo) : Bool :=
  clsScalarF e.et && slotOk (e.slot slot) && 17 ≤ slotFmt (e.slot slot) && slotBfpOk (e.slot slot)
where
  /-- f16, bf16, f32 and f64. -/
  clsScalarF (t : Nat) : Bool := 8 ≤ t && t ≤ 11

def execBpack (sw : Bool) (d a : VReg) (slot : SlotNo) (s : State) : Host.Outcome State Fault Refusal :=
  issue sw 4 (fun e => { pre := need (bfpSlot e slot), vs := [oneDst d, e.src a], guarded := true })
    (fun e t => .next (e.write (bpackEff e (e.slot slot) d a) t)) s

/-- R133: the lanes whose words of vA are read: image and exponent of each mask word with an active lane, active or not. -/
def imageLanes (e : Env) (w : Nat) : LaneMask :=
  maskOf (((activeWords e).map fun m => span (32 * m) (w + 1)).flatten.filter fun i => i < e.ln.lanes)

def execBunpk (sw : Bool) (d a : VReg) (slot : SlotNo) (s : State) : Host.Outcome State Fault Refusal :=
  issue sw 4 (fun e => { pre := need (bfpSlot e slot), vs := [e.dst d, { one a with lanes := some (imageLanes e (slotFmt (e.slot slot) - 15)) }], guarded := true })
    (vecBody Env.pair d fun e i =>
      let w := slotFmt (e.slot slot) - 15
      let base := i / 32 * 32
      let at' := fun (j : Nat) => if base + j < e.ln.lanes then (e.word a (base + j)).toNat else 0
      let img := (List.range w).foldl (fun n j => n + at' j * 2 ^ (32 * j)) 0
      convertTo e.et e.rm e.sat e.fz (bfpValue w (at' w % 256) (mantissaAt w img (i % 32)))) s

/-! ### The conversion stage (R241) -/

/-- The scale of a record: 1.0 where the field is 0. -/
def recScale (r : List DWord) : Option Num := if bufScale r == 0 then none else scaleOf 2 (bufScale r)

/-- R241: a memory element of type MFMT to a register value of type RFMT. -/
def convLoad (r : List DWord) (rm : Nat) (sat fz : Bool) (x : DWord) : DWord × BitVec 8 :=
  let v := valueOf (bufMfmt r) fz x
  match recScale r with
  | none => deliver (bufMfmt r) (bufRfmt r) rm sat fz v
  | some sc =>
    if sc == .fin false (2 ^ 23) (-23) then deliver (bufMfmt r) (bufRfmt r) rm sat fz v
    else if bufRfmt r == 16 then toE8 rm sat (product v sc) else convertTo (bufRfmt r) rm sat fz (product v sc)
/-- R241: a register value of type RFMT to a memory element of type MFMT. -/
def convStore (r : List DWord) (rm : Nat) (sat fz : Bool) (x : DWord) : DWord × BitVec 8 :=
  let v := valueOf (bufRfmt r) fz x
  match recScale r with
  | none => deliver (bufRfmt r) (bufMfmt r) rm sat fz v
  | some sc =>
    if sc == .fin false (2 ^ 23) (-23) then deliver (bufRfmt r) (bufMfmt r) rm sat fz v
    else if bufMfmt r == 16 then toE8 rm sat (quotient v sc) else convertTo (bufMfmt r) rm sat fz (quotient v sc)

end Sys2Proof.Machine
end

