-- ==== Sys2Proof/Machine/Faults.lean ====
section
/-! DEFINITION. Results that arrive, reported faults, and the traps an arm takes at an instruction boundary (R27, R43, R379, R380). -/
namespace Sys2Proof.Machine

/-- R427: how a request to a peer fails: on a link that is down without a response, else, at a free choice, with an error response; none: it
is done. -/
def State.peerError (s : State) (q : PeerReq) : Option (Nat × Nat) :=
  if s.linkDown q.dev then some (if q.kind == 2 then 24 else 21, 0)
  else if s.pick (16384 + q.id) % 3 == 0 then some (3, 1) else if s.pick (16384 + q.id) % 3 == 1 then some (3, 3) else none
/-- R427: a request that failed is reported to its wave, and what is known of the peer's bytes is no longer sure. -/
def State.peerFailed (s : State) (q : PeerReq) (x : Nat × Nat) : State :=
  (if q.kind == 0 then s else s.peerKnow (peerKey q.dev q.pa) (List.replicate (if q.data.isEmpty then 8 else q.data.length) none)).report q.b q.w
    { cause := x.1, sub := x.2, info := q.va, site := q.site, seq := q.seq }


/-- R27, R76, R189: the result with this id is written, where its value is bound. -/
def execResultWrite (b w i : Nat) (s : State) : Host.Outcome State Fault Refusal :=
  match (s.wave b w).outst.find? fun r => r.id == i with
  | none => .next s
  | some r =>
    let fin := (s.feedLoads b [r]).modWave b w fun v => ({ v.apply (r.eff.live v.exited) with outst := v.outst.filter fun q => q.id != i }).unpark
    match r.kind with
    | .plain => .next fin
    | .scratch => .next fin
    | .received => .next fin
    | .peer _ =>
      let asked := s.peerReqs.filter fun q => q.res == i
      let bad := asked.filter fun q => (s.peerError q).isSome
      let kept : Eff := { r.eff with v := r.eff.v.filter fun x => !bad.any fun q => q.lane == x.1 % 1024, k := if bad.isEmpty then r.eff.k else [] }
      let t := (s.feedLoads b [r]).modWave b w fun v => ({ v.apply (kept.live v.exited) with outst := v.outst.filter fun q => q.id != i }).unpark
      .next { bad.foldl (fun t q => t.peerFailed q ((s.peerError q).getD (3, 1))) t with
        peerReqs := s.peerReqs.filter fun q => q.res != i }
    | _ => .next s

/-- R379: the i-th report reaches its wave's core. -/
def execDeferredFaultReport (i : Nat) (s : State) : Host.Outcome State Fault Refusal :=
  match s.reports[i]? with
  | none => .next s
  | some r => .next (State.deliver { s with reports := dropAt s.reports i } r)

/-- R379, R380: the oldest pending deferred fault is taken by the arm at its boundary, once its results are in. -/
def State.takeDeferred (s : State) (u : Cursor) : State :=
  match (s.wave u.b u.w).pend with
  | [] => s
  | d :: _ =>
    s.enterTrap u { cause := d.cause, sub := d.sub, deferred := true, halts := false, pc := (s.arm u).pc, info := d.info, atWord := 0
                    site := d.site, seq := some d.seq }

def execTakeDeferredFault (s : State) : Host.Outcome State Fault Refusal :=
  match s.cur with
  | none => .next s
  | some u =>
    let v := s.wave u.b u.w
    if v.halted || v.done || v.pend.isEmpty || (v.arm u.armB).st != .ready then .next s else .next (s.takeDeferred u)

/-- R43: the word at the issuing arm's pc is no instruction. -/
def execIllegalInstructionWord (s : State) : Host.Outcome State Fault Refusal :=
  match s.cur with
  | none => .fault .noIssuingArm
  | some u => .next (s.takeTrap u 4 illegal)

end Sys2Proof.Machine
end

