-- ==== Sys2Proof/Machine/Approx.lean ====
section
/-! DEFINITION. The approximating functions (R121 to R124): the exact cases exactly, and otherwise one of the results within
the bound of R121 and R123 of the true value, which one being a free choice of the part (log 4).  True values are found in fixed point, far
below an ulp. -/
namespace Sys2Proof.Machine

/-- ln 2 and π in units of 2^−240. -/
def ln2Fix : Nat := 1224685061431752149387114016819916847747660333428801675508466606222838698
def piFix : Nat := 5550713758724461735233077129787137796835226094488409880962709825408003150
def fixBits : Nat := 240

/-- Terms of a series: the j-th from the (j−1)-th by multiplying x (fixed point) and dividing by step j; alternating where alt. -/
def seriesSum (x : Nat) (step : Nat → Nat) (alt : Bool) : Nat → Nat → Nat → Bool → Int
  | 0, _, _, _ => 0
  | n + 1, j, term, neg =>
    let next := term * x / 2 ^ fixBits / step j
    (if neg then -(term : Int) else term) + seriesSum x step alt n (j + 1) next (if alt then !neg else neg)

/-- 2^f for 0 ≤ f < 1, in fixed point. -/
def exp2Fix (f : Nat) : Nat := (seriesSum (f * ln2Fix / 2 ^ fixBits) (fun j => j + 1) false 70 0 (2 ^ fixBits) false).toNat
/-- sin(πr) / r for 0 ≤ r ≤ 1/4, in fixed point. -/
def sinOver (r : Nat) : Nat :=
  let y := r * piFix / 2 ^ fixBits
  (seriesSum (y * y / 2 ^ fixBits) (fun j => (2 * j + 2) * (2 * j + 3)) true 40 0 piFix false).toNat
/-- cos(πr) for 0 ≤ r ≤ 1/4, in fixed point. -/
def cosFix (r : Nat) : Nat :=
  let y := r * piFix / 2 ^ fixBits
  (seriesSum (y * y / 2 ^ fixBits) (fun j => (2 * j + 1) * (2 * j + 2)) true 40 0 (2 ^ fixBits) false).toNat
/-- The binary digits of log2 of x, 1 ≤ x < 2 in units of 2^−400, by repeated squaring. -/
def log2Digits : Nat → Nat → Nat → Nat
  | 0, _, acc => acc
  | n + 1, x, acc =>
    let y := x * x / 2 ^ 400
    if y ≥ 2 ^ 401 then log2Digits n (y / 2) (2 * acc + 1) else log2Digits n y (2 * acc)

/-- The magnitude of an encoding (infinity as the number behind the largest finite one) in units of 2^p. -/
def magnitude (f : Fmt) (p : Int) (c : Nat) : Nat :=
  if c < 2 ^ f.fw then c * 2 ^ (1 - (f.bias : Int) - f.fw - p).toNat
  else (2 ^ f.fw + c % 2 ^ f.fw) * 2 ^ (((c / 2 ^ f.fw : Nat) : Int) - f.bias - f.fw - p).toNat

/-- The encodings whose magnitude lies within the bound of a true value: m × 2^p where exact, else more than that and less than
(m + 1) × 2^p. -/
def allowed (f : Fmt) (ulps : Nat) (exact : Bool) (m : Nat) (p : Int) : List Nat :=
  let lo := (roundFin f 1 false false false false m p true).1
  let m' := m * 2 ^ 80
  let p' := p - 80
  let bound := ulps * 2 ^ (max ((Nat.log2 m : Int) + p) (1 - (f.bias : Int)) - f.fw - p').toNat
  ((List.range 8).filterMap fun i => if lo + i < 4 then none else some (lo + i - 4)).filter fun c =>
    let v := magnitude f p' c
    c ≤ f.infinity false && (if v > m' then v - m' ≤ bound else if exact then m' - v ≤ bound else m' - v < bound)

/-- A result within the bound of a true value, chosen freely among the allowed ones, with the sign of the true value; ulps is the
bound.  Under FZ = 1 a true value of at least the smallest normal has a normal result, for the flush would leave the bound.  Whether a
result lies below the smallest normal (UF, the flush of R72) is judged on the delivered encoding (log 4). -/
def within (f : Fmt) (fz : Bool) (ulps choice : Nat) (exact s : Bool) (m : Nat) (p : Int) : DWord × BitVec 8 :=
  let l := (allowed f ulps exact m p).filter fun c => !(fz && 1 - (f.bias : Int) ≤ (Nat.log2 m : Int) + p) || 2 ^ f.fw ≤ c
  let r := if (Nat.log2 m : Int) + p > f.bias then f.infinity false else l.getD (choice % l.length) (f.infinity false)
  if r == f.infinity false then (BitVec.ofNat 64 (f.infinity s), fOF ||| fNX)
  else if r < 2 ^ f.fw then (if fz then (BitVec.ofNat 64 (signBit f s), fUF ||| fNX) else (BitVec.ofNat 64 (signBit f s + r), fUF ||| fNX))
  else (BitVec.ofNat 64 (signBit f s + r), fNX)

/-- The bound of R123: 2 ulp for f64 and f32 in the transcendental functions, 1 ulp otherwise. -/
def ulpBound (f : Fmt) : Nat := if f.fw ≥ 23 then 2 else 1

/-- The exponent k where a finite value is 2^k. -/
def pow2Of (m : Nat) (p : Int) : Option Int := if m == 2 ^ Nat.log2 m then some ((Nat.log2 m : Int) + p) else none
def exactOf (f : Fmt) (s : Bool) (m : Nat) (p : Int) : DWord × BitVec 8 :=
  if m == 0 then (BitVec.ofNat 64 (signBit f s), 0) else (let z := roundFin f 0 false false false s m p false; (BitVec.ofNat 64 z.1, z.2))

/-- R121: 1/x. -/
def fpRcp (f : Fmt) (et : Nat) (fz : Bool) (x : DWord) : DWord × BitVec 8 :=
  let c := Config.approxChoice 0 et fz x
  match unpack f fz x with
  | .fin s m p =>
    if m == 0 then (BitVec.ofNat 64 (f.infinity s), fDZ)
    else
      match (if fz then none else pow2Of m p) with
      | some k => exactOf f s 1 (-k)
      | none => within f fz 1 c (pow2Of m p).isSome s (2 ^ 160 / m) (-p - 160)
  | .inf s => (BitVec.ofNat 64 (signBit f s), 0)
  | a => finishOp f 0 fz [a] false none

/-- R121: 1/√x. -/
def fpRsq (f : Fmt) (et : Nat) (fz : Bool) (x : DWord) : DWord × BitVec 8 :=
  let c := Config.approxChoice 1 et fz x
  match unpack f fz x with
  | .fin s m p =>
    if m == 0 then (BitVec.ofNat 64 (f.infinity s), fDZ)
    else if s then finishOp f 0 fz [] false none
    else
      let odd := p % 2 != 0
      let m' := if odd then 2 * m else m
      let p' := if odd then p - 1 else p
      let far := within f fz 1 c ((pow2Of m p).any fun k => k % 2 == 0) false (isqrt (2 ^ 320 / m') 170 0) (-(p' / 2) - 160)
      (match (if fz then none else pow2Of m p) with
       | some k => if k % 2 == 0 then exactOf f false 1 (-(k / 2)) else far
       | none => far)
  | .inf s => if s then finishOp f 0 fz [] false none else (0, 0)
  | a => finishOp f 0 fz [a] false none

/-- The integer part and the fixed-point fraction of a finite value, rounded down. -/
def splitFix (s : Bool) (m : Nat) (p : Int) : Int × Nat :=
  let v : Int := if p ≥ -240 then (m * 2 ^ (p + 240).toNat : Nat) else ((m / 2 ^ (-240 - p).toNat + (if s then 1 else 0) : Nat) : Int)
  let w := if s then -v else v
  (w / 2 ^ 240, (w % 2 ^ 240).toNat)

/-- R122, R124: 2^x. -/
def fpEx2 (f : Fmt) (et : Nat) (fz : Bool) (x : DWord) : DWord × BitVec 8 :=
  let c := Config.approxChoice 2 et fz x
  match unpack f fz x with
  | .fin s m p =>
    if m == 0 then exactOf f false 1 0
    else if (Nat.log2 m : Int) + p ≥ 12 then
      (if s then within f fz (ulpBound f) c false false 1 (-5000) else (BitVec.ofNat 64 (f.infinity false), fOF ||| fNX))
    else
      let n := splitFix s m p
      if p ≥ 0 || m % 2 ^ (-p).toNat == 0 then
        (if 1 - (f.bias : Int) ≤ n.1 then exactOf f false 1 n.1 else within f fz (ulpBound f) c true false 1 n.1)
      else within f fz (ulpBound f) c false false (exp2Fix n.2) (n.1 - 240)
  | .inf s => if s then (0, 0) else (BitVec.ofNat 64 (f.infinity false), 0)
  | a => finishOp f 0 fz [a] false none

/-- R122, R124: log2 x. -/
def fpLg2 (f : Fmt) (et : Nat) (fz : Bool) (x : DWord) : DWord × BitVec 8 :=
  let c := Config.approxChoice 3 et fz x
  match unpack f fz x with
  | .fin s m p =>
    if m == 0 then (BitVec.ofNat 64 (f.infinity true), fDZ)
    else if s then finishOp f 0 fz [] false none
    else
      let k : Int := (Nat.log2 m : Int) + p
      match pow2Of m p with
      | some _ => exactOf f (decide (k < 0)) k.natAbs 0
      | none =>
        let v : Int := k * 2 ^ 180 + log2Digits 180 (m * 2 ^ (400 - Nat.log2 m)) 0
        within f fz (ulpBound f) c false (decide (v < 0)) v.natAbs (-180)
  | .inf s => if s then finishOp f 0 fz [] false none else (BitVec.ofNat 64 (f.infinity false), 0)
  | a => finishOp f 0 fz [a] false none

/-- sin(πy) for y in [0, 1/2], given exactly as n × 2^q: magnitude as a number and a power. -/
def sinPi (n : Nat) (q : Int) (r : Nat) : Nat × Int :=
  if r ≤ 2 ^ 238 then (n * sinOver r, q - 240) else (min (cosFix (2 ^ 239 - r)) (2 ^ 240 - 1), -240)

/-- R122, R124: sin(πx) or cos(πx). -/
def fpSinCos (cos : Bool) (f : Fmt) (et : Nat) (fz : Bool) (x : DWord) : DWord × BitVec 8 :=
  let c := Config.approxChoice (if cos then 5 else 4) et fz x
  match unpack f fz x with
  | .fin s m p =>
    -- |x| in units of 2^q, q at most −1; two half-turns are 2^(1−q) units
    let q : Int := min p (-1)
    let one := 2 ^ (-q).toNat
    let n := m * 2 ^ (p - q).toNat % (2 * one)
    if 2 * n % one == 0 then
      -- a multiple of one half
      let j := 2 * n / one
      (match cos, j with
       | true, 0 => exactOf f false 1 0
       | true, 2 => exactOf f true 1 0
       | true, _ => (0, 0)
       | false, 1 => exactOf f s 1 0
       | false, 3 => exactOf f (!s) 1 0
       | false, _ => (BitVec.ofNat 64 (signBit f s), 0))
    else
      -- cos(πx) = sin(π(1/2 + |x|)); then reduce to [0, 1/2]
      let a := if cos then (n + one / 2) % (2 * one) else n
      let neg := a ≥ one
      let b := a % one
      let d := if 2 * b > one then one - b else b
      let r := if q ≥ -240 then d * 2 ^ (q + 240).toNat else d / 2 ^ (-240 - q).toNat
      let z := sinPi d q r
      within f fz (ulpBound f) c false (if cos then neg else (neg != s)) z.1 z.2
  | .inf _ => finishOp f 0 fz [] false none
  | a => finishOp f 0 fz [a] false none

end Sys2Proof.Machine
end

