-- ==== Sys2Proof/Machine/Float.lean ====
section
/-! DEFINITION. Floating-point instructions (R112 to R125), element by element over packed types (R68). -/
namespace Sys2Proof.Machine

/-- The list of f16, bf16, f32 and f64 (R112). -/
def clsScalarF (et : Nat) : Bool := 8 ≤ et && et ≤ 11

/-- A floating instruction over the elements of its sources. -/
def Env.fp (e : Env) (src : List VReg) (f : Fmt → List DWord → DWord × BitVec 8) (lane : Nat) : DWord × BitVec 8 :=
  overElems e.et f (src.map fun r => e.get r lane)

/-- A fixed-latency floating instruction. -/
def fpOp (sw : Bool) (d : VReg) (src : List VReg) (f : Env → Fmt → List DWord → DWord × BitVec 8) (s : State) :
    Host.Outcome State Fault Refusal :=
  issue sw 4 (vForm clsF d src) (vecBody Env.pair d fun e i => e.fp src (f e) i) s
/-- A variable-latency floating instruction. -/
def fpVar (sw : Bool) (d : VReg) (src : List VReg) (f : Env → Fmt → List DWord → DWord × BitVec 8) (s : State) :
    Host.Outcome State Fault Refusal :=
  issue sw 4 (vForm clsF d src) (varBody d fun e i => e.fp src (f e) i) s

/-- Operands by position. -/
def op0 (l : List DWord) : DWord := l.getD 0 0
def op1 (l : List DWord) : DWord := l.getD 1 0
def op2 (l : List DWord) : DWord := l.getD 2 0

def execFadd (sw : Bool) (d a b : VReg) (s : State) : Host.Outcome State Fault Refusal :=
  fpOp sw d [a, b] (fun e f l => fpAdd f e.rm e.fz false (op0 l) (op1 l)) s
def execFsub (sw : Bool) (d a b : VReg) (s : State) : Host.Outcome State Fault Refusal :=
  fpOp sw d [a, b] (fun e f l => fpAdd f e.rm e.fz true (op0 l) (op1 l)) s
def execFmul (sw : Bool) (d a b : VReg) (s : State) : Host.Outcome State Fault Refusal :=
  fpOp sw d [a, b] (fun e f l => fpMul f e.rm e.fz (op0 l) (op1 l)) s
/-- The fused forms: negate the product, negate the addend. -/
def fused (sw : Bool) (negP negD : Bool) (d a b : VReg) (s : State) : Host.Outcome State Fault Refusal :=
  fpOp sw d [a, b, d] (fun e f l => fpFma f e.rm e.fz negP negD (op0 l) (op1 l) (op2 l)) s
def execFma (sw : Bool) (d a b : VReg) (s : State) : Host.Outcome State Fault Refusal := fused sw false false d a b s
def execFms (sw : Bool) (d a b : VReg) (s : State) : Host.Outcome State Fault Refusal := fused sw false true d a b s
def execFnma (sw : Bool) (d a b : VReg) (s : State) : Host.Outcome State Fault Refusal := fused sw true false d a b s
def execFnms (sw : Bool) (d a b : VReg) (s : State) : Host.Outcome State Fault Refusal := fused sw true true d a b s

/-- R116. -/
def execFmin (sw : Bool) (d a b : VReg) (s : State) : Host.Outcome State Fault Refusal :=
  fpOp sw d [a, b] (fun e f l => fpMinMax f e.fz false (op0 l) (op1 l)) s
def execFmax (sw : Bool) (d a b : VReg) (s : State) : Host.Outcome State Fault Refusal :=
  fpOp sw d [a, b] (fun e f l => fpMinMax f e.fz true (op0 l) (op1 l)) s
/-- R117. -/
def execFabs (sw : Bool) (d a : VReg) (s : State) : Host.Outcome State Fault Refusal :=
  fpOp sw d [a] (fun _ f l => fpSign f 0 (op0 l) 0) s
def execFneg (sw : Bool) (d a : VReg) (s : State) : Host.Outcome State Fault Refusal :=
  fpOp sw d [a] (fun _ f l => fpSign f 1 (op0 l) 0) s
def execFsgn (sw : Bool) (d a b : VReg) (s : State) : Host.Outcome State Fault Refusal :=
  fpOp sw d [a, b] (fun _ f l => fpSign f 2 (op0 l) (op1 l)) s
/-- R118. -/
def execFcmp (sw : Bool) (cc : BitVec 5) (pd : PReg) (a b : VReg) (s : State) : Host.Outcome State Fault Refusal :=
  issue sw 4 (fun e => { pre := need (clsScalarF e.et), vs := [e.src a, e.src b], ps := [pd.toNat], guarded := true })
    (fun e t => .next (e.write (predEff e.lanes e.act pd fun i => fpCmp (fmtOf e.et) e.fz cc.toNat (e.get a i) (e.get b i)) t)) s
/-- R119: one register under every type. -/
def execFclass (sw : Bool) (d a : VReg) (s : State) : Host.Outcome State Fault Refusal :=
  issue sw 4 (fun e => { pre := need (clsScalarF e.et), vs := [oneDst d, e.src a], guarded := true })
    (vecBody (fun _ => false) d fun e i => (BitVec.ofNat 64 (fpClass (fmtOf e.et) (e.get a i)), 0)) s
/-- R121. -/
def execFrcp (sw : Bool) (d a : VReg) (s : State) : Host.Outcome State Fault Refusal :=
  fpVar sw d [a] (fun e f l => fpRcp f e.et e.fz (op0 l)) s
def execFrsq (sw : Bool) (d a : VReg) (s : State) : Host.Outcome State Fault Refusal :=
  fpVar sw d [a] (fun e f l => fpRsq f e.et e.fz (op0 l)) s
/-- R120. -/
def execFsqrt (sw : Bool) (d a : VReg) (s : State) : Host.Outcome State Fault Refusal :=
  fpVar sw d [a] (fun e f l => fpSqrt f e.rm e.fz (op0 l)) s
def execFdiv (sw : Bool) (d a b : VReg) (s : State) : Host.Outcome State Fault Refusal :=
  fpVar sw d [a, b] (fun e f l => fpDiv f e.rm e.fz (op0 l) (op1 l)) s
/-- R122 to R124. -/
def execFex2 (sw : Bool) (d a : VReg) (s : State) : Host.Outcome State Fault Refusal :=
  fpVar sw d [a] (fun e f l => fpEx2 f e.et e.fz (op0 l)) s
def execFlg2 (sw : Bool) (d a : VReg) (s : State) : Host.Outcome State Fault Refusal :=
  fpVar sw d [a] (fun e f l => fpLg2 f e.et e.fz (op0 l)) s
def execFsin (sw : Bool) (d a : VReg) (s : State) : Host.Outcome State Fault Refusal :=
  fpVar sw d [a] (fun e f l => fpSinCos false f e.et e.fz (op0 l)) s
def execFcos (sw : Bool) (d a : VReg) (s : State) : Host.Outcome State Fault Refusal :=
  fpVar sw d [a] (fun e f l => fpSinCos true f e.et e.fz (op0 l)) s
/-- R125. -/
def execFrnd (sw : Bool) (d a : VReg) (s : State) : Host.Outcome State Fault Refusal :=
  fpOp sw d [a] (fun e f l => fpRnd f e.rm e.fz (op0 l)) s

end Sys2Proof.Machine
end

