-- ==== Sys2Proof/Machine/Integer.lean ====
section
/-! DEFINITION. Integer instructions, moves and addresses (R90 to R111). -/
namespace Sys2Proof.Machine

/-! ### Values and patterns -/

/-- The exact value of an integer source in a lane (R63). -/
def Env.int (e : Env) (r : VReg) (lane : Nat) : Int := intVal e.et (e.get r lane)
/-- The w-bit pattern of an integer source in a lane. -/
def Env.pat (e : Env) (r : VReg) (lane : Nat) : Nat := (e.get r lane).toNat % 2 ^ intBits e.et
/-- R93: an I32 immediate read under ET. -/
def immVal (et : Nat) (imm : Word) : Int := intVal et (imm.signExtend 64)
/-- A value put into the type without a flag (R64). -/
def put (et : Nat) (v : Int) : DWord × BitVec 8 := (intReg et v, 0)

/-- R96: one fit of an exact integer. -/
def Env.fit (e : Env) (v : Int) : DWord × BitVec 8 := fitInt e.et e.sat v

/-- An integer instruction of fixed latency, its destination and sources of the element type. -/
def intOp (sw : Bool) (len : Nat) (d : VReg) (src : List VReg) (f : Env → Nat → DWord × BitVec 8) (s : State) (lat : Nat := 4) :
    Host.Outcome State Fault Refusal :=
  issue sw len (vForm clsI d src) (fun e t => vecBody Env.pair d f e t lat) s

/-! ### Add, subtract, multiply (R96 to R98) -/

def execAdd (sw : Bool) (d a b : VReg) (s : State) : Host.Outcome State Fault Refusal :=
  intOp sw 4 d [a, b] (fun e i => e.fit (e.int a i + e.int b i)) s 2
def execSub (sw : Bool) (d a b : VReg) (s : State) : Host.Outcome State Fault Refusal :=
  intOp sw 4 d [a, b] (fun e i => e.fit (e.int a i - e.int b i)) s 2
def execMul (sw : Bool) (d a b : VReg) (s : State) : Host.Outcome State Fault Refusal :=
  intOp sw 4 d [a, b] (fun e i => e.fit (e.int a i * e.int b i)) s
/-- R97. -/
def execMulhi (sw : Bool) (d a b : VReg) (s : State) : Host.Outcome State Fault Refusal :=
  intOp sw 4 d [a, b] (fun e i => put e.et (e.int a i * e.int b i / 2 ^ intBits e.et)) s
def execMad (sw : Bool) (d a b : VReg) (s : State) : Host.Outcome State Fault Refusal :=
  intOp sw 4 d [a, b, d] (fun e i => e.fit (e.int a i * e.int b i + e.int d i)) s
def execAbs (sw : Bool) (d a : VReg) (s : State) : Host.Outcome State Fault Refusal :=
  intOp sw 4 d [a] (fun e i => e.fit (if e.int a i < 0 then -(e.int a i) else e.int a i)) s 2
def execNeg (sw : Bool) (d a : VReg) (s : State) : Host.Outcome State Fault Refusal :=
  intOp sw 4 d [a] (fun e i => e.fit (0 - e.int a i)) s 2
def execAddi (sw : Bool) (d a : VReg) (imm : Word) (s : State) : Host.Outcome State Fault Refusal :=
  intOp sw 8 d [a] (fun e i => e.fit (e.int a i + immVal e.et imm)) s 2
def execSubi (sw : Bool) (d a : VReg) (imm : Word) (s : State) : Host.Outcome State Fault Refusal :=
  intOp sw 8 d [a] (fun e i => e.fit (e.int a i - immVal e.et imm)) s 2
/-- R98: once for the wave. -/
def execAddk (sw : Bool) (kd ka kb : KReg) (s : State) : Host.Outcome State Fault Refusal :=
  issue sw 4 (kForm [kd, ka, kb]) (fun e t => .next (e.write { k := [(kd.toNat, e.k ka + e.k kb)] } t)) s

/-! ### Division (R94, R99) -/

/-- R99: the quotient; Int.tdiv truncates towards zero. -/
def intDiv (et : Nat) (sat : Bool) (a b : Int) : DWord × BitVec 8 :=
  if b == 0 then (intReg et (-1), if a == 0 then fNV else fDZ) else fitInt et sat (a.tdiv b)
/-- R99: the remainder, with the sign of a. -/
def intRem (et : Nat) (a b : Int) : DWord × BitVec 8 :=
  if b == 0 then (intReg et a, if a == 0 then fNV else fDZ) else (intReg et (a.tmod b), 0)

def execDiv (sw : Bool) (d a b : VReg) (s : State) : Host.Outcome State Fault Refusal :=
  issue sw 4 (vForm clsI d [a, b]) (varBody d fun e i => intDiv e.et e.sat (e.int a i) (e.int b i)) s
def execRem (sw : Bool) (d a b : VReg) (s : State) : Host.Outcome State Fault Refusal :=
  issue sw 4 (vForm clsI d [a, b]) (varBody d fun e i => intRem e.et (e.int a i) (e.int b i)) s

/-! ### Minimum, maximum and logic (R101, R102) -/

def execMin (sw : Bool) (d a b : VReg) (s : State) : Host.Outcome State Fault Refusal :=
  intOp sw 4 d [a, b] (fun e i => put e.et (Min.min (e.int a i) (e.int b i))) s
def execMax (sw : Bool) (d a b : VReg) (s : State) : Host.Outcome State Fault Refusal :=
  intOp sw 4 d [a, b] (fun e i => put e.et (Max.max (e.int a i) (e.int b i))) s
def execAnd (sw : Bool) (d a b : VReg) (s : State) : Host.Outcome State Fault Refusal :=
  intOp sw 4 d [a, b] (fun e i => put e.et (e.get a i &&& e.get b i).toNat) s
def execOr (sw : Bool) (d a b : VReg) (s : State) : Host.Outcome State Fault Refusal :=
  intOp sw 4 d [a, b] (fun e i => put e.et (e.get a i ||| e.get b i).toNat) s
def execXor (sw : Bool) (d a b : VReg) (s : State) : Host.Outcome State Fault Refusal :=
  intOp sw 4 d [a, b] (fun e i => put e.et (e.get a i ^^^ e.get b i).toNat) s
def execAndn (sw : Bool) (d a b : VReg) (s : State) : Host.Outcome State Fault Refusal :=
  intOp sw 4 d [a, b] (fun e i => put e.et (e.get a i &&& ~~~(e.get b i)).toNat) s
def execNot (sw : Bool) (d a : VReg) (s : State) : Host.Outcome State Fault Refusal :=
  intOp sw 4 d [a] (fun e i => put e.et (~~~(e.get a i)).toNat) s

/-! ### Shifts and rotates (R103): x a w-bit pattern, c the count -/

def shiftL (w x c : Nat) : Nat := if c ≥ w then 0 else x * 2 ^ c % 2 ^ w
def shiftR (w x c : Nat) : Nat := if c ≥ w then 0 else x / 2 ^ c
def shiftA (w x c : Nat) : Nat :=
  let neg := x ≥ 2 ^ (w - 1)
  if c ≥ w then (if neg then 2 ^ w - 1 else 0) else x / 2 ^ c + (if neg then 2 ^ w - 2 ^ (w - c) else 0)
def rotL (w x c : Nat) : Nat := if c % w == 0 then x else x * 2 ^ (c % w) % 2 ^ w + x / 2 ^ (w - c % w)
def rotR (w x c : Nat) : Nat := if c % w == 0 then x else rotL w x (w - c % w)

/-- A shift whose count is bit[31:0] of one register. -/
def shiftOp (sw : Bool) (d a b : VReg) (f : Nat → Nat → Nat → Nat) (s : State) : Host.Outcome State Fault Refusal :=
  issue sw 4 (fun e => let g := vForm clsI d [a] e; { g with vs := g.vs ++ [one b] })
    (vecBody Env.pair d fun e i => put e.et (f (intBits e.et) (e.pat a i) (e.word b i).toNat)) s
/-- A shift by an immediate count. -/
def shiftImm (sw : Bool) (d a : VReg) (n : BitVec 6) (f : Nat → Nat → Nat → Nat) (s : State) : Host.Outcome State Fault Refusal :=
  intOp sw 4 d [a] (fun e i => put e.et (f (intBits e.et) (e.pat a i) n.toNat)) s

def execShl (sw : Bool) (d a b : VReg) (s : State) : Host.Outcome State Fault Refusal := shiftOp sw d a b shiftL s
def execShr (sw : Bool) (d a b : VReg) (s : State) : Host.Outcome State Fault Refusal := shiftOp sw d a b shiftR s
def execSar (sw : Bool) (d a b : VReg) (s : State) : Host.Outcome State Fault Refusal := shiftOp sw d a b shiftA s
def execRol (sw : Bool) (d a b : VReg) (s : State) : Host.Outcome State Fault Refusal := shiftOp sw d a b rotL s
def execRor (sw : Bool) (d a b : VReg) (s : State) : Host.Outcome State Fault Refusal := shiftOp sw d a b rotR s
def execShli (sw : Bool) (d a : VReg) (n : BitVec 6) (s : State) : Host.Outcome State Fault Refusal := shiftImm sw d a n shiftL s
def execShri (sw : Bool) (d a : VReg) (n : BitVec 6) (s : State) : Host.Outcome State Fault Refusal := shiftImm sw d a n shiftR s
def execSari (sw : Bool) (d a : VReg) (n : BitVec 6) (s : State) : Host.Outcome State Fault Refusal := shiftImm sw d a n shiftA s

/-! ### Bit fields, extension and counts (R104 to R106) -/

/-- The value of an n-bit pattern in two's complement; 0 bits read 0. -/
def sextInt (n x : Nat) : Int := if n > 0 && x ≥ 2 ^ (n - 1) then (x : Int) - 2 ^ n else x

def bitExtract (et : Nat) (v : Int) (pos len : Nat) : Int :=
  let f := (v / 2 ^ pos % (2 ^ len : Int)).toNat
  if intSigned et && len > 0 then sextInt len f else f
def bitInsert (w base x pos len : Nat) : Nat :=
  let m := (2 ^ len - 1) * 2 ^ pos % 2 ^ w
  (base &&& (2 ^ w - 1 - m)) + (x * 2 ^ pos &&& m)

def execBfx (sw : Bool) (d a : VReg) (pos len : BitVec 6) (s : State) : Host.Outcome State Fault Refusal :=
  intOp sw 8 d [a] (fun e i => put e.et (bitExtract e.et (e.int a i) pos.toNat len.toNat)) s
def execBfi (sw : Bool) (d a : VReg) (pos len : BitVec 6) (s : State) : Host.Outcome State Fault Refusal :=
  intOp sw 8 d [a, d] (fun e i => put e.et (bitInsert (intBits e.et) (e.pat d i) (e.pat a i) pos.toNat len.toNat)) s
/-- R105. -/
def execSext (sw : Bool) (d a : VReg) (n : BitVec 8) (s : State) : Host.Outcome State Fault Refusal :=
  intOp sw 4 d [a] (fun e i =>
    put e.et (if n.toNat ≥ intBits e.et then (e.pat a i : Int) else sextInt n.toNat (e.pat a i % 2 ^ n.toNat))) s
def execZext (sw : Bool) (d a : VReg) (n : BitVec 8) (s : State) : Host.Outcome State Fault Refusal :=
  intOp sw 4 d [a] (fun e i => put e.et (if n.toNat ≥ intBits e.et then e.pat a i else e.pat a i % 2 ^ n.toNat)) s

def bitCount (w x : Nat) : Nat := ((List.range w).filter fun i => x.testBit i).length
def leadZeros (w x : Nat) : Nat := if x == 0 then w else w - 1 - Nat.log2 x
def trailZeros (w x : Nat) : Nat := ((List.range w).find? fun i => x.testBit i).getD w
def bitReverse (w x : Nat) : Nat := (List.range w).foldl (fun a i => a + (if x.testBit (w - 1 - i) then 2 ^ i else 0)) 0

/-- R106. -/
def execPopc (sw : Bool) (d a : VReg) (s : State) : Host.Outcome State Fault Refusal :=
  intOp sw 4 d [a] (fun e i => put e.et (bitCount (intBits e.et) (e.pat a i))) s
def execClz (sw : Bool) (d a : VReg) (s : State) : Host.Outcome State Fault Refusal :=
  intOp sw 4 d [a] (fun e i => put e.et (leadZeros (intBits e.et) (e.pat a i))) s
def execCtz (sw : Bool) (d a : VReg) (s : State) : Host.Outcome State Fault Refusal :=
  intOp sw 4 d [a] (fun e i => put e.et (trailZeros (intBits e.et) (e.pat a i))) s
def execBrev (sw : Bool) (d a : VReg) (s : State) : Host.Outcome State Fault Refusal :=
  intOp sw 4 d [a] (fun e i => put e.et (bitReverse (intBits e.et) (e.pat a i))) s

/-! ### Carry chains (R100) -/

/-- A carry-chain instruction: f of the patterns and the carry in gives the sum and the carry out. -/
def carryOp (sw : Bool) (d a b : VReg) (p : PReg) (f : Nat → Nat → Nat → Nat → Nat × Bool) (s : State) :
    Host.Outcome State Fault Refusal :=
  issue sw 8 (fun e => { vForm clsI d [a, b] e with ps := [p.toNat] })
    (fun e t =>
      let r := fun (i : Nat) => f (intBits e.et) (e.pat a i) (e.pat b i) (if (e.wv.preg p.toNat).getLsbD i then 1 else 0)
      .next (e.write { laneEff e.lanes e.pair d.toNat (fun i => put e.et (r i).1) with
                       p := (predEff e.lanes e.act p fun i => ((r i).2, 0)).p } t)) s

def execAddc (sw : Bool) (d a b : VReg) (p : PReg) (s : State) : Host.Outcome State Fault Refusal :=
  carryOp sw d a b p (fun w x y c => (x + y + c, decide (x + y + c ≥ 2 ^ w))) s
def execSubb (sw : Bool) (d a b : VReg) (p : PReg) (s : State) : Host.Outcome State Fault Refusal :=
  carryOp sw d a b p (fun w x y c => (x + 2 * 2 ^ w - y - c, decide (x < y + c))) s

/-! ### Compare and select (R107, R108) -/

def execCmp (sw : Bool) (cc : BitVec 5) (pd : PReg) (a b : VReg) (s : State) : Host.Outcome State Fault Refusal :=
  issue sw 4 (fun e => { pre := need (clsI e.et), vs := [e.src a, e.src b], ps := [pd.toNat], guarded := true })
    (fun e t => .next (e.write (predEff e.lanes e.act pd fun i => (ccHolds cc.toNat (e.int a i) (e.int b i), 0)) t)) s
def execCmpi (sw : Bool) (cc : BitVec 5) (pd : PReg) (a : VReg) (imm : Word) (s : State) : Host.Outcome State Fault Refusal :=
  issue sw 8 (fun e => { pre := need (clsI e.et), vs := [e.src a], ps := [pd.toNat], guarded := true })
    (fun e t => .next (e.write (predEff e.lanes e.act pd fun i => (ccHolds cc.toNat (e.int a i) (immVal e.et imm), 0)) t)) s
def execSel (sw : Bool) (d a b : VReg) (q : QPred) (s : State) : Host.Outcome State Fault Refusal :=
  issue sw 8 (fun e => { vForm clsW d [a, b] e with ps := [q.p.toNat] })
    (vecBody Env.pair d fun e i => (if (e.q q).getLsbD i then e.get a i else e.get b i, 0)) s

/-! ### Moves and addresses (R109, R110) -/

def execMov (sw : Bool) (d a : VReg) (s : State) : Host.Outcome State Fault Refusal :=
  issue sw 4 (vForm clsW d [a]) (vecBody Env.pair d fun e i => (e.get a i, 0)) s
def execMovImm (sw : Bool) (d : VReg) (imm : Word) (s : State) : Host.Outcome State Fault Refusal :=
  issue sw 8 (vForm clsW d []) (vecBody Env.pair d fun _ _ => (imm.signExtend 64, 0)) s
def execMovk (sw : Bool) (d : VReg) (ka : KReg) (s : State) : Host.Outcome State Fault Refusal :=
  issue sw 4 (fun e => { vForm clsW d [] e with ks := [ka.toNat] }) (vecBody Env.pair d fun e _ => (e.k ka, 0)) s
def execMovkk (sw : Bool) (kd : KReg) (imm : DWord) (s : State) : Host.Outcome State Fault Refusal :=
  issue sw 12 (kForm [kd]) (fun e t => .next (e.write { k := [(kd.toNat, imm)] } t)) s

/-- The address of a flat form: kA + sext(vB, 32) (R110, R144). -/
def Env.flat (e : Env) (ka : KReg) (b : VReg) (lane : Nat) : DWord := e.k ka + (e.word b lane).signExtend 64

def execLea (sw : Bool) (d : VReg) (ka : KReg) (b : VReg) (s : State) : Host.Outcome State Fault Refusal :=
  issue sw 4 (fun _ => { vs := [{ r := d.toNat, pair := true, dest := true }, one b], ks := [ka.toNat], guarded := true })
    (vecBody (fun _ => true) d fun e i => (e.flat ka b i, 0)) s

end Sys2Proof.Machine
end

