-- ==== Sys2Proof/Machine/Cardamom.lean ====
section
/-! DEFINITION. Cardamom (R348 to R364): timestamps, graph images, path summaries, counts, frontiers, batches and credits. -/
namespace Sys2Proof.Machine

/-! ### Timestamps (R348, R349) -/

def NONE : DWord := 0xFFFFFFFFFFFFFFFF#64
/-- The timestamp of four counters, each below 65,536. -/
def mkTs (a b c d : Nat) : DWord := BitVec.ofNat 64 (a * 2 ^ 48 + b * 2 ^ 32 + c * 2 ^ 16 + d)
/-- R348: valid at depth d. -/
def validAt (d : Nat) (t : DWord) : Bool := (List.range 4).all (fun i => i ≤ d || ctr t i == 0) && t != NONE
/-- R349: a set of timestamps passes t. -/
def passes (f : List DWord) (t : DWord) : Bool := !f.any fun x => tsLe x t
/-- The minimal elements of a set, in increasing 64-bit order, without repeats. -/
def insertTs (t : DWord) : List DWord → List DWord
  | [] => [t]
  | u :: r => if t == u then u :: r else if t.toNat < u.toNat then t :: u :: r else u :: insertTs t r
def minimal (l : List DWord) : List DWord :=
  let m := l.filter fun t => !l.any fun u => u != t && tsLe u t
  m.foldl (fun r t => insertTs t r) []
/-- R359: the counterwise minimum of a set. -/
def meet (l : List DWord) : DWord :=
  let m := fun i => l.foldl (fun x t => min x (ctr t i)) 65535
  mkTs (m 0) (m 1) (m 2) (m 3)
/-- R359: the announced form of a frontier, with OVF. -/
def announce (l : List DWord) : List DWord × Bool := if l.length > 8 then ([meet l], true) else (l, false)

/-! ### Summaries (R352) -/

def idSummary : Summary := ⟨(false, 0), (false, 0), (false, 0), (false, 0)⟩
def Summary.at (s : Summary) (i : Nat) : Bool × Nat := if i == 0 then s.c0 else if i == 1 then s.c1 else if i == 2 then s.c2 else s.c3
def Summary.ofFn (f : Nat → Bool × Nat) : Summary := ⟨f 0, f 1, f 2, f 3⟩
/-- First x, then y. -/
def Summary.comp (x y : Summary) : Summary :=
  .ofFn fun i => if (y.at i).1 then y.at i else ((x.at i).1, (x.at i).2 + (y.at i).2)
/-- Counter i of the image of a timestamp, unbounded. -/
def Summary.ctrOf (s : Summary) (t : DWord) (i : Nat) : Nat := (if (s.at i).1 then 0 else ctr t i) + (s.at i).2
/-- R352: each counter saturates inside a frontier computation. -/
def Summary.sat (s : Summary) (t : DWord) : DWord :=
  mkTs (min 65535 (s.ctrOf t 0)) (min 65535 (s.ctrOf t 1)) (min 65535 (s.ctrOf t 2)) (min 65535 (s.ctrOf t 3))
/-- R352: the image, where every counter fits. -/
def Summary.exact (s : Summary) (t : DWord) : Option DWord :=
  if (List.range 4).all fun i => s.ctrOf t i ≤ 65535 then some (mkTs (s.ctrOf t 0) (s.ctrOf t 1) (s.ctrOf t 2) (s.ctrOf t 3)) else none
/-- Pointwise order over every timestamp valid at depth d. -/
def Summary.le (d : Nat) (x y : Summary) : Bool :=
  (List.range 4).all fun i =>
    if (x.at i).1 || i > d then ((y.at i).1 || i > d || true) && (x.at i).2 ≤ (y.at i).2
    else !(y.at i).1 && (x.at i).2 ≤ (y.at i).2
/-- R351: leaves every timestamp valid at depth d unchanged. -/
def Summary.identityAt (d : Nat) (x : Summary) : Bool := (List.range 4).all fun i => (x.at i).2 == 0 && (!(x.at i).1 || i > d)

/-- R352: an edge's summary. -/
def edgeSummary (srcDepth : Nat) (e : Edge) : Summary :=
  if e.kind == 0 then idSummary
  else if e.kind == 1 then .ofFn fun i => (i == srcDepth, 0)
  else .ofFn fun i => (false, ctr e.vec i)

/-- A set of summaries reduced to its minimal ones. -/
def addSummary (d : Nat) (l : List Summary) (x : Summary) : List Summary :=
  if l.any fun y => y.le d x then l else l.filter (fun y => !x.le d y) ++ [x]

def depthOf (ports : List Port) (p : Nat) : Nat := ((ports.getD p ⟨0, 0, 0, 0, 0⟩).depth)

/-- One relaxation of S(p, ·) over every edge. -/
def relax (ports : List Port) (edges : List Edge) (p : Nat) (row : List (List Summary)) : List (List Summary) :=
  edges.foldl (fun row e =>
    upd row e.dst fun l => ((row.getD e.src []).map fun x => x.comp (edgeSummary (depthOf ports e.src) e)).foldl (addSummary (depthOf ports p)) l) row

def relaxN (ports : List Port) (edges : List Edge) (p : Nat) : Nat → List (List Summary) → List (List Summary)
  | 0, row => row
  | n + 1, row => let r := relax ports edges p row; if r == row then row else relaxN ports edges p n r

/-- R352: S(p, q) for every q. -/
def summariesFrom (ports : List Port) (edges : List Edge) (p : Nat) : List (List Summary) :=
  relaxN ports edges p (4 * ports.length + 4) (upd (ports.map fun _ => []) p fun _ => [idSummary])

/-- R351: some cycle leaves every timestamp unchanged: an edge whose summary, followed by a path back, is the identity. -/
def identityCycle (ports : List Port) (edges : List Edge) (sums : List (List (List Summary))) : Bool :=
  edges.any fun e => (((sums.getD e.dst []).getD e.src [])).any fun x => ((edgeSummary (depthOf ports e.src) e).comp x).identityAt (depthOf ports e.src)

/-- R350, R351: the limits of a graph's edges. -/
def edgeOk (ports : List Port) (e : Edge) : Bool :=
  e.src < ports.length && e.dst < ports.length && e.kind ≤ 2 &&
  (if e.kind == 0 then depthOf ports e.dst == depthOf ports e.src + 1 && e.vec == 0
   else if e.kind == 1 then depthOf ports e.src == depthOf ports e.dst + 1 && e.vec == 0
   else depthOf ports e.src == depthOf ports e.dst && validAt (depthOf ports e.src) e.vec)

/-! ### Counts and frontiers (R353, R359, R360) -/

def Graph.port (g : Graph) (q : Nat) : Port := g.ports.getD q ⟨0, 0, 0, 0, 0⟩
def Graph.edge (g : Graph) (c : Nat) : Edge := g.edges.getD c ⟨0, 0, 0, 0⟩
def State.graph (s : State) (g : Nat) : Graph :=
  s.graphs.getD g { ctx := 0, num := 0, image := 0, ports := [], edges := [], front := 0, xring := 0, xlog2n := 0, sums := [], counts := [], extCaps := [], ann := [] }

def countOf (l : List (Nat × DWord × Nat)) (p : Nat) (t : DWord) : Nat := ((l.find? fun x => x.1 == p && x.2.1 == t).map fun x => x.2.2).getD 0
/-- R353: a count changed; it never falls below zero, and a zero count is not listed. -/
def countAdd (l : List (Nat × DWord × Nat)) (p : Nat) (t : DWord) (d : Int) : List (Nat × DWord × Nat) :=
  let n := ((countOf l p t : Int) + d).toNat
  let rest := l.filter fun x => !(x.1 == p && x.2.1 == t)
  if n == 0 then rest else (p, t, n) :: rest

/-- R359: the full frontier of a port; an image that saturates to NONE is none that can be announced (R348), and no time that can occur. -/
def Graph.frontier (g : Graph) (q : Nat) : List DWord :=
  minimal (((g.counts.map fun x => (((g.sums.getD x.1 []).getD q []).map fun m => m.sat x.2.1)).flatten).filter (· != NONE))

/-- What a port's word shows: its own frontier, or the declared one of a shared graph (R432). -/
def Graph.shown (g : Graph) (q : Nat) : List DWord × Bool :=
  if g.group.isSome then
    let d := g.declared.getD q ([], false)
    ((announce d.1).1, d.2 || (announce d.1).2)
  else announce (g.frontier q)

/-- R360: ports whose words differ from what they should show. -/
def Graph.markDirty (g : Graph) : Graph :=
  { g with dirty := (List.range g.ports.length).filter fun q =>
      match g.ann.getD q ([], false, 0) with
      | (l, o, _) => (l, o) != g.shown q }

/-- R360: the 128 bytes of a frontier word. -/
def frontierBytes (gen : Nat) (l : List DWord) (ovf : Bool) : List Byte :=
  leBytes 8 gen ++ [BitVec.ofNat 8 l.length, if ovf then 1 else 0] ++ leBytes 6 0 ++
  ((List.range 8).map fun i => leBytes 8 (l.getD i NONE).toNat).flatten ++ leBytes 48 0

/-- R360: the words of one port written; a failure posts a record, and the word stays as it is. -/
def State.writeFrontier (s : State) (g q : Nat) : State :=
  let h := s.graph g
  match h.ann.getD q ([], false, 0) with
  | (_, _, gen) =>
    let shown := h.shown q
    let t := s.modGraph g fun h => { h with dirty := h.dirty.filter (· != q) }
    let va := h.front + BitVec.ofNat 64 (128 * q)
    match t.engineStore (t.ctx h.ctx) va true true (frontierBytes (gen + 1) shown.1 shown.2) with
    | .ok u => u.modGraph g fun h => { h with ann := upd h.ann q fun _ => (shown.1, shown.2, gen + 1) }
    | .error e => t.post h.ctx { cause := e.1, sub := e.2, nowave := true, info := va }

/-! ### Batches (R356, R357) -/

/-- R356: deltas join the open batch of their core and graph. -/
def State.addDeltas (s : State) (core g : Nat) (l : List Delta) : State :=
  if l.isEmpty then s
  else if s.openBatches.any fun x => x.core == core && x.graph == g then
    { s with openBatches := s.openBatches.map fun x => if x.core == core && x.graph == g then { x with deltas := x.deltas ++ l } else x }
  else { s with openBatches := s.openBatches ++ [{ core := core, graph := g, deltas := l }] }

/-- A list cut into pieces of at most 64. -/
def chunks64 {α : Type} : Nat → List α → List (List α)
  | 0, _ => []
  | n + 1, l => if l.isEmpty then [] else l.take 64 :: chunks64 n (l.drop 64)

/-- R356: the open batch of a core and graph is closed and sent, at most 64 deltas in each. -/
def State.closeBatch (s : State) (core g : Nat) : State :=
  match s.openBatches.find? fun x => x.core == core && x.graph == g with
  | none => s
  | some x =>
    { s with
      openBatches := s.openBatches.filter fun x => !(x.core == core && x.graph == g)
      closedBatches := s.closedBatches ++ (chunks64 (x.deltas.length + 1) x.deltas).map fun d => { x with deltas := d } }

/-- R356: every open batch of a core is closed. -/
def State.closeBatches (s : State) (core : Nat) : State :=
  (s.openBatches.filter fun x => x.core == core).foldl (fun t x => t.closeBatch core x.graph) s

/-- R357: pointstamps in Cardamom's table. -/
def State.pointstamps (s : State) : Nat := (s.graphs.map fun g => g.counts.length).foldl (· + ·) 0
/-- R357: the counts after a batch. -/
def applyDeltas (c : List (Nat × DWord × Nat)) (l : List Delta) : List (Nat × DWord × Nat) :=
  l.foldl (fun c d => countAdd c d.port d.ts d.add) c
/-- R357: the batch fits the table of 1,048,576 pointstamps. -/
def State.batchFits (s : State) (x : Batch) : Bool :=
  s.pointstamps + (applyDeltas (s.graph x.graph).counts x.deltas).length ≤ 1048576 + (s.graph x.graph).counts.length
/-- R357: the core's batches wait for room. -/
def State.stalled (s : State) (core : Nat) : Bool :=
  match s.closedBatches.find? fun x => x.core == core with
  | none => false
  | some x => !s.batchFits x

/-- The first element that f accepts removed from a list. -/
def eraseFirst {α : Type} (f : α → Bool) : List α → List α
  | [] => []
  | x :: t => if f x then t else x :: eraseFirst f t

/-- R357, R358, R359: the oldest closed batch of a core is applied whole, its entries may become visible, frontiers follow. -/
def State.applyBatch (s : State) (core : Nat) : State :=
  match s.closedBatches.find? fun x => x.core == core with
  | none => s
  | some x =>
    if !s.batchFits x then s
    else
      let ids := x.deltas.filterMap fun d => d.entry
      ({ s with
        closedBatches := eraseFirst (fun y => y.core == core) s.closedBatches
        entries := s.entries.map fun (e : Entry) => if ids.contains e.id then { e with applied := true } else e }).modGraph x.graph
        fun h => Graph.markDirty { h with counts := applyDeltas h.counts x.deltas }

/-! ### Consumers and inboxes (R361 to R363) -/

/-- Bytes of an inbox entry or landing slot. -/
def Port.entryBytes (p : Port) : Nat := 16 + 16 * p.plen
/-- Ring entries E. -/
def Port.ring (p : Port) : Nat := 2 ^ p.log2e

/-- R361: the block's consumer index. -/
def State.consumerIndex (s : State) (b : Nat) : Nat :=
  let k := s.block b
  (s.gang k.launch k.gang).number * 16 + k.index

/-- R361: the block's inbox of a port, while it is a consumer: from its placement until it completes. -/
def Block.inbox (k : Block) (q : Nat) : Option Inbox := k.inboxes.find? fun i => i.port == q
def Block.modInbox (k : Block) (q : Nat) (f : Inbox → Inbox) : Block :=
  { k with inboxes := k.inboxes.map fun i => if i.port == q then f i else i }

/-- R361: blocks of the bound launch that are consumers of a port, by increasing consumer index. -/
def State.consumers (s : State) (g q : Nat) : List Nat :=
  match (s.graph g).bound with
  | none => []
  | some l =>
    let bs := (List.range s.blocks.length).filter fun b =>
      (s.block b).launch == l && (s.block b).st != .done && ((s.block b).inbox q).isSome
    (bs.foldl (fun (r : List Nat) b => r.filter (fun c => s.consumerIndex c < s.consumerIndex b) ++ b :: r.filter fun c => !decide (s.consumerIndex c < s.consumerIndex b)) [])

/-- R363, R431: the free positions of an inbox: visible and pending entries and granted credits are taken, those of other devices too. -/
def State.freePlaces (s : State) (g q b : Nat) : Nat :=
  match (s.block b).inbox q with
  | none => 0
  | some i =>
    if (s.block b).saved.isSome then 0
    else
      let pending := (s.entries.filter fun e => e.graph == g && e.port == q && e.cons == some b).length
      let credits := ((s.sendReqs.map fun r => ((r.granted.getD []).filter fun c => c == some b && ((s.graph r.graph).edge r.chan).dst == q && r.graph == g).length)).foldl (· + ·) 0
      let lent := ((s.graph g).lent.filter fun x => x.2 == b && ((s.graph g).edge x.1).dst == q).length
      ((s.graph g).port q).ring - (i.tail - i.head) - pending - credits - lent

/-- R363: n credits of a port handed out by rotation; none where the inboxes do not hold that many free places together. -/
def rotate (order : List Nat) (free : List (Nat × Nat)) (pos : Nat) : Nat → Nat → Option (List Nat × Nat)
  | 0, _ => some ([], pos)
  | _, 0 => none
  | n + 1, fuel + 1 =>
    let at' := fun (b : Nat) => ((free.find? fun x => x.1 == b).map fun x => x.2).getD 0
    let cand := order.filter fun b => at' b > 0
    match cand with
    | [] => none
    | c0 :: _ =>
      let after := (List.range order.length).findSome? fun j =>
        let i := (pos + 1 + j) % order.length
        let b := order.getD i c0
        if at' b > 0 then some (b, i) else none
      match after with
      | none => none
      | some (b, i) =>
        match rotate order (free.map fun x => if x.1 == b then (b, x.2 - 1) else x) i n fuel with
        | none => none
        | some (l, p) => some (b :: l, p)

/-- R363: the credits of n entries on a port: consumer blocks in lane order, and the rotation position afterwards. -/
def State.grant (s : State) (g q n : Nat) : Option (List Nat × Nat) :=
  let order := s.consumers g q
  let last := max 1 (sget 0 (s.graph g).rotation q)
  let upTo := (order.filter fun b => s.consumerIndex b + 1 ≤ last).length
  let pos := if upTo == 0 then order.length - 1 else upTo - 1
  match rotate order (order.map fun b => (b, s.freePlaces g q b)) pos n n with
  | none => none
  | some (l, p) => some (l, if n == 0 then last else s.consumerIndex (order.getD p 0) + 1)

end Sys2Proof.Machine
end

