-- ==== Sys2Proof/Machine/Scratch.lean ====
section
/-! DEFINITION. Scratchpad bytes, their symbol code, bank modes and race records (R223, R224, R229 to R231, R266 to R268, R320 to R325). -/
namespace Sys2Proof.Machine

/-- R224: the core byte of a block-relative offset. -/
def Block.coreByte (k : Block) (o : Nat) : Nat := k.base + o
/-- Bytes of a block's scratchpad allocation. -/
def State.allocation (s : State) (k : Block) : Nat := 4096 * (s.launch k.launch).granules

def State.bank (s : State) (core i : Nat) : Bank := sget {} (s.core core).banks i
def State.modBank (s : State) (core i : Nat) (f : Bank → Bank) : State :=
  s.modCore core fun c => { c with banks := sset {} c.banks i (f (sget {} c.banks i)) }
/-- R268: a core byte lies in a compute-mode bank. -/
def State.inCompute (s : State) (core a : Nat) : Bool := (s.bank core (a / 65536)).compute
/-- R268: some byte of a range does. -/
def State.computeIn (s : State) (core a n : Nat) : Bool := (span a n).any (s.inCompute core)
/-- The first byte of a range in a compute-mode bank. -/
def State.firstCompute (s : State) (core a n : Nat) : Option Nat := (span a n).find? (s.inCompute core)

/-- R269: one of the core bytes lies in a bank whose mode an `amode` is switching: an access to it is held. -/
def State.switching (s : State) (core : Nat) (l : List Nat) : Bool :=
  (s.core core).arb.any fun x => match x.op with
    | .amode banks _ _ _ => l.any fun a => banks.getLsbD (a / 65536)
    | _ => false

/-- R229, R230: banks, the check bank 8 among them, that fail or are lost in the codeword of a core byte. -/
def Core.failing (c : Core) (a : Nat) : List Nat :=
  (List.range 9).filter fun i => c.lost.getLsbD i || c.scrFail.contains (i * 16384 + a % 65536 / 4)
/-- R230: the codeword of a core byte cannot be corrected. -/
def Core.uncorrectable (c : Core) (a : Nat) : Bool := (c.failing a).length ≥ 2
def State.scrBad (s : State) (core a n : Nat) : Bool := (span a n).any (s.core core).uncorrectable

/-- R230: a codeword with one failing or lost bank is rebuilt and counted, and but for a lost bank the word is written back. -/
def State.scrCorrect (s : State) (core a : Nat) : State :=
  let c := s.core core
  match c.failing a with
  | [i] =>
    if c.lost.getLsbD i then s.countCorrected ((core / 64) * 128 + core % 64) i
    else
      (s.modCore core fun c => { c with scrFail := c.scrFail.filter (· != i * 16384 + a % 65536 / 4) }).countCorrected
        ((core / 64) * 128 + core % 64) i
  | _ => s
def State.scrCorrectAll (s : State) (core : Nat) (l : List Nat) : State := l.foldl (fun s a => s.scrCorrect core a) s

def State.scrByte (s : State) (core a : Nat) : Byte := sget 0 (s.core core).scratch a
def State.scrBytes (s : State) (core a n : Nat) : List Byte := (span a n).map (s.scrByte core)

/-- R230: core bytes written; a whole 32-bit bank word becomes good, and a correctable word that a store covers in part is corrected. -/
def State.scrPut (s0 : State) (core : Nat) (l : List (Nat × Byte)) : State :=
  let keys := l.map (·.1)
  let s := if (s0.core core).scrFail.isEmpty then s0
    else s0.scrCorrectAll core (keys.filter fun a => (s0.core core).scrFail.contains (a / 4) && !(span (a / 4 * 4) 4).all keys.contains)
  s.modCore core fun c =>
    { c with scratch := ssetAll (0 : Byte) c.scratch l
             scrFail := c.scrFail.filter fun x => !(span (x * 4) 4).all keys.contains }

/-- R146, R230: the bytes of a store that merge into an uncorrectable word they do not cover. -/
def State.scrUnmergeable (s : State) (core : Nat) (l : List (Nat × Byte)) : List (Nat × Byte) :=
  l.filter fun x => (s.core core).uncorrectable x.1 && (s.core core).scrFail.contains (x.1 / 4) && !(span (x.1 / 4 * 4) 4).all (l.map (·.1)).contains

/-! ### Race records (R320 to R323) -/

/-- R320: a launch whose buffer table holds a record with RACE = 1 has records on its scratchpad. -/
def Launch.racing (n : Launch) : Bool := n.bufs.any fun r => (r.getD 1 0).getLsbD 50
/-- R322: is the recorded writer another resident wave still in the epoch of its write? -/
def State.races (s : State) (me : Nat) (rec : Word) : Bool :=
  let wr := (rec >>> 8).toNat
  wr != 0 && wr != me &&
  (match s.residentWave wr with
   | none => false
   | some x => (s.wave x.1 x.2).epoch.toNat == (rec &&& 0xFF).toNat)
/-- R321: the record of a plain write. -/
def State.raceMark (s : State) (b w : Nat) : Word := BitVec.ofNat 32 (s.idOf b w * 256 + (s.wave b w).epoch.toNat)
/-- R322: what an access leaves in a record: a write marks it, a synchronising access clears its writer. -/
def raceAfter (old mark : Word) (write sync : Bool) : Word := if sync then old &&& 0xFF else if write then mark else old

/-- The granules that n bytes at a key touch. -/
def granules (key n : Nat) : List Nat := (span (key / 128) ((key + n - 1) / 128 - key / 128 + 1))

def State.touchRace (s : State) (gs : List Nat) (mark : Word) (write sync : Bool) : State :=
  { s with race := gs.foldl (fun m g => sset 0 m g (raceAfter (sget 0 m g) mark write sync)) s.race }
def State.touchRaceScr (s : State) (core : Nat) (gs : List Nat) (mark : Word) (write sync : Bool) : State :=
  s.modCore core fun c => { c with raceScr := gs.foldl (fun m g => sset 0 m g (raceAfter (sget 0 m g) mark write sync)) c.raceScr }

/-! ### The scope checker (R324, R325) -/

/-- R307: is wave y inside wave x's scope instance? -/
def State.inScope (s : State) (scope : Nat) (x y : Nat × Nat) : Bool :=
  let kx := s.block x.1
  let ky := s.block y.1
  match scope with
  | 0 => x == y
  | 1 => x.1 == y.1
  | 2 => kx.launch == ky.launch && kx.gang == ky.gang
  | 3 => kx.die == ky.die
  | _ => true
/-- R325: a synchronising access at scope sc by wave y meets a line last used out of scope. -/
def State.scopeClash (s : State) (line : Nat) (y : Nat × Nat) (sc : Nat) : Bool :=
  let r := sget 0 s.sync line
  let agent := (r &&& 0xFFFFFF).toNat
  agent != 0 && agent != s.idOf y.1 y.2 &&
  (match s.residentWave agent with
   | none => false
   | some x => !s.inScope ((r >>> 24).toNat) x y || !s.inScope sc y x)
/-- R325: the record afterwards. -/
def State.scopeMark (s : State) (line : Nat) (y : Nat × Nat) (sc : Nat) : State :=
  { s with sync := sset 0 s.sync line (BitVec.ofNat 32 (sc * 2 ^ 24 + s.idOf y.1 y.2)) }

end Sys2Proof.Machine
end

