-- ==== Sys2Proof/Machine/Lifecycle.lean ====
section
/-! DEFINITION. The ends of waves, blocks and gangs, the octet pool, and the work a wave still has in flight (R165 to R170, R173,
R177, R189, R192, R301, R355, R361). -/
namespace Sys2Proof.Machine

/-! ### Octets (R167 to R169) -/

def Wave.claiming (w : Wave) : Bool := match w.a.st with | .claim _ _ => !w.halted | _ => false
/-- R167: the end of a claim: the new registers read as zero, pD in every lane of the current mask. -/
def Wave.endClaim (w : Wave) (granted : Bool) (n : Nat) : Wave :=
  match w.a.st with
  | .claim p _ =>
    let w1 : Wave := { w with p := setPs w.p [(p, w.a.mask, if granted then w.a.mask else 0)] }
    let w2 : Wave := if granted then { w1 with octets := w1.octets + n, v := sdrop w1.v fun i => i / 1024 ≥ 8 * w1.octets
                                               softRegs := w1.softRegs.filter fun i => i / 1024 < 8 * w1.octets
                                               badRegs := w1.badRegs.filter fun i => i / 1024 < 8 * w1.octets } else w1
    { w2 with a := { w2.a with st := .ready, waited := 0 } }
  | _ => w
/-- R167: the heads of the queue that the pool satisfies. -/
def Block.serveHeads : Nat → Block → Block
  | 0, k => k
  | fuel + 1, k =>
    match k.claims with
    | [] => k
    | (w, n) :: t =>
      if k.pool ≥ n then Block.serveHeads fuel ({ k with pool := k.pool - n, claims := t }.modWave w fun v => v.endClaim true n)
      else k
/-- R167, R169: serve. -/
def Block.serve (k : Block) : Block :=
  let k1 := Block.serveHeads (k.claims.length + 1) k
  match k1.claims with
  | [] => k1
  | (w, _) :: t =>
    if k1.waves.all fun v => v.done || v.claiming then ({ k1 with claims := t }.modWave w fun v => v.endClaim false 0) else k1
/-- R167, R168: a claim joins the tail of the queue, before those of this clk from waves with higher numbers. -/
def Block.arrive (k : Block) (w n : Nat) : Block :=
  let after := fun (x : Nat × Nat) => k.claimNow.contains x.1 && w < x.1
  { k with claims := (k.claims.takeWhile fun x => !after x) ++ (w, n) :: k.claims.dropWhile fun x => !after x, claimNow := k.claimNow ++ [w] }
/-- R168: the clk is over: the claims that arrived in it are served together. -/
def Block.endClk (k : Block) : Block := if k.claimNow.isEmpty then k else { k with claimNow := [] }.serve
/-- R167: the registers of octets that a wave gives up are lost. -/
def Wave.dropOctets (w : Wave) (n : Nat) : Wave :=
  { w with octets := w.octets - n, v := sdrop w.v fun i => i / 1024 ≥ 8 * (w.octets - n)
           softRegs := w.softRegs.filter fun i => i / 1024 < 8 * (w.octets - n)
           badRegs := w.badRegs.filter fun i => i / 1024 < 8 * (w.octets - n) }

/-! ### Work in flight (R301) -/

/-- R301, R310: work of an arm or, with an id from before the division, of the undivided wave is earlier in the program order of an arm. -/
def Wave.earlier (v : Wave) (armB byB : Bool) (id : Nat) : Bool := !v.divided || byB == armB || id < v.division
/-- A flat atomic's lane, a Sumac job, an uncaptured copy that is earlier in an arm's program order (R309, R310, R329). -/
def State.myAtom (s : State) (b w : Nat) (armB : Bool) (r : AtomReq) : Bool := r.b == b && r.w == w && (s.wave b w).earlier armB r.armB r.inst
def State.myJob (s : State) (b w : Nat) (armB : Bool) (j : Sumac) : Bool :=
  match j.who with | some x => x.1 == b && x.2.1 == w && (s.wave b w).earlier armB x.2.2 j.id | none => false
def State.capturing (s : State) (b w : Nat) (armB : Bool) : Bool :=
  (s.core (s.block b).core).copies.any fun c => c.b == b && c.w == w && c.block.isNone && (s.wave b w).earlier armB c.armB c.id
/-- R301, R305: a `zwb` of the arm waits for a block write. -/
def State.flushing (s : State) (b w : Nat) (armB : Bool) : Bool :=
  s.zwbs.any fun z => z.1 == b && z.2.1 == w && (s.wave b w).earlier armB z.2.2.1 z.2.2.2.1 && z.2.2.2.2.any fun i => s.sumac.any fun j => j.id == i
/-- R301: LS work earlier in an arm's program order that is not performed: what a fence that names LS waits for. -/
def State.lsBusy (s : State) (b w : Nat) (armB : Bool) : Bool :=
  s.atomReqs.any (s.myAtom b w armB) || s.sumac.any (s.myJob b w armB) || s.capturing b w armB || s.flushing b w armB
def State.cpBusy (s : State) (b w : Nat) (armB : Bool) : Bool :=
  ((s.core (s.block b).core).copies ++ ((s.block b).saved.getD {}).copies).any fun c => c.b == b && c.w == w && (s.wave b w).earlier armB c.armB c.id
def State.mxBusy (s : State) (b w : Nat) (armB : Bool) : Bool :=
  ((s.core (s.block b).core).arb ++ (s.block b).savedArb).any fun x => x.b == b && x.w == w && (s.wave b w).earlier armB x.armB x.id
/-- R301, R308, R365: sends of an arm whose entries are not in their consumers' banks, and count changes that are not applied. -/
def State.sending (s : State) (b w : Nat) (armB : Bool) : Bool :=
  s.entries.any (fun x => x.b == b && x.w == w && (s.wave b w).earlier armB x.armB x.id) ||
  (s.openBatches ++ s.closedBatches).any (fun x => x.deltas.any fun d => match d.own with
    | some o => o.1 == b && o.2.1 == w && (s.wave b w).earlier armB o.2.2.1 o.2.2.2
    | none => false) ||
  s.graphs.any fun g => g.unacked.any fun u => u.b == b && u.w == w && (s.wave b w).earlier armB u.armB u.id
/-- R301: receives of an arm that have returned nothing. -/
def Wave.receiving (v : Wave) (armB : Bool) : Bool := (v.mine armB).any fun r => match r.kind with | .recv _ _ => true | _ => false

/-! ### Ends -/

/-- R177, R386: a record about the blocks of a launch. -/
def State.launchRec (s : State) (l : Nat) (r : FaultRec) : FaultRec :=
  { r with nowave := true, seq := (s.launch l).seq, queue := (s.launch l).queue }

/-- R361: one ring entry's header timestamp. -/
def State.ringTs (s : State) (g b q pos : Nat) : DWord :=
  let p := (s.graph g).port q
  let o := p.inbox + p.entryBytes * (pos % p.ring)
  BitVec.ofNat 64 (leNat (match (s.block b).saved with
    | some x => (span o 8).map (sget 0 x.scratch)
    | none => s.scrBytes (s.block b).core ((s.block b).coreByte o) 8))

/-- R355: held units dropped at a block's end, with one record. -/
def State.dropHeld (s : State) (b : Nat) : State :=
  let k := s.block b
  match (s.launch k.launch).graph, k.held with
  | some g, h :: t =>
    let ports := (h :: t).map fun x => x.port
    let s1 := s.addDeltas k.core g ((h :: t).map fun x => { port := x.port, ts := x.ts, add := -(x.count : Int) })
    (s1.modBlock b fun k => { k with held := [] }).post (s.launch k.launch).ctx
      (s.launchRec k.launch { cause := 26, sub := 8, info := BitVec.ofNat 64 (8 + 256 * (least ports).getD 0) })
  | _, _ => s

/-- R353: the −1 of an entry whose +1 is still in a batch goes into that batch, behind it: no count falls below zero. -/
def Batch.cancel (ids : List Nat) (x : Batch) : Batch :=
  { x with deltas := (x.deltas.map fun d => match d.entry with
      | some i => if ids.contains i then [{ d with entry := none }, { port := d.port, ts := d.ts, add := -1 }] else [d]
      | none => [d]).flatten }
/-- R361: entries left in the rings of a block whose range is released. -/
def State.emptyInboxes (s : State) (b : Nat) : State :=
  let k := s.block b
  match (s.launch k.launch).graph with
  | none => s.modBlock b fun k => { k with released := true }
  | some g =>
    let vis := (k.inboxes.map fun i => (span i.head (i.tail - i.head)).map fun pos => (i.port, s.ringTs g b i.port pos)).flatten
    let mine := s.entries.filter fun e => e.graph == g && e.cons == some b
    let all := vis ++ mine.map fun e => (e.port, e.ts)
    let ids := (mine.filter fun e => !e.applied).map (·.id)
    let s1 := { s with
      entries := s.entries.filter fun e => !(e.graph == g && e.cons == some b)
      openBatches := s.openBatches.map (Batch.cancel ids), closedBatches := s.closedBatches.map (Batch.cancel ids) }
    let s2 := s1.modBlock b fun k => { k with inboxes := [], released := true }
    if all.isEmpty then s2
    else
      (s2.addDeltas k.core g ((vis ++ (mine.filter fun e => e.applied).map fun e => (e.port, e.ts)).map fun x => { port := x.1, ts := x.2, add := -1 })).post (s.launch k.launch).ctx
        (s.launchRec k.launch { cause := 26, sub := 10, info := BitVec.ofNat 64 (10 + 256 * (least (all.map fun x => x.1)).getD 0) })

/-- R173, R401: a gang whose blocks are all complete releases its scratchpad ranges, and the places kept for their records. -/
def State.endGang (s : State) (l g : Nat) : State :=
  let bs := (s.gang l g).blocks
  if bs.all fun b => (s.block b).st == .done then
    (bs.foldl State.emptyInboxes s).modGang l g fun x => { x with st := .done, stopReq := false, places := [] }
  else s

/-- R267: the array entries that a completing block leaves in its core's arbiter. -/
def State.endsEntries (s : State) (b : Nat) : Bool := (s.core (s.block b).core).arb.any fun x => x.b == b
/-- R165, R267, R342, R355, R401: a block completes when its waves have and no copy of it is in flight or recorded. -/
def State.endBlock (s : State) (b : Nat) : State :=
  let k := s.block b
  if k.st != .done && k.waves.all (·.done) && !((s.core k.core).copies.any fun c => c.b == b) && (k.saved.getD {}).copies.isEmpty then
    let s1 := s.dropHeld b
    let s2 := if (s.launch k.launch).arrays then s1.modCore k.core fun c => { c with banks := (c.banks.map fun x => (x.1, { x.2 with compute := false })).filter fun x => x.2 != {} } else s1
    let s3 := if s2.endsEntries b then s2.modCore k.core fun c => { c with arb := c.arb.filter fun x => x.b != b } else s2
    (s3.modBlock b fun k => { k with st := .done, claims := [], save := none }).endGang k.launch k.gang
  else s

/-- R377, R386: deferred faults that a completed wave has not taken go to the fault queue alone. -/
def State.postPending (s : State) (b w : Nat) : State :=
  ((s.wave b w).pend.foldl (fun t d => t.post (t.launch (t.block b).launch).ctx
    { t.waveRec b w { cause := d.cause, sub := d.sub, deferred := true, site := d.site, info := d.info } with seq := d.seq, stop := 0 }) s).modWave b w
    fun v => { v with pend := [] }

/-- R162, R165, R167: a wave completes: its octets go to the pool, its waits end, and the deferred faults it has not taken are posted. -/
def State.endWave (s0 : State) (b w : Nat) : State :=
  let s := s0.postPending b w
  let recvs := ((s.wave b w).outst.filter fun r => match r.kind with | .recv _ _ => true | _ => false).length
  let s1 := s.modBlock b fun k =>
    ({ k with pool := k.pool + (k.waves.getD w {}).octets, reserved := k.reserved - recvs }.modWave w fun v => { v.settle with done := true, octets := 0, outst := [] }).serve
  ({ s1 with
    monitors := s1.monitors.filter fun m => m.peer.isSome || !(m.b == b && m.w == w)
    sendReqs := s1.sendReqs.filter fun r => !(r.b == b && r.w == w)
    zwbs := s1.zwbs.filter fun z => !(z.1 == b && z.2.1 == w) }).endBlock b

end Sys2Proof.Machine
end

