-- ==== Sys2Proof/Machine/Pending.lean ====
section
/-! DEFINITION. Work that waves have issued and memory performs later: atomics at their targets with the contention predictor, lost
responses, recording and replay (R294 to R300, R460 to R462), the block reads and writes of Sumac (R256 to R261); and the
performing of an arm's earlier work before an access that meets it (R25, R310, R311). -/
namespace Sys2Proof.Machine

/-! ### The operation (R294) -/

/-- R294: the types that an operation accepts. -/
def atomType (op et : Nat) : Bool :=
  if op == 3 || op == 4 || op == 5 then et ≤ 3 else if op == 7 then et == 1 || et == 3 else clsA et

/-- An element's low bits. -/
def elemMask (et : Nat) (x : DWord) : DWord := x &&& BitVec.ofNat 64 (2 ^ (8 * etBytes et) - 1)

/-- R294: m'. -/
def atomNew (op et rm : Nat) (fz : Bool) (m c new : DWord) : DWord :=
  elemMask et (match op with
    | 0 => if clsI et then m + c else (fpAdd (fmtOf et) rm fz false m c).1
    | 1 => if clsI et then (if intVal et c < intVal et m then c else m) else (fpMinMax (fmtOf et) fz false m c).1
    | 2 => if clsI et then (if intVal et m < intVal et c then c else m) else (fpMinMax (fmtOf et) fz true m c).1
    | 3 => m &&& c
    | 4 => m ||| c
    | 5 => m ^^^ c
    | 6 => c
    | 7 => if m.toNat ≥ c.toNat then 0 else m + 1
    | _ => if m == c then new else m)

/-! ### The contention predictor (R297) -/

def State.pred (s : State) (line : Nat) : Pred := (s.preds.find? fun p => p.line == line).getD { line := line, st := 0, core := 0, xfer := 0, run := 0 }
/-- R297: the state after an atomic of core c; ret: a returning one. -/
def Pred.next (p : Pred) (c : Nat) (ret : Bool) : Pred :=
  if p.st == 2 then
    let q := if c == p.core then { p with run := p.run + 1 } else { p with core := c, run := 1 }
    if q.run ≥ 16 then { q with st := 0, xfer := 0, run := 0 } else q
  else if !ret then { p with st := 0 }
  else if p.st == 0 then { p with st := 1, core := c }
  else if p.core == c then p
  else if p.xfer == 0 then { p with core := c, xfer := 1 }
  else { p with st := 2, core := c, run := 1 }
/-- R297: an entry at its slice, which keeps 1,024 of them and gives up the least recently used; only an atomic or a
reduction is a use, and makes an entry (log 6). -/
def State.setPred (s : State) (p : Pred) : State :=
  let rest := s.preds.filter fun q => q.line != p.line
  let mine := rest.filter fun q => q.home == p.home
  let rest' := if mine.length ≥ 1024 then (match mine with | q :: _ => rest.filter fun z => z.line != q.line | [] => rest) else rest
  { s with preds := rest' ++ [p] }

/-! ### Recording and replay (R460 to R462) -/

def State.reqCtx (s : State) (r : AtomReq) : Nat := (s.launch (s.block r.b).launch).ctx
/-- R460: a requester: launch ordinal, gang, block, wave. -/
def State.requester (s : State) (r : AtomReq) : Nat × Nat × Nat × Nat :=
  let k := s.block r.b
  ((s.launch k.launch).ordinal, (s.gang k.launch k.gang).number, k.index, r.w)
def State.replaying (s : State) (r : AtomReq) : Nat := if r.host then 0 else (s.ctx (s.reqCtx r)).replayMode
/-- R416, R461: the slice of a request's line, by the HOME of its leaf and the directory as it stands. -/
def State.reqHome (s : State) (r : AtomReq) : Nat := s.home r.key r.home

/-- R461: one entry appended to a segment; a full segment sets OVF. -/
def State.appendRun (s : State) (x slice : Nat) (run : Nat × Nat × Nat × Nat × Nat × Nat) : State :=
  let c := s.ctx x
  let size := c.replayBytes / 128
  let base := c.replayVa + BitVec.ofNat 64 (slice * size)
  match s.replaySegs.find? fun g => g.ctx == x && g.slice == slice with
  | none => s
  | some g =>
    let mod := fun (t : State) (f : ReplaySeg → ReplaySeg) => { t with replaySegs := t.replaySegs.map fun h => if h.ctx == x && h.slice == slice then f h else h }
    let full := 16 + 16 * (g.count + 1) > size
    let header := fun (n : Nat) (o : Bool) => leBytes 8 n ++ leBytes 8 (bit o 0)
    if g.ovf then s
    else if full then
      (match s.ctxStore c base (header g.count true) with
       | .ok t => mod t fun h => { h with ovf := true }
       | .error _ => mod s fun h => { h with ovf := true })
    else
      match run with
      | (line, ord, gang, blk, wave, n) =>
        let w0 := line * 128 + (n - 1)
        let w1 := ord * 2 ^ 32 + gang % 2 ^ 24 * 256 + blk % 16 * 16 + wave % 16
        match s.ctxStore c (base + BitVec.ofNat 64 (16 + 16 * g.count)) (leBytes 8 w0 ++ leBytes 8 w1) with
        | .error _ => mod s fun h => { h with ovf := true }
        | .ok t =>
          match t.ctxStore c base (header (g.count + 1) false) with
          | .ok u => mod u fun h => { h with count := h.count + 1 }
          | .error _ => mod t fun h => { h with ovf := true }

/-- R461: an applied operation joins the open run of its line, or ends it and opens another. -/
def State.recordAtom (s : State) (r : AtomReq) : State :=
  let x := s.reqCtx r
  let slice := s.reqHome r
  let line := r.key / 128
  let s1 := if s.replaySegs.any fun g => g.ctx == x && g.slice == slice then s else { s with replaySegs := s.replaySegs ++ [{ ctx := x, slice := slice }] }
  match s.requester r with
  | (ord, gang, blk, wave) =>
    let mod := fun (t : State) (f : ReplaySeg → ReplaySeg) => { t with replaySegs := t.replaySegs.map fun h => if h.ctx == x && h.slice == slice then f h else h }
    match (s1.replaySegs.find? fun g => g.ctx == x && g.slice == slice).bind fun g => g.openRuns.find? fun o => o.1 == line with
    | none => mod s1 fun h => { h with openRuns := h.openRuns ++ [(line, ord, gang, blk, wave, 1)] }
    | some (l, o, g, b, w, n) =>
      if (o, g, b, w) == (ord, gang, blk, wave) && n < 128 then
        mod s1 fun h => { h with openRuns := h.openRuns.map fun z => if z.1 == line then (l, o, g, b, w, n + 1) else z }
      else mod (s1.appendRun x slice (l, o, g, b, w, n)) fun h => { h with openRuns := h.openRuns.map fun z => if z.1 == line then (line, ord, gang, blk, wave, 1) else z }

/-- R462: an operation of the same context that was held on the line before this one arrived there. -/
def State.arrivedBefore (s : State) (r : AtomReq) : Bool :=
  s.atomReqs.any fun q => s.reqCtx q == s.reqCtx r && q.key / 128 == r.key / 128 && q.arrived != 0 && (r.arrived == 0 || q.arrived < r.arrived)
/-- R462: whether an operation may apply now; some: it applies, with the line's entries afterwards. -/
def State.replayGate (s : State) (r : AtomReq) : Option State :=
  let x := s.reqCtx r
  match s.replayLines.find? fun l => l.ctx == x && l.line == r.key / 128 with
  | none => some s
  | some l =>
    if l.diverged then (if s.arrivedBefore r then none else some s)
    else
      match l.runs with
      | [] => some s
      | (o, g, b, w, n) :: t =>
        if (o, g, b, w) == s.requester r then
          some { s with replayLines := s.replayLines.map fun z => if z.ctx == x && z.line == r.key / 128 then { z with runs := if n ≤ 1 then t else (o, g, b, w, n - 1) :: t } else z }
        else none

/-! ### At the target (R295 to R300) -/

/-- R296: what host memory executes. -/
def hostAtom (op et : Nat) : Bool := (et == 1 || et == 3) && (op == 0 || op == 6 || op == 8)
/-- An earlier lane of the same instruction names the same element (R295). -/
def State.atomBlocked (s : State) (i : Nat) (r : AtomReq) : Bool :=
  (s.atomReqs.take i).any fun q => q.inst == r.inst && q.key == r.key
def State.dropReq (s : State) (i : Nat) : State := { s with atomReqs := dropAt s.atomReqs i }
/-- R295: one lane of a result is in, or has failed. -/
def State.atomBound (s : State) (r : AtomReq) (f : Eff) : State :=
  if !r.ret then s
  else
    let waits := s.peerReqs.any fun q => q.res == r.res
    s.modResult r.b r.w r.res fun z => match z.kind with
      | .atomic n => { z.add f with kind := if n ≤ 1 then (if waits then .peer 0 else .plain) else .atomic (n - 1) }
      | _ => z.add f

/-- A request's failure at its target: no effect there (R298). -/
def State.atomFails (s : State) (r : AtomReq) : Option Nat :=
  if r.host && !hostAtom r.op r.et then some 23 else if s.badIn r.key (etBytes r.et) then some 21 else none

/-- The place of execution: the predictor after it, and whether it was an L1 (R296, R297).  A grant that fails in transit, at a free
choice, is withdrawn, and leaves the line in Q with the XFER of its transition (log 6). -/
def State.atomPlace (s : State) (r : AtomReq) : State × Bool :=
  let line := r.key / 128
  let home := s.reqHome r
  if r.host then (s, false)
  else if r.rc then (s.predOther 0xFFFF line, false)
  else if s.replaying r != 0 then (s.setPred { s.pred line with home := home, st := 0 }, false)
  else
    let old := s.pred line
    let p := { old.next r.core r.ret with home := home }
    let grant := p.st == 1 && !(old.st == 1 && old.core == r.core)
    if grant && s.pick (32768 + r.inst) % 2 == 1 then (s.setPred { p with st := 0 }, false) else (s.setPred p, p.st == 1)

/-- The value read and the state with the element written (R295). -/
def State.atomApply (s : State) (r : AtomReq) : DWord × DWord × State :=
  let size := etBytes r.et
  let s1 := s.memCorrect r.key size
  let m := BitVec.ofNat 64 (leNat (s1.bytesAt r.key size))
  let n := atomNew r.op r.et r.rm r.fz m r.c r.new
  (m, n, s1.putBytes (some r.core) (cellsAt r.key (leBytes size n.toNat)))

/-- R295, R297: the i-th request executes at its target. -/
def State.atomicAtTarget (s : State) (i : Nat) : State :=
  match s.atomReqs[i]? with
  | none => s
  | some r =>
    if s.atomBlocked i r then s
    else
      match s.atomFails r with
      | some c => (((s.dropReq i).atomBound r {}).report r.b r.w { cause := c, sub := 0, info := r.va, site := r.site, seq := r.seq })
      | none =>
        match if s.replaying r == 2 then s.replayGate r else some s with
        | none => { s with atomReqs := upd s.atomReqs i fun q => { q with held := true, arrived := if q.arrived == 0 then s.ticks + 1 else q.arrived } }
        | some s1 =>
          let s2 := (s1.atomPlace r).1
          let z := s2.atomApply r
          let back := words (isPair r.et) r.d r.lane (if clsI r.et then intReg r.et (intVal r.et z.1) else z.1)
          let s3 := if s.replaying r == 1 then z.2.2.recordAtom r else z.2.2
          (s3.dropReq i).atomBound r { v := back }
/-- The event ATOMIC_AT_TARGET of the i-th request. -/
def execAtomicAtTarget (i : Nat) (s : State) : Host.Outcome State Fault Refusal := .next (s.atomicAtTarget i)

/-- R300: the entry of an applied-atomic log. -/
def atomLogBytes (s : State) (r : AtomReq) (m n : DWord) : List Byte :=
  leBytes 8 r.va.toNat ++ leBytes 8 r.site.toNat ++ leBytes 4 r.seq.toNat ++ leBytes 4 (s.ctx (s.reqCtx r)).number ++
  leBytes 2 (r.core / 64 * 64 + r.core % 64) ++ leBytes 1 (s.wave r.b r.w).slot ++ leBytes 1 r.f ++ leBytes 1 r.et ++ leBytes 3 0 ++
  leBytes 8 m.toNat ++ leBytes 8 n.toNat

/-- R300: at most 32 entries a slice. -/
def State.logAtom (s : State) (slice : Nat) (l : List Byte) : State :=
  if (s.atomLog.filter fun x => x.slice == slice).length ≥ 32 then { s with logOver := sset 0 s.logOver slice (sget 0 s.logOver slice + 1) }
  else { s with atomLog := s.atomLog ++ [{ slice := slice, bytes := l }] }

/-- R300: an operation executed at a slice of another die or in host memory is applied, and its response is lost. -/
def execAtomicResponseLost (i : Nat) (s : State) : Host.Outcome State Fault Refusal :=
  match s.atomReqs[i]? with
  | none => .next s
  | some r =>
    let pl := s.atomPlace r
    if s.atomBlocked i r || (s.atomFails r).isSome || pl.2 || !(r.host || s.reqHome r / 16 != r.core / 64) then .next s
    else
      match if s.replaying r == 2 then s.replayGate { r with held := false } else some s with
      | none => .next s
      | some s1 =>
        let z := (s1.atomPlace r).1.atomApply r
        let s2 := if s.replaying r == 1 then z.2.2.recordAtom r else z.2.2
        .next ((((s2.logAtom (s.reqHome r) (atomLogBytes s r z.1 z.2.1)).dropReq i).atomBound r {}).report r.b r.w
          { cause := 24, sub := 0, info := r.va, site := r.site, seq := r.seq })

/-- R462: operations held for 1 ms on a line mark it diverged and apply. -/
def execReplayHoldTimeout (line : Nat) (s : State) : Host.Outcome State Fault Refusal :=
  if s.atomReqs.any fun r => r.held && r.key / 128 == line then
    let xs := (s.atomReqs.filter fun r => r.held && r.key / 128 == line).map s.reqCtx
    let t := { s with
      replayLines := s.replayLines.map fun l => if l.line == line && xs.contains l.ctx then { l with diverged := true } else l
      atomReqs := s.atomReqs.map fun r => if r.key / 128 == line then { r with held := false } else r }
    .next (((s.atomReqs.filter fun r => r.held && r.key / 128 == line).map fun r => (s.reqCtx r, s.reqHome r)).foldl (fun t z =>
      let c := t.ctx z.1
      let a := c.replayVa + BitVec.ofNat 64 (z.2 * (c.replayBytes / 128) + 8)
      match t.ctxLoad c a 8 with
      | .ok l => (match (t.ctxFix c a 8).ctxStore c a (leBytes 8 (leNat l ||| 2)) with | .ok u => u | .error _ => t)
      | .error _ => t) t)
  else .next s

/-- The encoded address of a block. -/
def blockVa (r : List DWord) (j : Nat) : DWord := bufBase r + BitVec.ofNat 64 (blockOffset r j)
/-! ### Sumac's events (R256, R257, R259, R261) -/

def State.sumacAt (s : State) (i : Nat) : Option Sumac := s.sumac.find? fun j => j.id == i
/-- A failed job is reported to its wave (R259). -/
def State.sumacFail (s : State) (j : Sumac) (cause sub : Nat) (info : DWord) : State :=
  match j.who with
  | some x => s.report x.1 x.2.1 { cause := cause, sub := sub, info := info, site := j.site, seq := j.seq }
  | none => s
def State.dropSumac (s : State) (i : Nat) : State :=
  { s with sumac := s.sumac.filter fun j => j.id != i
           zwbs := s.zwbs.filterMap fun z => let l := z.2.2.2.2.filter (· != i); if l.isEmpty then none else some (z.1, z.2.1, z.2.2.1, z.2.2.2.1, l) }
/-- R256: a block read of a result is done. -/
def OutRes.decoded (r : OutRes) (f : Eff) : OutRes :=
  match r.kind with
  | .decode n => { r.add f with kind := if n ≤ 1 then .plain else .decode (n - 1) }
  | _ => r.add f
/-- R264: a decoded line filled or replaced. -/
def Core.fillLine (c : Core) (i va tag : Nat) (bytes : List Byte) (v : List DWord) : Core :=
  let d := { c with decoded := c.decoded.filter fun x => !(x.1 == va && x.2.1 == tag) }.evict i
  { d with decoded := d.decoded ++ [(va, tag, bytes, v)] }
def jobTag (s : State) (j : Sumac) : Nat :=
  match j.who with
  | some x => (((s.launch (s.block x.1).launch).ctx * 4 + bufEnc j.buf) * 64 + bufBudget j.buf) * 2 + (if bufShape j.buf then 1 else 0)
  | none => 0

/-- R256: Sumac decodes one block once its lock is free. -/
def State.sumacRead (s : State) (i : Nat) : State :=
  match s.sumacAt i with
  | none => s
  | some j =>
    if j.write || s.lockedBy i j.key then s
    else
      match j.who with
      | none => s.dropSumac i
      | some x =>
        let at' : BlockAt := { key := j.key, mapKey := j.mapKey }
        match s.blockValues j.buf at' with
        | .error c =>
          ((((s.blockFix j.buf at').dropSumac i).modResult x.1 x.2.1 j.res fun r => r.decoded {}).sumacFail j c 0 (blockVa j.buf j.blk))
        | .ok v =>
          let t := ((s.blockFix j.buf at').dropSumac i).modResult x.1 x.2.1 j.res fun r =>
            r.decoded { v := (j.lanes.map fun y => words true j.d y.1 (v.getD y.2 0)).flatten }
          if bufRace j.buf then t else t.modCore j.core fun c => c.fillLine (s.pick 4107) (blockVa j.buf j.blk).toNat (jobTag s j) (s.storedBytes j.buf at') v
/-- The event SUMAC_BLOCK_READ. -/
def execSumacBlockRead (i : Nat) (s : State) : Host.Outcome State Fault Refusal := .next (s.sumacRead i)

/-- R257: Sumac takes the block's lock and encodes; a `zpack` job is a full write without updates, of a block still raw. -/
def State.sumacWrite (s : State) (i : Nat) : State :=
  match s.sumacAt i with
  | none => s
  | some j =>
    if !j.write || j.out.isSome || s.lockedBy i j.key then s
    else if j.full && j.updates.isEmpty && !j.mapKey.any s.mapRaw then s.dropSumac i
    else
      let at' : BlockAt := { key := j.key, mapKey := j.mapKey }
      match s.blockCode j.buf at' j.blk j.full j.updates with
      | .error c => ((s.blockFix j.buf at').dropSumac i).sumacFail j c 0 (blockVa j.buf j.blk)
      | .ok z =>
        let t := if j.full && !j.updates.isEmpty then s else s.blockFix j.buf at'
        { t with sumac := t.sumac.map fun y => if y.id == i then { y with out := some z } else y }
/-- The event SUMAC_BLOCK_WRITE. -/
def execSumacBlockWrite (i : Nat) (s : State) : Host.Outcome State Fault Refusal := .next (s.sumacWrite i)

/-- R257, R258, R261: the lock slice applies bytes and map byte together; the writer's line and the counters follow. -/
def State.sumacApply (s : State) (i : Nat) : State :=
  match s.sumacAt i with
  | none => s
  | some j =>
    match j.out with
    | none => s
    | some (l, code, d, y) =>
      let at' : BlockAt := { key := j.key, mapKey := j.mapKey }
      let t := (s.dropSumac i).blockApply (some j.core) at' l code
      let va := (blockVa j.buf j.blk).toNat
      let t1 := if (t.core j.core).decoded.any fun x => x.1 == va && x.2.1 == jobTag s j then
          t.modCore j.core fun c => c.fillLine (s.pick 4107) va (jobTag s j) (t.storedBytes j.buf at') d
        else t
      let c := match j.who with | some x => s.ctx (s.launch (s.block x.1).launch).ctx | none => noCtx
      let who : Option Asker := j.who.map fun x => { b := x.1, w := x.2.1, site := j.site, seq := j.seq }
      let z := t1.bumpErrs who c j.die j.buf false (counterUpdates j.buf j.blk (j.full || j.updates.isEmpty) code d y)
      match z.2 with | none => z.1 | some e => z.1.sumacFail j e.1 e.2 (bufErrs j.buf)
/-- The event BLOCK_WRITE_APPLY. -/
def execBlockWriteApply (i : Nat) (s : State) : Host.Outcome State Fault Refusal := .next (s.sumacApply i)

/-! ### Earlier work that an access meets (R25, R310, R311) -/

/-- Atomics of an arm on some lines execute, in order; of those a replay holds, the first stays (R462). -/
def State.performAtoms (s : State) (b w : Nat) (armB : Bool) (mine : Nat → Bool) : Nat → State
  | 0 => s
  | n + 1 =>
    match (List.range s.atomReqs.length).find? fun i => match s.atomReqs[i]? with
        | some r => mine (r.key / 128) && s.myAtom b w armB r && !s.atomBlocked i r && (s.replaying r != 2 || (s.replayGate r).isSome)
        | none => false with
    | none => s
    | some i => (s.atomicAtTarget i).performAtoms b w armB mine n
/-- A Sumac job is done, from wherever it stands. -/
def State.performJob (s : State) (j : Sumac) : State := if j.write then (s.sumacWrite j.id).sumacApply j.id else s.sumacRead j.id
/-- Sumac's jobs that f names are done, each after the holder of its block's lock. -/
def State.performJobs (s : State) (f : Sumac → Bool) : Nat → State
  | 0 => s
  | n + 1 =>
    match s.sumac.find? f with
    | none => s
    | some j =>
      (match s.sumac.find? fun (x : Sumac) => x.id != j.id && x.key == j.key && (x.locked || (x.write && x.out.isSome)) with
       | some h => s.performJob h
       | none => s.performJob j).performJobs f n
/-- The line of a block write's error counters. -/
def State.errsLine (s : State) (j : Sumac) : Option Nat :=
  if !j.write || bufErrs j.buf == 0 then none
  else
    let c := match j.who with | some x => s.ctx (s.launch (s.block x.1).launch).ctx | none => noCtx
    match s.translate j.die c (bufErrs j.buf) true false with
    | .ok x => (match s.place x.pa x.host with | .mem k => some (k / 128) | _ => none)
    | .error _ => none
/-- A job works on one of the lines. -/
def State.jobMeets (s : State) (lines : List Nat) (j : Sumac) : Bool :=
  lines.contains (j.key / 128) || (j.mapKey.any fun m => lines.contains (m / 128)) || (s.errsLine j).any lines.contains
/-- R310, R311: an access to lines meets earlier work of its arm: an atomic or block of one of the lines, a block write whose error counters
stand there, and for a write a parameter block still to be captured (R334). -/
def State.lsConflict (s : State) (b w : Nat) (armB write : Bool) (lines : List Nat) : Bool :=
  s.atomReqs.any (fun r => lines.contains (r.key / 128) && s.myAtom b w armB r) ||
  s.sumac.any (fun j => s.jobMeets lines j && s.myJob b w armB j) ||
  (write && s.capturing b w armB)
/-- R25: that work is performed first, at a time that is its own, and the wave goes on (log 19). -/
def State.performLines (s : State) (b w : Nat) (armB : Bool) (lines : List Nat) : State :=
  let t := s.performAtoms b w armB lines.contains s.atomReqs.length
  t.performJobs (fun j => t.jobMeets lines j && t.myJob b w armB j) (2 * t.sumac.length)
/-- R203: every atomic and block of an arm is performed. -/
def State.performAll (s : State) (b w : Nat) (armB : Bool) : State :=
  let t := s.performAtoms b w armB (fun _ => true) s.atomReqs.length
  t.performJobs (fun j => t.myJob b w armB j) (2 * t.sumac.length)

end Sys2Proof.Machine
end

