-- ==== Sys2Proof/Machine/Memory.lean ====
section
/-! DEFINITION. Flat and scratchpad loads and stores (R144 to R148, R223, R227, R230, R268, R289, R290, R306, R322, R427). -/
namespace Sys2Proof.Machine

/-! ### Checked lanes of a flat access (R145) -/

/-- A lane of a flat access that passed every check of its address. -/
structure Lane where
  lane : Nat
  va : DWord
  x : Xlat
  p : Place
  deriving DecidableEq, Repr

/-- R145: each check over every lane before the next. -/
def State.flatCheck (s : State) (e : Env) (size : Nat) (write : Bool) (l : List (Nat × DWord)) : Except Trap (List Lane) :=
  match l.find? fun x => x.2.toNat % size != 0 with
  | some x => .error { cause := 2, info := x.2 }
  | none =>
    match l.find? fun x => !canonical x.2 with
    | some x => .error { cause := 3, info := x.2 }
    | none =>
      let r := l.map fun x => (x.1, x.2, s.translate (dataSide e.core) e.cx x.2 write false)
      match r.findSome? fun x => (match x.2.2 with | .error c => some ({ cause := c.1, sub := c.2, info := x.2.1 } : Trap) | .ok _ => none) with
      | some t => .error t
      | none =>
        let k := r.filterMap fun x => (match x.2.2 with | .ok y => some (x.1, x.2.1, y) | .error _ => none)
        match k.find? fun x => x.2.2.enc with
        | some x => .error { cause := 3, sub := 3, info := x.2.1 }
        | none =>
          match k.find? fun x => x.2.2.aper with
          | some x => .error { cause := 3, sub := 4, info := x.2.1 }
          | none => .ok (k.map fun x => { lane := x.1, va := x.2.1, x := x.2.2, p := s.reach x.2.2 })

/-- The memory key of a lane. -/
def Lane.key (x : Lane) : Option Nat := match x.p with | .mem k => some k | _ => none

/-- Where race records of a lane's bytes stand: at its device address, a window's too (R320). -/
def Lane.raceKey (x : Lane) : Option Nat := match x.p with | .mem k => some k | .window w o => some (windowPa w o) | _ => none
/-- The holder of a window block's lock is done. -/
def State.freeWindow (s : State) (w off : Nat) : State :=
  let key := (winBlock (winRecord (s.window w)) (blockOf (winRecord (s.window w)) (off / 8)).1).key
  s.performJobs (fun j => j.key == key && (j.locked || (j.write && j.out.isSome))) s.sumac.length
/-- R257, R310: an access meets earlier work of its arm on its lines, or the locks of the window blocks it reaches. -/
def State.flatHeld (s : State) (e : Env) (write : Bool) (l : List Lane) : Bool :=
  s.lsConflict e.u.b e.u.w e.u.armB write (l.filterMap fun x => x.key.map (· / 128)) ||
  l.any fun x => match x.p with | .window w o => s.windowBusy w [o] | _ => false

/-- R25: what such an access meets is performed first; it is still held only by an atomic that a replay holds (R462), or by a copy that has
not captured (R334). -/
def State.settled (s : State) (e : Env) (write : Bool) (l : List Lane) : State :=
  if s.flatHeld e write l then
    l.foldl (fun t x => match x.p with
      | .window w o => t.freeWindow w o
      | _ => t) (s.performLines e.u.b e.u.w e.u.armB (l.filterMap fun x => x.key.map (· / 128)))
  else s

/-- The leaves of an access are cached (R394). -/
def State.fillTlbs (s : State) (e : Env) (l : List DWord) : State := l.foldl (fun s va => s.fillTlb (dataSide e.core) e.cx va) s

/-! ### Race checks of an access (R322) -/

/-- The first lane of a flat access whose granules hold another wave's write of its present epoch. -/
def State.raceTrap (s : State) (e : Env) (size : Nat) (l : List Lane) : Option Trap :=
  let me := s.idOf e.u.b e.u.w
  l.findSome? fun x =>
    match x.raceKey with
    | some k => if x.x.rc && (granules k size).any fun g => s.races me (sget 0 s.race g) then some { cause := 19, info := x.va } else none
    | none => none
/-- The records after the access passed its checks. -/
def State.raceTouch (s : State) (e : Env) (size : Nat) (write sync : Bool) (l : List Lane) : State :=
  let mark := s.raceMark e.u.b e.u.w
  l.foldl (fun s x => match x.raceKey with
    | some k => if x.x.rc then s.touchRace (granules k size) mark write sync else s
    | none => s) s

/-- The same for scratchpad bytes of a core, given by lane: (offset, core byte). -/
def State.raceTrapScr (s : State) (e : Env) (core size : Nat) (l : List (Nat × Nat)) : Option Trap :=
  if !e.ln.racing then none
  else
    let me := s.idOf e.u.b e.u.w
    l.findSome? fun x =>
      if (granules x.2 size).any fun g => s.races me (sget 0 (s.core core).raceScr g) then some { cause := 19, info := BitVec.ofNat 64 x.1 } else none
def State.raceTouchScr (s : State) (e : Env) (core size : Nat) (write sync : Bool) (l : List (Nat × Nat)) : State :=
  if !e.ln.racing then s
  else l.foldl (fun s x => s.touchRaceScr core (granules x.2 size) (s.raceMark e.u.b e.u.w) write sync) s

/-! ### Reading and writing lines (R227, R230, R232, R308) -/

/-- R227: stale bytes of a line are given up by eviction, at a free choice, before a load binds (log 10). -/
def State.l1Settle (s : State) (core key n : Nat) : State :=
  (granules key n).foldl (fun s g =>
    if (s.core core).l1Old.any (fun o => o.1 / 128 == g && s.byteAt o.1 != o.2) && s.pick (g % 4096) % 2 != 0 then
      s.modCore core fun c => { c with l1Old := c.l1Old.filter fun o => o.1 / 128 != g }
    else s) s

/-- n bytes read by a core, through its L1 where used; none where they are uncorrectable (R146).  A read that bypasses L1 leaves no older byte
in it (R311), and recalls an ownership, be it the core's own (R297). -/
def State.coreRead (s : State) (core : Nat) (l1 : Bool) (key n : Nat) : State × Option (List Byte) :=
  if s.badIn key n then (s, none)
  else
    let s1 := (s.memCorrect key n).predOther core (key / 128)
    if l1 then
      let s2 := s1.l1Settle core key n
      let old := (s2.core core).l1Old
      let out := (span key n).map fun k => ((old.find? fun o => o.1 == k).map fun o => o.2).getD (s2.byteAt k)
      (s2.modCore core fun c => (granules key n).foldl (fun c g => c.addLine (s.pick 4106) g) c, some out)
    else (((s.memCorrect key n).recall (granules key n)).modCore core fun c => c.sawHome (span key n), some (s1.bytesAt key n))

/-- R146, R230: stores of a core, by lane: (address reported, key, bytes), later lanes over earlier ones. -/
def State.coreWrite (s : State) (e : Env) (l : List (DWord × Nat × List Byte)) : State :=
  let cells := (l.map fun x => cellsAt x.2.1 x.2.2).flatten
  let bad := s.unmergeable cells
  let s1 := (l.filter fun x => (cellsAt x.2.1 x.2.2).any bad.contains).foldl (fun s x => s.reportAt e.u.b e.u.w 21 0 x.1 e.pc) s
  let s2 := l.foldl (fun s x => s.predOther 0xFFFF (x.2.1 / 128)) s1
  s2.putBytes (some e.core) (cells.filter fun c => !bad.contains c)

/-! ### Loads (R144, R146) -/

/-- R144: the register value of n loaded bytes. -/
def loadedValue (et : Nat) (l : List Byte) : DWord :=
  let x := BitVec.ofNat 64 (leNat l)
  if clsI et then intReg et (intVal et x) else x

/-- R427: who asks a peer for a lane of an instruction. -/
def Env.asker (e : Env) (lane res : Nat) : Asker := { b := e.u.b, w := e.u.w, lane := lane, res := res, site := e.pc, seq := e.ln.seq }

/-- One element of a load at its place: the state after, and its bits or cause, SUB and INFO of its failure (R146, R259, R424, R427). An
address that no rule gives to anything fails as an offset that no window serves (log 16). -/
def loadElem (e : Env) (l1 : Bool) (size : Nat) (s : State) (x : Lane) : State × Except (Nat × Nat × DWord) DWord :=
  match x.p with
  | .mem k =>
    match s.coreRead e.core (l1 && !x.x.rc) k size with
    | (t, some by') => (t, .ok (BitVec.ofNat 64 (leNat by')))
    | (t, none) => (t, .error (21, 0, x.va))
  | .peer w o =>
    let z := s.peerRead (s.importKey w o) size
    (z.2, .ok (BitVec.ofNat 64 (leNat z.1)))
  | .window w o =>
    if !s.windowOk w o size then (s, .error (3, 1, x.va))
    else match s.windowElem w o with
      | .error c => (s, .error (c.1, 0, winInfo (winRecord (s.window w)) c.2 c.1 x.va))
      | .ok v => (s.windowFix w o, .ok (BitVec.ofNat 64 (leNat (slice (leBytes 8 v.toNat) (o % 8) size))))
  | .hole _ => (s, .error (3, 1, x.va))

/-- What a load's lanes bind: the state after, the words, the reads from peers. -/
structure Loaded where
  s : State
  eff : Eff := {}
  peers : List Lane := []

/-- A lane whose read goes to a peer. -/
def Lane.peer (x : Lane) : Bool := match x.p with | .peer _ _ => true | _ => false

/-- One lane of a load: f places its value.  Each lane that fails makes one report of its own (R146 does not say how many there are: log 19). -/
def loadLane (e : Env) (l1 : Bool) (size : Nat) (f : Lane → DWord → Eff → Eff) (a : Loaded) (x : Lane) : Loaded :=
  match loadElem e l1 size a.s x with
  | (t, .ok v) => { s := t, eff := f x v a.eff, peers := if x.peer then a.peers ++ [x] else a.peers }
  | (t, .error c) => { a with s := t.reportAt e.u.b e.u.w c.1 c.2.1 c.2.2 e.pc }

/-- R427: the requests of lanes to their peers. -/
def State.askLanes (s : State) (e : Env) (kind res : Nat) (l : List (Lane × List Byte)) : State :=
  l.foldl (fun s x => match x.1.p with | .peer w o => s.askPeer (e.asker x.1.lane res) kind w o x.1.va x.2 | _ => s) s

/-- The outstanding result of a load, with the requests to peers that it waits for. -/
def finishLoad (e : Env) (bits : List Nat) (a : Loaded) : State :=
  if a.peers.isEmpty then e.asLoad bits (e.outstanding .plain a.eff bits 0 a.s)
  else (e.asLoad bits (e.outstanding (.peer 0) a.eff bits 0 a.s)).askLanes e 0 a.s.nextId (a.peers.map fun x => (x, []))

/-- The body of a flat load: addresses by lane, the mask bits of its destination, the placing of a value. -/
def flatLoad (size : Nat) (addr : Env → List (Nat × DWord)) (bits : Env → List Nat) (f : Env → Lane → DWord → Eff → Eff)
    (e : Env) (t : State) : Out :=
  match t.flatCheck e size false (addr e) with
  | .error x => .trap x
  | .ok l =>
    let t := t.settled e false l
    if t.flatHeld e false l then .hold 31
    else
      match t.raceTrap e size l with
      | some x => .trap x
      | none =>
        let t1 := (t.fillTlbs e (l.map (·.va))).raceTouch e size false false l
        .next (finishLoad e (bits e) (l.foldl (loadLane e true size (f e)) { s := t1 }))

/-- The addresses of the active lanes of `[kA + vB]`. -/
def flatAddrs (ka : KReg) (b : VReg) (e : Env) : List (Nat × DWord) := e.lanes.map fun i => (i, e.flat ka b i)

/-- R148: kA + 8 × B. -/
def kAddr (ka : KReg) (off : BitVec 8) (e : Env) : DWord := e.k ka + BitVec.ofNat 64 (8 * off.toNat)

def execLd (sw : Bool) (d : VReg) (ka : KReg) (b : VReg) (s : State) : Host.Outcome State Fault Refusal :=
  issue sw 4 (fun e => { pre := need (clsM e.et), vs := [e.dst d, one b], ks := [ka.toNat], guarded := true, mem := true })
    (fun e t => flatLoad (etBytes e.et) (flatAddrs ka b) (fun e => vbits d.toNat e.pair 1)
      (fun e x v f => { f with v := f.v ++ words e.pair d.toNat x.lane (loadedValue e.et (leBytes 8 (v.toNat % 2 ^ (8 * etBytes e.et)))) }) e t) s

def execLdk (sw : Bool) (kd ka : KReg) (off : BitVec 8) (s : State) : Host.Outcome State Fault Refusal :=
  issue sw 4 (fun _ => { ks := [kd.toNat, ka.toNat], mem := true })
    (flatLoad 8 (fun e => [(0, kAddr ka off e)]) (fun _ => [128 + kd.toNat]) (fun _ _ v f => { f with k := [(kd.toNat, v)] })) s

/-! ### Stores (R144, R147) -/

/-- The window that a lane reaches, and its offset. -/
def Lane.window (x : Lane) : Option (Nat × Nat) := match x.p with | .window w o => some (w, o) | _ => none
/-- R424: stores to windows, window by window: the lanes of a block that fails are reported. -/
def State.storeWindows (s : State) (e : Env) (l : List (Lane × List Byte)) : State :=
  let ws := ((l.filterMap fun x => x.1.window).map (·.1)).eraseDups
  ws.foldl (fun s w =>
    let mine := l.filterMap fun x => x.1.window.bind fun y => if y.1 == w && s.windowOk w y.2 x.2.length then some (x.1, y.2, x.2) else none
    let z := s.windowWrite (some (e.asker 0 0)) w ((mine.map fun x => cellsAt x.2.1 x.2.2).flatten)
    let wr := winRecord (s.window w)
    z.2.foldl (fun s f => (mine.filter fun x => (blockOf wr (x.2.1 / 8)).1 == f.1).foldl (fun s x =>
      s.reportAt e.u.b e.u.w f.2 0 (winInfo wr f.1 f.2 x.1.va) e.pc) s) z.1) s
/-- A lane reaches nothing: an address that no rule gives to anything, or an offset that its window does not serve (R424, log 16). -/
def State.nowhere (s : State) (n : Nat) (x : Lane) : Bool :=
  match x.p with | .hole _ => true | .window w o => !s.windowOk w o n | _ => false
/-- R146, R147, R424, R427: the stores of lanes, later lanes over earlier ones. -/
def State.storeLanes (s : State) (e : Env) (l : List (Lane × List Byte)) : State :=
  let t1 := s.coreWrite e (l.filterMap fun x => x.1.key.map fun k => (x.1.va, k, x.2))
  let t2 := l.foldl (fun s x => match x.1.p with | .peer w o => s.peerKnow (s.importKey w o) (x.2.map some) | _ => s) (t1.askLanes e 1 0 l)
  let t3 := (l.filter fun x => s.nowhere x.2.length x.1).foldl (fun s x => s.reportAt e.u.b e.u.w 3 1 x.1.va e.pc) t2
  t3.storeWindows e l

/-- The body of a flat store: the data bytes of a lane. -/
def flatStore (size : Nat) (addr : Env → List (Nat × DWord)) (data : Env → Nat → DWord) (e : Env) (t : State) : Out :=
  match t.flatCheck e size true (addr e) with
  | .error x => .trap x
  | .ok l =>
    let t := t.settled e true l
    if t.flatHeld e true l then .hold 31
    else
      match t.raceTrap e size l with
      | some x => .trap x
      | none =>
        let t1 := (t.fillTlbs e (l.map (·.va))).raceTouch e size true false l
        .next (t1.storeLanes e (l.map fun x => (x, leBytes size (data e x.lane).toNat)))

def execSt (sw : Bool) (ka : KReg) (b d : VReg) (s : State) : Host.Outcome State Fault Refusal :=
  issue sw 4 (fun e => { pre := need (clsM e.et), vs := [e.src d, one b], ks := [ka.toNat], guarded := true, mem := true })
    (fun e t => flatStore (etBytes e.et) (flatAddrs ka b) (fun e i => e.get d i) e t) s

def execStk (sw : Bool) (ka : KReg) (off : BitVec 8) (kd : KReg) (s : State) : Host.Outcome State Fault Refusal :=
  issue sw 4 (fun _ => { ks := [ka.toNat, kd.toNat], mem := true })
    (flatStore 8 (fun e => [(0, kAddr ka off e)]) (fun e _ => e.k kd)) s

/-- R306: no architectural effect; a line that R306 lets it bring into L1 is not brought there (log 10). -/
def execPref (sw : Bool) (_lvl : BitVec 1) (ka : KReg) (b : VReg) (s : State) : Host.Outcome State Fault Refusal :=
  issue sw 4 (fun _ => { vs := [one b], ks := [ka.toNat], guarded := true }) (fun _ t => .next t) s

/-! ### Scratchpad (R223, R268, R289, R290) -/

/-- R289: the block that a peer operand names. -/
def State.peerBlock (s : State) (e : Env) (ka : DWord) : Except Trap Nat :=
  match if ka.toNat < 16 then (s.gang e.blk.launch e.blk.gang).blocks.find? fun b => (s.block b).index == ka.toNat else none with
  | some b => .ok b
  | none => .error { cause := 13, info := ka }

/-- R223: alignment over every lane, then bounds; (lane, offset). -/
def State.scrCheck (s : State) (b size : Nat) (l : List (Nat × Nat)) : Option Trap :=
  match l.find? fun x => x.2 % size != 0 with
  | some x => some { cause := 2, info := BitVec.ofNat 64 x.2 }
  | none =>
    match l.find? fun x => x.2 + size > s.allocation (s.block b) with
    | some x => some { cause := 13, info := BitVec.ofNat 64 x.2 }
    | none => none

/-- One lane of a scratchpad load: (lane, offset, core byte). -/
def scrLoadLane (e : Env) (core size d : Nat) (a : State × Eff) (x : Nat × Nat × Nat) : State × Eff :=
  if a.1.computeIn core x.2.2 size then
    (a.1, { a.2 with v := a.2.v ++ words e.pair d x.1 0, flags := a.2.flags ||| fBusy })
  else if a.1.scrBad core x.2.2 size then (a.1.reportAt e.u.b e.u.w 21 0 (BitVec.ofNat 64 x.2.1) e.pc, a.2)
  else
    let t := a.1.scrCorrectAll core (span x.2.2 size)
    (t, { a.2 with v := a.2.v ++ words e.pair d x.1 (loadedValue e.et (t.scrBytes core x.2.2 size)) })

/-- A scratchpad load from block b: offsets by lane. -/
def scrLoad (d : VReg) (e : Env) (b : Nat) (offs : List (Nat × Nat)) (t : State) : Out :=
  let size := etBytes e.et
  let core := (t.block b).core
  let l := offs.map fun x => (x.1, x.2, (t.block b).coreByte x.2)
  match t.scrCheck b size offs with
  | some x => .trap x
  | none =>
    if t.switching core (l.map fun x => x.2.2) then .hold 9
    else
      match t.raceTrapScr e core size (l.map fun x => x.2) with
      | some x => .trap x
      | none =>
        let r := l.foldl (scrLoadLane e core size d.toNat) (t.raceTouchScr e core size false false (l.map fun x => x.2), {})
        .next (e.asLoad [] (e.outstanding (if b == e.u.b then .scratch else .plain) r.2 (vbits d.toNat e.pair 1) 0 r.1))

/-- A scratchpad store to block b, once the arm's copies have captured (R334); own: a compute-mode bank traps, elsewhere it discards and reports (R268). -/
def scrStore (own : Bool) (data : Nat → DWord) (e : Env) (b : Nat) (offs : List (Nat × Nat)) (t : State) : Out :=
  let size := etBytes e.et
  let core := (t.block b).core
  let l := offs.map fun x => (x.1, x.2, (t.block b).coreByte x.2)
  match t.scrCheck b size offs with
  | some x => .trap x
  | none =>
    if t.capturing e.u.b e.u.w e.u.armB then .hold 31
    else if t.switching core (l.map fun x => x.2.2) then .hold 9
    else
      match if own then l.find? fun x => t.computeIn core x.2.2 size else none with
      | some x => .trap { cause := 14, info := BitVec.ofNat 64 (x.2.1 + ((t.firstCompute core x.2.2 size).getD x.2.2 - x.2.2)) }
      | none =>
        match t.raceTrapScr e core size (l.map fun x => x.2) with
        | some x => .trap x
        | none =>
          let t1 := t.raceTouchScr e core size true false (l.map fun x => x.2)
          let go := l.filter fun x => !t1.computeIn core x.2.2 size
          let cells := (go.map fun x => cellsAt x.2.2 (leBytes size (data x.1).toNat)).flatten
          let bad := t1.scrUnmergeable core cells
          let t2 := (l.filter fun x => t1.computeIn core x.2.2 size).foldl (fun s x => s.reportAt e.u.b e.u.w 14 0 (BitVec.ofNat 64 x.2.1) e.pc) t1
          let t3 := (go.filter fun x => (span x.2.2 size).any fun a => bad.any fun c => c.1 == a).foldl
            (fun s x => s.reportAt e.u.b e.u.w 21 0 (BitVec.ofNat 64 x.2.1) e.pc) t2
          .next (t3.scrPut core (cells.filter fun c => !bad.any fun x => x.1 == c.1))

/-- R289: vA + 4 × B, without wrap. -/
def ownOffs (a : VReg) (off : BitVec 8) (e : Env) : List (Nat × Nat) := e.lanes.map fun i => (i, (e.word a i).toNat + 4 * off.toNat)
/-- R289: vB in a peer's scratchpad. -/
def peerOffs (b : VReg) (e : Env) : List (Nat × Nat) := e.lanes.map fun i => (i, (e.word b i).toNat)

def execLds (sw : Bool) (d a : VReg) (off : BitVec 8) (s : State) : Host.Outcome State Fault Refusal :=
  issue sw 4 (fun e => { pre := need (clsM e.et), vs := [e.dst d, one a], guarded := true, mem := true })
    (fun e t => scrLoad d e e.u.b (ownOffs a off e) t) s
def execSts (sw : Bool) (a : VReg) (off : BitVec 8) (d : VReg) (s : State) : Host.Outcome State Fault Refusal :=
  issue sw 4 (fun e => { pre := need (clsM e.et), vs := [e.src d, one a], guarded := true, mem := true })
    (fun e t => scrStore true (fun i => e.get d i) e e.u.b (ownOffs a off e) t) s
def execLdp (sw : Bool) (d : VReg) (ka : KReg) (b : VReg) (s : State) : Host.Outcome State Fault Refusal :=
  issue sw 4 (fun e => { pre := need (clsM e.et), vs := [e.dst d, one b], ks := [ka.toNat], guarded := true, mem := true })
    (fun e t => match t.peerBlock e (e.k ka) with
      | .error x => .trap x
      | .ok k => scrLoad d e k (peerOffs b e) t) s
def execStp (sw : Bool) (ka : KReg) (b d : VReg) (s : State) : Host.Outcome State Fault Refusal :=
  issue sw 4 (fun e => { pre := need (clsM e.et), vs := [e.src d, one b], ks := [ka.toNat], guarded := true, mem := true })
    (fun e t => match t.peerBlock e (e.k ka) with
      | .error x => .trap x
      | .ok k => scrStore false (fun i => e.get d i) e k (peerOffs b e) t) s

end Sys2Proof.Machine
end

