-- ==== Sys2Proof/Machine/Arrays.lean ====
section
/-! DEFINITION. Compute arrays: bank modes, matrix passes, drains, packing, calibration, and the array arbiter (R88, R89, R218,
R219, R231, R233, R266 to R287). -/
namespace Sys2Proof.Machine

/-! ### Temperatures and calibration (R275, R277, R442) -/

/-- R442: Tj of a unit: its highest valid reading, or CRIT where none is valid. -/
def State.tj (s : State) (unit : Nat) : Int :=
  let l := (s.dev.sensors.filter fun x => x.1 / 32 == unit && x.2.1).map fun x => x.2.2.toInt
  match l with
  | [] => ((s.thrOf unit).extractLsb' 32 16).toInt
  | x :: t => t.foldl max x

/-- R229: the failing codewords of a core, as bytes of a bank: every codeword of a bank has a byte in each bank. -/
def Core.failWords (c : Core) (i : Nat) : List Nat := c.scrFail.map fun w => i * 65536 + w % 16384 * 4
/-- R277: a bank is calibrated; every corrected codeword of it is rewritten. -/
def State.calibrate (s : State) (core i : Nat) : State :=
  let t := s.modBank core i fun k => { k with calibrated := true, calTemp := some (BitVec.ofInt 16 (s.tj (core / 64))), calAt := s.raw }
  t.scrCorrectAll core ((s.core core).failWords i)
/-- R277: a bank's calibration is current: made since its die's reset, and less than 10 ms ago or within 2.0 °C of CALTEMP. -/
def State.current (s : State) (core i : Nat) : Bool :=
  let k := s.bank core i
  k.calibrated && (s.raw < k.calAt + 1000000 || (match k.calTemp with | some t => (s.tj (core / 64) - t.toInt).natAbs ≤ 8 | none => false))

/-- R275: E. -/
def codeBound (tj : Int) (rep : Nat) : Nat :=
  let hot := [4, 3, 2, 2, 1]
  if tj ≤ 340 then [3, 2, 2, 1, 1].getD rep 1 else if tj ≤ 420 then hot.getD rep 1 else hot.getD rep 1 + 1

/-! ### The arbiter (R218, R219, R279) -/

/-- R266: the block owns a bank. -/
def Env.owns (e : Env) (i : Nat) : Bool := e.ln.granules ≥ 16 * (i + 1)
/-- The lowest named bank that the block does not own. -/
def unowned (e : Env) (banks : BitVec 8) : Option Nat := (bitsOf banks).find? fun i => !e.owns i
def bankTrap (cause i : Nat) : Trap := { cause := cause, info := BitVec.ofNat 64 (65536 * i) }
def oneBank (i : Nat) : BitVec 8 := 1#8 <<< i

/-- R218: room for one more entry. -/
def State.arbFull (s : State) (core : Nat) : Bool := (s.core core).arb.length ≥ 32

/-- R279: an entry of the issuing wave; no instruction names the check bank. -/
def State.addEntry (s : State) (e : Env) (code : Instr) (ka : DWord) (op : ArrOp) (banks tiles : BitVec 8) (cls len : Nat) : State :=
  let x : ArbEntry :=
    { id := s.nextId, b := e.u.b, w := e.u.w, armB := e.u.armB, op := op, banks := banks.setWidth 9, tiles := tiles, cls := cls, length := len,
      mode := e.arm.mode, act := e.act &&& lowMask e.ln.lanes, site := e.pc,
      code := (encode code).getD [], ka := ka }
  { s.modCore e.core fun c => { c with arb := c.arb ++ [x] } with nextId := s.nextId + 1 }

/-- R278: the tiles that the mask words of the current mask use, or the word that leaves the range; a mask word with no lane in the current
mask is none of its words (log 31). -/
def tileSet (e : Env) (t f : Nat) : Except Nat (BitVec 8) :=
  let ws := (List.range 32).filter fun w => (e.arm.mask &&& lowMask e.ln.lanes) &&& ((0xFFFFFFFF#1024) <<< (32 * w)) != 0
  match ws.find? fun w => t + w * f + f > 8 with
  | some w => .error w
  | none => .ok ((ws.filter fun w => e.lanes.any fun i => i / 32 == w).foldl (fun m w => (span (t + w * f) f).foldl (fun m i => m ||| oneBank i) m) 0)

/-- Form of an array instruction. -/
def arrForm (legal : Env → Bool) (vs : Env → List VOp) (ks : List KReg) (guarded : Bool) (e : Env) : Form :=
  { pre := need (e.ln.arrays && legal e), vs := vs e, ks := ks.map (·.toNat), guarded := guarded, mem := true }

/-! ### Checks of regions (R270, R273, R280) -/

/-- The first offset of a region that lies outside the allocation. -/
def pastEnd (lim o n : Nat) : Option Nat := if o + n > lim then some (max o lim) else none
/-- The first offset of a region in a bank that f names. -/
def firstIn (f : Nat → Bool) (o n : Nat) : Option Nat :=
  if n == 0 then none
  else ((List.range ((o + n - 1) / 65536 - o / 65536 + 1)).find? fun j => f (o / 65536 + j)).map fun j => max o ((o / 65536 + j) * 65536)

/-- Exponent tables of the named banks: offset and size. -/
def expTables (banks : BitVec 8) (ww expofs : Nat) : List (Nat × Nat) := (bitsOf banks).map fun i => (256 * expofs + 1024 * i, 2048 / ww)
def widthOf (ww : Nat) : Nat := 2 ^ (ww + 1)

/-- R270, R361: the inbox regions of a block, landing slots included, as offset and size. -/
def State.inboxRegions (s : State) (b : Nat) : List (Nat × Nat) :=
  match (s.launch (s.block b).launch).graph with
  | none => []
  | some g => (s.block b).inboxes.map fun i =>
    let p := (s.graph g).port i.port
    (p.inbox, (p.ring + (s.launch (s.block b).launch).waves) * p.entryBytes)

/-- R231: BANK_LOST of a switch of lost banks to compute mode. -/
def State.lostTrap (s : State) (core : Nat) (banks : BitVec 8) : Option Trap :=
  if banks.setWidth 9 &&& (s.core core).lost != 0 then some { cause := 15, info := banks.setWidth 64 } else none
/-- R281: the checks of `amode` before the modes of the banks that its table lies in. -/
def amodeTrap (e : Env) (t : State) (banks : BitVec 8) (toC : Bool) (ww expofs : Nat) : Option Trap :=
  match unowned e banks with
  | some i => some (bankTrap 13 i)
  | none =>
    if !toC then none
    else if (t.lostTrap e.core banks).isSome then t.lostTrap e.core banks
    else
      (least ((expTables banks (widthOf ww) expofs).filterMap fun x => pastEnd (t.allocation e.blk) x.1 x.2)).map fun o =>
        { cause := 13, info := BitVec.ofNat 64 o }
/-- R269: an `amode` of the block is switching a bank that the exponent table lies in: the table is read, and its bank's mode checked,
after that switch. -/
def tableHeld (e : Env) (t : State) (banks : BitVec 8) (toC : Bool) (ww expofs : Nat) : Bool :=
  toC && t.switching e.core ((expTables banks (widthOf ww) expofs).map fun x => [x.1, x.1 + x.2 - 1]).flatten
/-- R273, R281: the modes of the table's banks, then the inbox regions. -/
def amodeModeTrap (e : Env) (t : State) (banks : BitVec 8) (toC : Bool) (ww expofs : Nat) : Option Trap :=
    if !toC then none
    else
        let tabs := expTables banks (widthOf ww) expofs
        match least (tabs.filterMap fun x => firstIn (fun i => banks.getLsbD i || (t.bank e.core i).compute) x.1 x.2) with
        | some o => some { cause := 14, info := BitVec.ofNat 64 o }
        | none =>
          match least ((t.inboxRegions e.u.b).filterMap fun x => firstIn (fun i => banks.getLsbD i) x.1 x.2) with
          | some o => some { cause := 14, info := BitVec.ofNat 64 o }
          | none => none

/-- R281: `amode`: the entry's Length is settled at its issue, from the banks' modes and calibrations then (log 31). -/
def execAmode (sw : Bool) (banks : BitVec 8) (toC : Bool) (ww : BitVec 2) (expofs : BitVec 11) (s : State) : Host.Outcome State Fault Refusal :=
  issue sw 8 (arrForm (fun _ => true) (fun _ => []) [] false) (fun e t =>
    match amodeTrap e t banks toC ww.toNat expofs.toNat with
    | some x => .trap x
    | none =>
      if tableHeld e t banks toC ww.toNat expofs.toNat then .hold 9
      else
      match amodeModeTrap e t banks toC ww.toNat expofs.toNat with
      | some x => .trap x
      | none =>
      if t.arbFull e.core then .hold 8
      else
        let cal := toC && (bitsOf banks).any fun i => !(t.bank e.core i).compute && !t.current e.core i
        let t1 := t.addEntry e (.amode sw banks toC ww expofs) 0 (.amode banks toC (widthOf ww.toNat) expofs.toNat) banks 0 1 (if cal then 160 else 32)
        .placed (t1.modArm e.u fun a => { a with st := .amode t.nextId, lastIssue := t.ticks, reason := 20, skipBp := false })) s

/-! ### Issue of the other entries -/

/-- The fields of an operand record (R282). -/
def recBase (x : DWord) : Nat := (x.extractLsb' 0 19).toNat
def recExtent (x : DWord) : Nat := (x.extractLsb' 32 20).toNat

/-- R387: an uncorrectable tile word among the rows and columns that a pass reads. -/
def tileTrap (c : Core) (e : Env) (t f lo n : Nat) : Option Trap :=
  if c.badTiles.isEmpty then none
  else
    (least (c.badTiles.filter fun k =>
      e.lanes.any fun i => k / 8192 ≥ t + i / 32 * f && k / 8192 < t + i / 32 * f + f && k / 256 % 32 == i % 32 && lo ≤ k % 256 && k % 256 < lo + n)).map fun k =>
      { cause := 21, info := BitVec.ofNat 64 (0x80000000 + k / 8192 * 65536 + k % 8192) }

def mmacBody (code : Instr) (tl : TReg) (ka : KReg) (bank : BitVec 3) (gain : BitVec 4) (rep : BitVec 3) (e : Env) (t : State) : Out :=
  let rec' := e.k ka
  let b := bank.toNat
  let k := t.bank e.core b
  let wx := e.et - 15
  let sz := 32 * wx + 8
  let regionBanks := (bitsOf 0xFF#8).filter fun i => recExtent rec' > 0 && recBase rec' / 65536 ≤ i && i ≤ (recBase rec' + recExtent rec' - 1) / 65536
  let f := 2048 / k.ww / 256
  if rec' &&& 0xFFF00000FFF80000#64 != 0 then .trap illegal
  else if !e.owns b then .trap (bankTrap 13 b)
  else if t.switching e.core ((b :: regionBanks).map (· * 65536)) then .hold 9
  else if !k.compute then .trap (bankTrap 14 b)
  else if recBase rec' % 8 != 0 then .trap { cause := 2, info := BitVec.ofNat 64 (recBase rec') }
  else
    match pastEnd (t.allocation e.blk) (recBase rec') (recExtent rec') with
    | some o => .trap { cause := 13, info := BitVec.ofNat 64 o }
    | none =>
      match tileSet e tl.toNat f with
      | .error w => .trap { cause := 16, info := BitVec.ofNat 64 w }
      | .ok tiles =>
        match e.lanes.find? fun i => (i + 1) * sz > recExtent rec' with
        | some i => .trap { cause := 13, info := BitVec.ofNat 64 (recBase rec' + max (recExtent rec') (i * sz)) }
        | none =>
          match tileTrap (t.core e.core) e tl.toNat f 0 256 with
          | some x => .trap x
          | none =>
            if e.lanes.isEmpty then .next t
            else if t.arbFull e.core then .hold 8
            else
              let c := if rep == 5 then 4 * k.ww else 2 ^ rep.toNat
              .next (t.addEntry e code (e.k ka) (.mmac tl.toNat b gain.toNat rep.toNat rec') (oneBank b) tiles 1 (e.lanes.length * wx * c * f + 4))

def execMmac (sw : Bool) (tl : TReg) (ka : KReg) (bank : BitVec 3) (gain : BitVec 4) (rep : BitVec 3) (s : State) : Host.Outcome State Fault Refusal :=
  issue sw 8 (arrForm (fun e => 17 ≤ e.et && e.et ≤ 23) (fun _ => []) [ka] true) (mmacBody (.mmac sw tl ka bank gain rep) tl ka bank gain rep) s

def execMzero (sw : Bool) (tl : TReg) (s : State) : Host.Outcome State Fault Refusal :=
  issue sw 8 (arrForm (fun _ => true) (fun _ => []) [] false) (fun e t =>
    if t.arbFull e.core then .hold 8 else .next (t.addEntry e (.mzero sw tl) 0 (.mzero tl.toNat) 0 (oneBank tl.toNat) 1 16)) s

/-- R284: formats by target. -/
def drainFmt (tgt t : Nat) : Bool := if tgt == 2 then t == 8 || t == 10 || t == 11 else t == 0 || t == 1 || (4 ≤ t && t ≤ 8) || t == 10 || t == 11 || t == 14 || t == 15

/-- R284, R429: the target's own checks; fault1 is the lowest offset that fails (R280). -/
def drainTrap (d : VReg) (tgt : Nat) (fmt : Nat) (e : Env) (t : State) : Option Trap :=
  let off := fun (i : Nat) => (e.word d i).toNat
  let n := 256 * etBytes fmt
  if tgt == 1 then
    match least ((e.lanes.map off).filter fun o => o % 8 != 0) with
    | some o => some { cause := 2, info := BitVec.ofNat 64 o }
    | none =>
      match least (e.lanes.filterMap fun i => pastEnd (t.allocation e.blk) (off i) n) with
      | some o => some { cause := 13, info := BitVec.ofNat 64 o }
      | none =>
        match least (e.lanes.filterMap fun i => firstIn (fun b => (t.bank e.core b).compute) (off i) n) with
        | some o => some { cause := 14, info := BitVec.ofNat 64 o }
        | none => none
  else if tgt == 2 then
    let coll := fun (i : Nat) => off i / 2 ^ 24
    let desc := fun (i : Nat) => e.cx.colls.find? fun c => c.1 == coll i
    match e.lanes.find? fun i => match desc i with | some c => c.2.fmt != fmt | none => true with
    | some i => some { cause := 17, info := BitVec.ofNat 64 (coll i) }
    | none =>
      match e.lanes.find? fun i => match desc i with | some c => off i % 2 ^ 24 ≥ c.2.nblk | none => false with
      | some i => some { cause := 18, info := BitVec.ofNat 64 (off i % 2 ^ 24) }
      | none => none
  else none

def mdrainBody (code : Instr) (d : VReg) (tl : TReg) (cntm1 : BitVec 5) (col : BitVec 8) (zero : Bool) (tgt : BitVec 2) (slot : SlotNo) (e : Env) (t : State) : Out :=
  let cnt := cntm1.toNat + 1
  let fmt := slotFmt (e.slot slot)
  match tileSet e tl.toNat 1 with
  | .error w => .trap { cause := 16, info := BitVec.ofNat 64 w }
  | .ok tiles =>
    if tgt == 1 && t.switching e.core ((e.lanes.map fun i => [(e.word d i).toNat, (e.word d i).toNat + 256 * etBytes fmt - 1]).flatten) then .hold 9
    else
      match drainTrap d tgt.toNat fmt e t with
      | some x => .trap x
      | none =>
        match tileTrap (t.core e.core) e tl.toNat 1 (if tgt == 0 then col.toNat else 0) (if tgt == 0 then cnt else 256) with
        | some x => .trap x
        | none =>
          if e.lanes.isEmpty then .next t
          else if t.arbFull e.core then .hold 8
          else
            let offs := if tgt == 0 then [] else e.lanes.map fun i => (i, e.word d i)
            let len := 4 + (e.lanes.length * (if tgt == 0 then cnt else 256) + 63) / 64
            let t1 := t.addEntry e code 0 (.mdrain d.toNat tl.toNat cnt col.toNat zero tgt.toNat slot.toNat offs) 0 tiles 1 len
            .next (if tgt == 0 then e.outstanding (.drain t.nextId) {} (vbits d.toNat false cnt) 0 t1 else t1)

def execMdrain (sw : Bool) (d : VReg) (tl : TReg) (cntm1 : BitVec 5) (col : BitVec 8) (zero : Bool) (tgt : BitVec 2) (slot : SlotNo) (s : State) :
    Host.Outcome State Fault Refusal :=
  issue sw 8
    (arrForm (fun e => e.et == 8 && slotOk (e.slot slot) && slotScale (e.slot slot) == 0 && drainFmt tgt.toNat (slotFmt (e.slot slot)))
      (fun _ => [if tgt == 0 then { r := d.toNat, n := cntm1.toNat + 1, dest := true } else one d]) [] true)
    (mdrainBody (.mdrain sw d tl cntm1 col zero tgt slot) d tl cntm1 col zero tgt slot) s

def mpackBody (code : Instr) (ka : KReg) (bank : BitVec 3) (e : Env) (t : State) : Out :=
  let src := recBase (e.k ka)
  let b := bank.toNat
  if (e.k ka) >>> 19 != 0 then .trap illegal
  else if !e.owns b then .trap (bankTrap 13 b)
  else
    match least ((pastEnd (t.allocation e.blk) src 65536).toList ++ (firstIn (fun i => i == b) src 65536).toList) with
    | some o => .trap { cause := 13, info := BitVec.ofNat 64 o }
    | none =>
        if src % 128 != 0 then .trap { cause := 2, info := BitVec.ofNat 64 src }
        else if t.switching e.core [b * 65536, src, src + 65535] then .hold 9
        else if (t.bank e.core b).compute then .trap (bankTrap 14 b)
        else if t.arbFull e.core then .hold 8
        else .next (t.addEntry e code (e.k ka) (.mpack b src) (oneBank b) 0 1 512)

def execMpack (sw : Bool) (ka : KReg) (bank : BitVec 3) (s : State) : Host.Outcome State Fault Refusal :=
  issue sw 8 (arrForm (fun e => e.et == 17 || e.et == 19 || e.et == 23) (fun _ => []) [ka] false) (mpackBody (.mpack sw ka bank) ka bank) s

/-- R286: `mcal`: the banks in compute mode are those at its issue (log 31). -/
def execMcal (sw : Bool) (banks : BitVec 8) (s : State) : Host.Outcome State Fault Refusal :=
  issue sw 8 (arrForm (fun _ => true) (fun _ => []) [] false) (fun e t =>
    match unowned e banks with
    | some i => .trap (bankTrap 13 i)
    | none =>
      if t.arbFull e.core then .hold 8
      else
        let on := (bitsOf banks).filter fun i => (t.bank e.core i).compute
        .next (t.addEntry e (.mcal sw banks) 0 (.mcal (on.foldl (fun m i => m ||| oneBank i) 0)) (on.foldl (fun m i => m ||| oneBank i) 0) 0 0 128)) s

/-- R287: a calibration entry that covers a bank is pending or running. -/
def Core.calRun (c : Core) (i : Nat) : Bool := c.arb.any fun x => match x.op with | .mcal m => m.getLsbD i | _ => false
/-- R287: the snapshot of a bank. -/
def mstatValue (t : State) (core i : Nat) : DWord :=
  let k := t.bank core i
  let arb := (t.core core).arb
  let cal := (t.core core).calRun i
  let busy := arb.any fun x => x.granted && x.banks.getLsbD i
  let swi := t.switching core [65536 * i]
  let temp := (k.calTemp.getD (Config.calTempFuse (core * 8 + i))).toNat
  let age := min 0xFFFF ((t.raw - k.calAt) / 1000)
  BitVec.ofNat 64 (temp * 2 ^ 48 + age * 2 ^ 32 + (Config.offTrim (core * 8 + i)).toNat * 2 ^ 24 + (Config.gainTrim (core * 8 + i)).toNat * 2 ^ 16 +
    bit ((t.core core).lost.getLsbD i) 7 + bit (t.current core i) 6 + bit cal 5 + bit busy 4 + (if k.ww == 8 then 8 else if k.ww == 4 then 4 else 0) +
    bit swi 1 + bit k.compute 0)

def execMstat (sw : Bool) (kd : KReg) (bank : BitVec 3) (s : State) : Host.Outcome State Fault Refusal :=
  issue sw 8 (arrForm (fun _ => true) (fun _ => []) [kd] false) (fun e t =>
    if !e.owns bank.toNat then .trap (bankTrap 13 bank.toNat)
    else .next (e.outstanding .plain { k := [(kd.toNat, mstatValue t e.core bank.toNat)] } [128 + kd.toNat] 0 t)) s

/-! ### Grants (R219, R269, R277) -/

/-- Entries older than one, by age. -/
def olderThan (l : List ArbEntry) (x : ArbEntry) : List ArbEntry := l.filter fun y => y.id < x.id
/-- R269: an `amode` waits for the accesses issued before it: entries, copies of the block, and results read from its scratchpad and arrays
that are not written yet (log 31). -/
def State.amodeReady (s : State) (core : Nat) (x : ArbEntry) : Bool :=
  (olderThan (s.core core).arb x).isEmpty && !((s.core core).copies.any fun c => c.b == x.b && c.id < x.id) &&
  (s.block x.b).waves.all fun v => v.outst.all fun r => r.id > x.id || (match r.kind with | .scratch => false | .drain _ => false | _ => true)
def ArbEntry.isAmode (x : ArbEntry) : Bool := match x.op with | .amode _ _ _ _ => true | _ => false
/-- R219: x comes before y in the order of (class, age). -/
def ArbEntry.before (x y : ArbEntry) : Bool := x.cls < y.cls || (x.cls == y.cls && x.id < y.id)
/-- R219: y is granted and took a gap ahead of the older waiting x: it ends before x starts. -/
def ArbEntry.passed (y x : ArbEntry) : Bool := y.granted && x.id < y.id && x.cls ≤ y.cls
/-- R219: what the waiting y cannot start before the end of: a granted entry on one of its banks or in a gap ahead of it, an older entry
on a common tile, an older switch of one of its banks; of a switch, every older entry (R269). -/
def ArbEntry.waitsFor (l : List ArbEntry) (y : ArbEntry) : List ArbEntry :=
  l.filter fun h => h.id != y.id && ((h.granted && (h.banks &&& y.banks != 0 || h.passed y)) ||
    (h.id < y.id && (y.isAmode || h.tiles &&& y.tiles != 0 || (h.isAmode && h.banks &&& y.banks != 0))))
/-- R219: the younger x may take a gap ahead of the waiting entries before it in the order, oldest first: it is no longer than an entry
that each of them waits for, or that the oldest waits for where another waits for its turn alone (log 31). -/
def ArbEntry.fits (l : List ArbEntry) (x : ArbEntry) : List ArbEntry → Bool
  | [] => true
  | y :: t =>
    let room := fun (z : ArbEntry) => (z.waitsFor l).any fun h => x.length ≤ h.length
    room y && t.all fun z => room z || (z.waitsFor l).isEmpty
/-- R219: the younger y of class 0 waits for a switch that is no younger than x. -/
def ArbEntry.behindSwitch (l : List ArbEntry) (x y : ArbEntry) : Bool :=
  l.any fun z => !z.granted && z.isAmode && x.id ≤ z.id && z.id < y.id && z.banks &&& y.banks != 0
/-- R219, R269: free banks; no older entry on a common tile, no older waiting switch of one of its banks; nothing that took a gap ahead
of it still runs; no waiting entry before it in the order shares a bank with it, unless that entry itself waits for a switch, or could
start before its end. -/
def State.grantable (s : State) (core : Nat) (x : ArbEntry) : Bool :=
  let l := (s.core core).arb
  !x.granted &&
  !l.any (fun y => y.granted && (y.banks &&& x.banks != 0 || y.passed x)) &&
  !(olderThan l x).any (fun y => y.tiles &&& x.tiles != 0 || (!y.granted && y.isAmode && y.banks &&& x.banks != 0)) &&
  !l.any (fun y => !y.granted && y.before x && x.id < y.id && y.banks &&& x.banks != 0 && !x.behindSwitch l y) &&
  x.fits l (l.filter fun y => !y.granted && y.before x && y.id < x.id) &&
  (!x.isAmode || s.amodeReady core x)
/-- R277: an analog pass on a bank whose calibration is not current. -/
def State.staleCal (s : State) (core : Nat) (x : ArbEntry) : Option Nat :=
  match x.op with
  | .mmac _ b _ rep _ => if rep == 5 || s.current core b then none else some b
  | _ => none
/-- R277, R279: a calibration entry that no instruction issued, of a bank of block b's core; w is past the block's waves where firmware asks. -/
def State.calEntry (s : State) (b w : Nat) (bank : Nat) (granted : Bool) : ArbEntry :=
  { id := s.nextId, b := b, w := w, armB := false, op := .mcal (oneBank bank), banks := (oneBank bank).setWidth 9, tiles := 0, cls := 0, length := 128,
    granted := granted, mode := 0, act := 0, site := 0, code := (encode (.mcal false (oneBank bank))).getD [] }

/-- The event ARBITER_GRANT: the first grantable entry in the order of class and age; a stale bank gets its calibration first, within
the entry's own grant where the table is full (log 31). -/
def execArbiterGrant (core : Nat) (s : State) : Host.Outcome State Fault Refusal :=
  let l := (s.core core).arb
  let order := (l.filter fun x => x.cls == 0) ++ l.filter fun x => x.cls != 0
  let start := fun (t : State) (x : ArbEntry) =>
    t.modCore core fun c => { c with arb := c.arb.map fun y => if y.id == x.id then { y with granted := true, hot := t.tj (core / 64) } else y }
  match order.find? (s.grantable core) with
  | none => .next s
  | some x =>
    match s.staleCal core x with
    | some b =>
      if s.arbFull core then .next (start (s.calibrate core b) x)
      else .next { s.modCore core fun c => { c with arb := c.arb ++ [s.calEntry x.b x.w b true] } with nextId := s.nextId + 1 }
    | none => .next (start s x)

/-! ### The passes -/

/-- An MX read of one scratchpad byte: 0 from a compute-mode bank (R268). -/
def State.mxByte (s : State) (core a : Nat) : Byte := if s.inCompute core a then 0 else s.scrByte core a
/-- R230: no word of the core fails and no bank is lost: every codeword reads as it is. -/
def Core.scrGood (c : Core) : Bool := c.scrFail.isEmpty && c.lost == 0
/-- R230, R268: the codewords that an MX read of core bytes reads are corrected and counted. -/
def State.mxFix (s : State) (core a n : Nat) : State :=
  if (s.core core).scrGood then s else s.scrCorrectAll core ((span a n).filter fun x => !s.inCompute core x)
/-- R230: the uncorrectable ones among core bytes that an MX read reads. -/
def State.mxBad (s : State) (core a n : Nat) : List Nat :=
  if (s.core core).scrGood then [] else (span a n).filter fun x => !s.inCompute core x && (s.core core).uncorrectable x

/-- R272: the weight Mw(k, n) of a bank. -/
def weightAt (bytes : Nat → Byte) (ww k n : Nat) : Int :=
  let cols := 2048 / ww
  let bitAt := fun b => let c := b * cols + n; (bytes (256 * k + c / 8)).getLsbD (c % 8)
  (List.range ww).foldl (fun (a : Int) b => a + (if bitAt b then (if b + 1 == ww then -(2 ^ b : Int) else 2 ^ b) else 0)) 0

/-- R274, R275: the converter's code for a charge sum. -/
def analogCode (c : Int) (gain bound : Nat) (dev : Int) : Int :=
  let q := max (-128) (min 127 ((2 * c + 2 ^ gain) / 2 ^ (gain + 1)))
  max (-128) (min 127 (q + max (-(bound : Int)) (min bound dev)))

/-- R88 steps 1 to 5 for one column, from the plane values: the vector's exponent, the column's, the accumulator.  FZ acts in step 4
only, which alone names it (log 39). -/
def mmacElem (wx ww rm : Nat) (fz : Bool) (planes : List Int) (ex ew : Nat) (acc : Word) : Word × BitVec 8 :=
  let p := ((List.range wx).zip planes).foldl (fun (a : Int) b => a + (if b.1 + 1 == wx then -(2 ^ b.1 : Int) else 2 ^ b.1) * b.2) 0
  let v : DWord × BitVec 8 :=
    if ex == 255 || ew == 255 then (0x7FC00000, 0)
    else (let z := pack (fmtOf 8) rm fz false false (.fin (decide (p < 0)) p.natAbs ((ex : Int) + ew - 254 - (wx - 1 : Nat) - (ww - 1 : Nat))); (BitVec.ofNat 64 z.1, z.2))
  let r := fpAdd (fmtOf 8) rm false false (acc.setWidth 64) v.1
  (r.1.setWidth 32, v.2 ||| r.2)

/-- R88, R274: the charge sum of one bit plane of the aligned mantissas over a column. -/
def chargeSum (xs : List Int) (ws : Nat → Int) (b : Nat) : Int :=
  ((List.range 256).zip xs).foldl (fun (a : Int) x => a + (if (x.2 / 2 ^ b) % 2 == 1 then ws x.1 else 0)) 0

/-- R387: the tile words that f names are read: single-bit errors among them are corrected and counted. -/
def State.readTiles (s : State) (core : Nat) (f : Nat → Bool) : State :=
  let l := (s.core core).softTiles.filter f
  if l.isEmpty then s
  else
    (s.modCore core fun c => { c with softTiles := c.softTiles.filter fun k => !f k }).collect
      { type := 1, die := core / 64, place := core % 64, time := s.timeOf 8, payload := leBytes 8 l.length }
/-- One lane of an `mmac` entry. -/
def State.mmacLane (s : State) (core : Nat) (x : ArbEntry) (t bank gain rep : Nat) (rec' : DWord) (bound lane : Nat) : State × BitVec 8 :=
  let k := s.bank core bank
  let wx := modeET x.mode - 15
  let sz := 32 * wx + 8
  let at' := (s.block x.b).coreByte (recBase rec' + lane * sz)
  let bad := !(s.mxBad core at' sz).isEmpty
  let s := s.mxFix core at' sz
  if bad then
    (s.reportAt x.b x.w 21 0 (BitVec.ofNat 64 (recBase rec' + lane * sz)) x.site, 0)
  else
    let bytes := (span at' sz).map (s.mxByte core)
    let busy := (span at' sz).any (s.inCompute core)
    let exs := (bytes.drop (32 * wx)).map (·.toNat)
    let ex := exs.foldl max 0
    let img := fun m => leNat (slice bytes (4 * wx * m) (4 * wx))
    let xs := ((List.range 8).map fun m => (List.range 32).map fun i => mantissaAt wx (img m) i / (2 ^ (min wx (ex - exs.getD m 0)) : Int)).flatten
    let wb := fun o => s.scrByte core (65536 * bank + o)
    let cols := 2048 / k.ww
    let draw := (s.freeCount * 1024 + lane) * 8192
    let f := cols / 256
    let s := s.readTiles core fun k => t + lane / 32 * f ≤ k / 8192 && k / 8192 < t + lane / 32 * f + f && k / 256 % 32 == lane % 32
    (List.range cols).foldl (fun a n =>
      let key := (t + lane / 32 * (cols / 256) + n / 256) * 8192 + lane % 32 * 256 + n % 256
      let sums := (List.range wx).map (chargeSum xs fun j => weightAt wb k.ww j n)
      let codes := ((List.range wx).zip sums).map fun c => analogCode c.2 gain bound (Config.analogDeviation (draw + c.1 * 1024 + n))
      let r := mmacElem wx k.ww (modeRM x.mode) (modeFZ x.mode) (if rep == 5 then sums else codes.map (· * 2 ^ gain)) ex (sget 0 k.exps n).toNat (sget 0 (s.core core).tiles key)
      let t1 := if rep == 5 then a.1 else a.1.feed (core / 64) 3 (core % 64 + 256 * bank) codes
      (t1.modCore core fun c => { c with tiles := sset 0 c.tiles key r.1 }, a.2 ||| r.2)) (s, if busy then fBusy else 0)

/-- R284: a converted accumulator element. -/
def drainValue (slotDesc : DWord) (mode : Word) (w : Word) : DWord × BitVec 8 :=
  deliver 8 (slotFmt slotDesc) (modeRM mode) (modeSat mode) (modeFZ mode) (clipNum slotDesc (valueOf 8 (modeFZ mode) (w.setWidth 64)))

/-- R284: one lane of an `mdrain` entry: (state, register words, flags). -/
def State.drainLane (s : State) (core : Nat) (x : ArbEntry) (d t cnt col : Nat) (zero : Bool) (tgt : Nat) (desc : DWord) (offs : Sparse Word) (lane : Nat) :
    State × Sparse Word × BitVec 8 :=
  let base := (t + lane / 32) * 8192 + lane % 32 * 256
  let cols := if tgt == 0 then span col cnt else span 0 256
  let s := s.readTiles core fun k => cols.any fun c => k == base + c
  let vals := cols.map fun c => drainValue desc x.mode (sget 0 (s.core core).tiles (base + c))
  let fl := vals.foldl (fun f v => f ||| v.2) (0 : BitVec 8)
  let size := etBytes (slotFmt desc)
  let off := (sget 0 offs lane).toNat
  let s1 :=
    if tgt == 1 then
      let cells := cellsAt ((s.block x.b).coreByte off) ((vals.map fun v => leBytes size v.1.toNat).flatten)
      let bad := s.scrUnmergeable core cells
      let t0 := s.scrPut core (cells.filter fun c => !bad.any fun y => y.1 == c.1)
      let t1 := if (s.launch (s.block x.b).launch).racing then t0.touchRaceScr core (granules ((s.block x.b).coreByte off) (256 * size)) 0 false true else t0
      if bad.isEmpty then t1 else t1.reportAt x.b x.w 21 0 (BitVec.ofNat 64 off) x.site
    else if tgt == 2 then s.collRow (s.launch (s.block x.b).launch).ctx (off / 2 ^ 24) s.dev.number (off % 2 ^ 24) (vals.map fun v => v.1.setWidth 32)
    else s
  let s2 := if zero then s1.modCore core fun c => { c with tiles := sdrop c.tiles fun k => base ≤ k && cols.contains (k - base) } else s1
  (s2, if tgt == 0 then ((List.range cnt).zip vals).map (fun v => ((d + v.1) * 1024 + lane, v.2.1.setWidth 32)) else [], fl)

/-- R270: the first core byte of an uncorrectable codeword of the banks. -/
def Core.badBank (c : Core) (banks : List Nat) : Option Nat :=
  if ((List.range 9).filter fun i => c.lost.getLsbD i).length ≥ 2 then banks.head?.map (· * 65536)
  else least ((banks.map fun i => (c.failWords i).filter c.uncorrectable).flatten)
/-- R273: Ew(0) to Ew(n − 1) of a bank from its table at a core byte; an exponent whose byte is uncorrectable keeps its value (log 32). -/
def State.loadExps (s : State) (core i base n : Nat) : Sparse Byte :=
  let bad := s.mxBad core base n
  (List.range n).foldl (fun m j => if bad.contains (base + j) then m else sset 0 m j (s.scrByte core (base + j)))
    (sdrop (s.bank core i).exps fun j => n ≤ j)
/-- R281: the switch of an entry's named banks to compute mode, or the trap and what it leaves: a lost bank, one lost before the entry runs
or by the corrections themselves (R231), an uncorrectable codeword (R270).  An uncorrectable byte of an exponent table is reported by R230. -/
def State.switchOn (s : State) (core : Nat) (x : ArbEntry) (banks : BitVec 8) (ww expofs : Nat) : State × Option Trap :=
  let k := s.block x.b
  let fresh := (bitsOf banks).filter fun i => !(s.bank core i).compute
  match s.lostTrap core banks with
  | some t => (s, some t)
  | none =>
    match (s.core core).badBank fresh with
    | some a => (s, some { cause := 21, info := BitVec.ofNat 64 (a - k.base) })
    | none =>
      let s1 := fresh.foldl (fun t i => t.scrCorrectAll core ((s.core core).failWords i)) s
      match s1.lostTrap core banks with
      | some t => (s1, some t)
      | none =>
        let s2 := fresh.foldl (fun s i => if s.current core i then s else s.calibrate core i) s1
        let n := 2048 / ww
        ((bitsOf banks).foldl (fun t i =>
          let o := 256 * expofs + 1024 * i
          let bad := t.mxBad core (k.coreByte o) n
          let t1 := t.mxFix core (k.coreByte o) n
          let t2 := t1.modBank core i fun z => { z with compute := true, ww := ww, exps := t1.loadExps core i (k.coreByte o) n }
          match bad with
          | [] => t2
          | a :: _ => t2.reportAt x.b x.w 21 0 (BitVec.ofNat 64 (a - k.base)) x.site) s2, none)
/-- R281: the switch of an entry's named banks. -/
def State.switchBanks (s : State) (core : Nat) (x : ArbEntry) (banks : BitVec 8) (toC : Bool) (ww expofs : Nat) : State × Option Trap :=
  if toC then s.switchOn core x banks ww expofs
  else ((bitsOf banks).foldl (fun t i => t.modBank core i fun k => { k with compute := false }) s, none)

/-- R285: the source bytes that a byte of a packed bank takes its bits from. -/
def packedFrom (ww o : Nat) : List Nat :=
  let cols := 2048 / ww
  (List.range 8).map fun i =>
    let c := (o % 256) * 8 + i
    32 * ww * (c % cols) + (o / 256 * ww + c / cols) / 8
/-- R285: the bytes of a bank packed from a column-major source. -/
def packedBank (src : Nat → Byte) (ww : Nat) : List Byte :=
  let cols := 2048 / ww
  (List.range 65536).map fun o =>
    let k := o / 256
    BitVec.ofNat 8 ((List.range 8).foldl (fun a i =>
      let c := (o % 256) * 8 + i
      let n := c % cols
      let bitNo := k * ww + c / cols
      a + (if (src (32 * ww * n + bitNo / 8)).getLsbD (bitNo % 8) then 2 ^ i else 0)) 0)

/-- R282, R284: the given lanes of an `mmac` or `mdrain` entry, in increasing order, with their flags. -/
def State.runLanes (s : State) (core : Nat) (x : ArbEntry) (lanes : List Nat) : State :=
  let n := s.launch (s.block x.b).launch
  let flags := fun (t : State) (f : BitVec 8) => t.modWave x.b x.w fun v => v.apply { flags := f }
  match x.op with
  | .mmac t bank gain rep rec' =>
    let r := lanes.foldl (fun a i => let z := a.1.mmacLane core x t bank gain rep rec' (codeBound x.hot rep) i; (z.1, a.2 ||| z.2)) (s, (0 : BitVec 8))
    flags r.1 r.2
  | .mdrain d t cnt col zero tgt slot offs =>
    let r := lanes.foldl (fun a i =>
      let z := a.1.drainLane core x d t cnt col zero tgt (n.slots.getD slot 0) offs i
      (z.1, a.2.1 ++ z.2.1, a.2.2 ||| z.2.2)) (s, ([] : Sparse Word), (0 : BitVec 8))
    if tgt == 0 then
      r.1.modWave x.b x.w fun v => { v with outst := v.outst.map fun o => if o.kind == .drain x.id then o.add { v := r.2.1, flags := r.2.2 } else o }
    else flags r.1 r.2.2
  | _ => s

/-- The effect of a granted entry (R281 to R286); lanes below LANESDONE are done already (R403). -/
def State.runEntry (s : State) (core : Nat) (x : ArbEntry) : State :=
  let n := s.launch (s.block x.b).launch
  let lanes := (lanesOf n.lanes x.act).filter fun i => x.lanesDone ≤ i
  let flags := fun (t : State) (f : BitVec 8) => t.modWave x.b x.w fun v => v.apply { flags := f }
  match x.op with
  | .amode banks toC ww expofs =>
    let u : Cursor := { b := x.b, w := x.w, armB := x.armB }
    (match s.switchBanks core x banks toC ww expofs with
     | (t, none) => t.modArm u fun a => { a with st := .ready, pc := a.pc + 8, reason := 0, waited := 0 }
     | (t, some z) => (t.modArm u fun a => { a with st := .ready, reason := 0, waited := 0 }).takeTrap u 8 z)
  | .mmac _ _ _ _ _ => s.runLanes core x lanes
  | .mzero t => s.modCore core fun c =>
    { c with tiles := sdrop c.tiles fun k => k / 8192 == t
             badTiles := c.badTiles.filter fun k => k / 8192 != t
             softTiles := c.softTiles.filter fun k => k / 8192 != t }
  | .mdrain _ _ _ _ _ tgt _ _ =>
    let t := s.runLanes core x lanes
    if tgt == 0 then
      t.modWave x.b x.w fun v => { v with outst := v.outst.map fun o => if o.kind == .drain x.id then { o with kind := .scratch } else o }
    else t
  | .mpack bank src =>
    let base := (s.block x.b).coreByte src
    let busy := (span 0 2).any fun i => s.inCompute core (base + i * 65535)
    let ww := modeET x.mode - 15
    let bad := s.mxBad core base 65536
    let cells := cellsAt (65536 * bank) (packedBank (fun o => s.mxByte core (base + o)) ww)
    let t := (s.mxFix core base 65536).scrPut core
      (if bad.isEmpty then cells else cells.filter fun c => !(packedFrom ww (c.1 % 65536)).any fun o => bad.contains (base + o))
    let t1 := match bad with
      | [] => t
      | a :: _ => t.reportAt x.b x.w 21 0 (BitVec.ofNat 64 (a - (s.block x.b).base)) x.site
    flags (if n.racing then t1.touchRaceScr core (granules (65536 * bank) 65536) 0 false true else t1) (if busy then fBusy else 0)
  | .mcal banks => (bitsOf banks).foldl (fun t i => t.calibrate core i) s

/-- The event ARRAY_ENTRY_COMPLETE of the entry with this id. -/
def execArrayEntryComplete (core i : Nat) (s : State) : Host.Outcome State Fault Refusal :=
  match (s.core core).arb.find? fun x => x.id == i && x.granted with
  | none => .next s
  | some x => .next ((s.runEntry core x).modCore core fun c => { c with arb := c.arb.filter fun y => y.id != i })

/-! ### Calibration and banks over time (R231, R233, R277) -/

/-- R277: the event CALIBRATION_LAPSE: the calibration of a bank in compute mode is no longer current, by State.current; firmware asks for
a recalibration, an entry of class 0, where the table has room for it. -/
def execCalibrationLapse (core bank : Nat) (s : State) : Host.Outcome State Fault Refusal :=
  match (List.range s.blocks.length).find? fun b => (s.block b).resident && (s.block b).core == core && (s.launch (s.block b).launch).arrays with
  | none => .next s
  | some b =>
    if s.current core bank || !(s.bank core bank).compute || (s.core core).calRun bank || s.arbFull core then .next s
    else .next { s.modCore core fun c => { c with arb := c.arb ++ [s.calEntry b (s.block b).waves.length bank false] } with nextId := s.nextId + 1 }

/-- R231: firmware retires a bank of a core's scratchpad (unit die × 128 + core) or of an L2 slice (die × 128 + 64 + slice); bank 8 is the check
bank. -/
def execBankLoss (unit bank : Nat) (s : State) : Host.Outcome State Fault Refusal :=
  .next (if s.dies.contains (unit / 128) && unit % 128 < 80 then s.loseBank unit bank else s)

/-- R233: the scrubber corrects one codeword or burst as a read would, and raises no fault.  For a core's scratchpad off is the
core byte, otherwise a memory key. -/
def execPatrolScrub (unit off : Nat) (s : State) : Host.Outcome State Fault Refusal :=
  if unit < 1024 && unit % 128 < 64 then .next (s.scrCorrect (unit / 128 * 64 + unit % 128) off)
  else if s.badIn off 4 then .next s else .next (s.memCorrect off 4)

end Sys2Proof.Machine
end

