-- ==== Sys2Proof/Machine/Control.lean ====
section
/-! DEFINITION. Control flow, the mode register, special registers, software traps and marks (R134 to R157, R451 to R455). -/
namespace Sys2Proof.Machine

/-- R135: a branch target: the base word's address plus the sign-extended offset. -/
def target (e : Env) (off : BitVec 30) : DWord := e.pc + sx64 32 ((off ++ 0#2).setWidth 64)

/-- R136: the branch decision over the active lanes. -/
def brTaken (cond : Nat) (act p : LaneMask) : Bool :=
  if cond == 0 then (act &&& p) != 0 else if cond == 1 then (act &&& ~~~p) == 0 else (act &&& p) == 0

def execBr (sw : Bool) (cond : BitVec 8) (q : QPred) (off : BitVec 30) (s : State) : Host.Outcome State Fault Refusal :=
  issue sw 8 (fun _ => { ps := [q.p.toNat], guarded := true })
    (fun e t => if brTaken cond.toNat e.act (e.q q) then .jump t (target e off) else .next t) s

def execBra (sw : Bool) (off : BitVec 30) (s : State) : Host.Outcome State Fault Refusal :=
  issue sw 8 plainForm (fun e t => .jump t (target e off)) s

/-- R137. -/
def execCall (sw : Bool) (kd : KReg) (off : BitVec 30) (s : State) : Host.Outcome State Fault Refusal :=
  issue sw 8 (kForm [kd]) (fun e t => .jump (e.write { k := [(kd.toNat, e.pc + 8)] } t) (target e off)) s

/-- R138: a jump through a register checks its target. -/
def jumpTo (ka : KReg) (e : Env) (t : State) : Out :=
  if (e.k ka).extractLsb' 0 2 != 0 then .trap { cause := 2, info := e.k ka }
  else if !canonical (e.k ka) then .trap { cause := 3, info := e.k ka }
  else .jump t (e.k ka)

def execRet (sw : Bool) (ka : KReg) (s : State) : Host.Outcome State Fault Refusal := issue sw 4 (kForm [ka]) (jumpTo ka) s

def execJmpi (sw : Bool) (ka : KReg) (s : State) : Host.Outcome State Fault Refusal := issue sw 4 (kForm [ka]) (jumpTo ka) s

/-- R17, R140: the selected fields of the mode register replaced. -/
def modeMerge (old : Word) (sel : BitVec 5) (img : Word) : Word := (old &&& ~~~(modeSelMask sel)) ||| (img &&& modeSelMask sel)

/-- R17, R153: a mode write, refused whole where it is illegal. -/
def writeMode (x : Word) (e : Env) (t : State) : Out :=
  if modeOk x then .next (t.modArm e.u fun a => { a with mode := x }) else .trap illegal

def execMode (sw : Bool) (sel : BitVec 5) (img : Word) (s : State) : Host.Outcome State Fault Refusal :=
  issue sw 8 plainForm (fun e t => writeMode (modeMerge e.arm.mode sel img) e t) s

/-- R142. -/
def execNop (sw : Bool) (s : State) : Host.Outcome State Fault Refusal := issue sw 4 plainForm (fun _ t => .next t) s

/-- R143, R155, R381: the wave halts at the next instruction with a record, once its results are written. -/
def haltWith (cause : Nat) (info : DWord) (len : Nat) (e : Env) (t : State) : Out :=
  .placed ((t.modArm e.u fun a => { a with lastIssue := t.ticks }).enterTrap e.u
    { cause := cause, sub := 0, deferred := false, halts := true, pc := e.pc + BitVec.ofNat 64 len, info := info, atWord := 0
      site := e.pc, seq := none })

def execHalt (sw : Bool) (s : State) : Host.Outcome State Fault Refusal := issue sw 4 plainForm (haltWith 27 0 4) s

/-- R155: TRAP_INSTRUCTION. -/
def execTrap (sw : Bool) (code : BitVec 8) (s : State) : Host.Outcome State Fault Refusal :=
  issue sw 4 plainForm (fun _ _ => .trap { cause := 28, info := code.setWidth 64, after := true }) s

/-- R155: BREAKPOINT, or a halt under debugging. -/
def execBrk (sw : Bool) (code : BitVec 8) (s : State) : Host.Outcome State Fault Refusal :=
  issue sw 4 plainForm (fun e t =>
    if e.cx.debug then haltWith 29 (code.setWidth 64) 4 e t else .trap { cause := 29, info := code.setWidth 64, after := true }) s

/-- R157: HND clears and PC comes from fault0, after the outstanding results; ILLEGAL_INSTRUCTION outside a handler. -/
def tretBody (e : Env) (t : State) : Out :=
  if !e.wv.hnd then .trap illegal
  else
    let s1 := t.writeBound e.u.b e.u.w
    if !(s1.wave e.u.b e.u.w).drained then .placed (s1.modArm e.u fun a => { a with st := .parked, reason := 24 })
    else .placed ((s1.modWave e.u.b e.u.w fun v => v.tret e.u.armB).modArm e.u fun a => { a with lastIssue := t.ticks, reason := 0 })

def execTret (sw : Bool) (s : State) : Host.Outcome State Fault Refusal := issue sw 4 plainForm tretBody s

/-! ### Special registers (R149 to R154) -/

/-- R149, R150: a special register's value for one lane. -/
def readSr (e : Env) (t : State) (n lane : Nat) : DWord :=
  match n with
  | 0x00 => (e.ln.roles >>> (2 * e.wv.idx) &&& 3#32).setWidth 64
  | 0x01 => BitVec.ofNat 64 lane
  | 0x02 => BitVec.ofNat 64 e.wv.idx
  | 0x03 => BitVec.ofNat 64 e.blk.index
  | 0x04 => BitVec.ofNat 64 (t.gang e.blk.launch e.blk.gang).number
  | 0x05 => BitVec.ofNat 64 (e.blk.core % 64)
  | 0x06 => BitVec.ofNat 64 e.blk.vdie
  | 0x07 => BitVec.ofNat 64 e.cx.number
  | 0x08 => e.ln.seq.setWidth 64
  | 0x09 => (t.wave e.u.b e.u.w).status.setWidth 64
  | 0x0A => e.arm.mode.setWidth 64
  | 0x0B => t.timeOf e.blk.die
  | 0x0C => e.wv.fault0
  | 0x0D => e.wv.fault1
  | 0x10 => e.blk.sampctl
  | _ => e.blk.sampbuf

/-- R152: once for the wave. -/
def execRdsrK (sw : Bool) (kd : KReg) (n : BitVec 8) (s : State) : Host.Outcome State Fault Refusal :=
  issue sw 4 (fun _ => { ks := [kd.toNat], pre := need (srReadK n.toNat) })
    (fun e t => .next (e.write { k := [(kd.toNat, readSr e t n.toNat 0)] } t)) s

/-- R152: in each active lane. -/
def execRdsrV (sw : Bool) (d : VReg) (n : BitVec 8) (s : State) : Host.Outcome State Fault Refusal :=
  issue sw 4 (fun _ => { vs := [{ r := d.toNat, dest := true }], guarded := true, pre := need (srReadV n.toNat) })
    (fun e t => .next (e.write { v := (e.lanes.map fun i => words false d.toNat i (readSr e t n.toNat i)).flatten } t)) s

/-- R92, R153: W1C on bit[6:0] of status; flags of results that become ready in this clk or later end set. -/
def execWrsrStatus (sw : Bool) (ka : KReg) (s : State) : Host.Outcome State Fault Refusal :=
  issue sw 4 (kForm [ka]) (fun e t =>
    .next (t.modWave e.u.b e.u.w fun v => { v with status := v.status &&& ~~~((e.k ka &&& 0x7F#64).setWidth 32) })) s

def execWrsrMode (sw : Bool) (ka : KReg) (s : State) : Host.Outcome State Fault Refusal :=
  issue sw 4 (kForm [ka]) (fun e t =>
    if (e.k ka).extractLsb' 32 32 != 0 then .trap illegal else writeMode ((e.k ka).setWidth 32) e t) s

def execWrsrFault0 (sw : Bool) (ka : KReg) (s : State) : Host.Outcome State Fault Refusal :=
  issue sw 4 (kForm [ka]) (fun e t =>
    .next (t.modWave e.u.b e.u.w fun v => { v with fault0 := e.k ka &&& ~~~(1#64 <<< 57) })) s

def execWrsrFault1 (sw : Bool) (ka : KReg) (s : State) : Host.Outcome State Fault Refusal :=
  issue sw 4 (kForm [ka]) (fun e t => .next (t.modWave e.u.b e.u.w fun v => { v with fault1 := e.k ka })) s

/-- R451: a sampctl value within its limits. -/
def sampctlOk (x : DWord) : Bool :=
  (x &&& 0xFFFCE0FE#64) == 0 && 6 ≤ (x.extractLsb' 8 5).toNat && (x.extractLsb' 8 5).toNat ≤ 16
/-- R451: HEAD is read-only, FAULT clears by a 1, the rest is written. -/
def sampctlWrite (old x : DWord) : DWord :=
  (old &&& 0xFFFFFFFF00000000#64) ||| (x &&& 0x11F01#64) ||| (old &&& 0x20000#64 &&& ~~~x)

def execWrsrSampctl (sw : Bool) (ka : KReg) (s : State) : Host.Outcome State Fault Refusal :=
  issue sw 4 (kForm [ka]) (fun e t =>
    if sampctlOk (e.k ka) then .next (t.modBlock e.u.b fun k => { k with sampctl := sampctlWrite k.sampctl (e.k ka) })
    else .trap illegal) s

/-- R451. -/
def sampbufOk (x : DWord) : Bool := (x &&& 0xFE00000000000FF0#64) == 0 && (x.extractLsb' 0 4).toNat ≤ 12

def execWrsrSampbuf (sw : Bool) (ka : KReg) (s : State) : Host.Outcome State Fault Refusal :=
  issue sw 4 (kForm [ka]) (fun e t =>
    if sampbufOk (e.k ka) then
      .next (t.modBlock e.u.b fun k => { k with sampbuf := e.k ka, sampctl := k.sampctl &&& 0xFFFFFFFF#64, marks := [] })
    else .trap illegal) s

/-- R154. -/
def execClock (sw : Bool) (kd : KReg) (s : State) : Host.Outcome State Fault Refusal :=
  issue sw 4 (kForm [kd]) (fun e t => .next (e.write { k := [(kd.toNat, t.clkOf e.blk.die)] } t)) s

/-! ### The sample ring (R451 to R455) -/

/-- R452: the address of the record at HEAD. -/
def Block.sampleVa (k : Block) : DWord :=
  sx64 57 ((k.sampbuf &&& 0x01FFFFFFFFFFF000#64) +
    BitVec.ofNat 64 (16 * ((k.sampctl.extractLsb' 32 32).toNat % 2 ^ (8 + (k.sampbuf.extractLsb' 0 4).toNat))))
/-- R452: HEAD moved to another record. -/
def Block.setHead (k : Block) (head : BitVec 32) : Block := { k with sampctl := (k.sampctl &&& 0xFFFFFFFF#64) ||| (head ++ 0#32) }

/-- R322, R427, R452: one record at HEAD, which clears race records as a CP write does.  A write without a valid translation, without W, or
to an encoded or aperture-only page is dropped: EN clears and FAULT sets.  One that its memory or its peer does not take is lost, and HEAD
advances (log 28). -/
def State.sampleWrite (s0 : State) (b : Nat) (w0 w1 : DWord) : State :=
  let k := s0.block b
  let cx := s0.ctx (s0.launch k.launch).ctx
  let s := s0.fillTlb k.die cx k.sampleVa
  match s0.engineKeys k.die cx k.sampleVa true 2 16 with
  | .error _ => s.modBlock b fun k => { k with sampctl := (k.sampctl &&& ~~~1#64) ||| 0x20000#64 }
  | .ok ks =>
    let cells := ks.zip (leBytes 8 w0.toNat ++ leBytes 8 w1.toNat)
    let lost := !(s.unmergeable (cells.filter (·.1 < peerBit))).isEmpty || (s.peersFail ks).isSome
    ((if lost then s else s.engineWrite cells).clearRaceAt ks).modBlock b fun k => k.setHead (k.sampctl.extractLsb' 32 32 + 1)

/-- R455: a mark record goes into the ring, and the block notes it among those of its clk. -/
def State.markWrite (s : State) (b : Nat) (clk : Nat) (w0 w1 : DWord) : State :=
  let t := s.sampleWrite b w0 w1
  if (t.block b).sampctl.extractLsb' 32 32 == (s.block b).sampctl.extractLsb' 32 32 then t
  else t.modBlock b fun k => { k with marks := (if k.marksClk == clk then k.marks else []) ++ [(w0, w1)], marksClk := clk }
/-- R455: in the ring the sample of a clk stands before the clk's marks, which follow it in issue order. -/
def State.sampleFirst (s : State) (b : Nat) (clk : Nat) (w0 w1 : DWord) : State :=
  let k := s.block b
  let l := if k.marksClk == clk then k.marks else []
  let t := s.modBlock b fun k => k.setHead (k.sampctl.extractLsb' 32 32 - BitVec.ofNat 32 l.length)
  l.foldl (fun t x => t.sampleWrite b x.1 x.2) (t.sampleWrite b w0 w1)

/-- R455: a mark record (R453), when MARKS = 1 and the block has a ring. -/
def markBody (v : Half) (e : Env) (t : State) : Out :=
  if e.blk.sampctl.getLsbD 16 && e.blk.sampbuf != 0 then
    .next (t.markWrite e.u.b t.clk
      (BitVec.ofNat 64 (2 ^ 63 + 2 ^ 62 + e.pc.toNat % 2 ^ 57))
      (BitVec.ofNat 64 (v.toNat * 2 ^ 40 + bit e.u.armB 36 + e.wv.idx * 2 ^ 32 + e.ln.seq.toNat)))
  else .next t

def execMark (sw : Bool) (v : Half) (s : State) : Host.Outcome State Fault Refusal := issue sw 4 plainForm (markBody v) s

end Sys2Proof.Machine
end

