-- ==== Sys2Proof/Machine/Atomics.lean ====
section
/-! DEFINITION. Atomics with the contention predictor, lost responses, recording and replay; `fence`; `waitge` and its monitors
(R293 to R304, R324, R325, R460 to R462). -/
namespace Sys2Proof.Machine

/-! ### Forms -/

/-- What an atomic instruction names. -/
structure AtomOp where
  op : Nat
  /-- vD, for the returning forms. -/
  d : Option VReg
  b : VReg
  c : VReg
  /-- R49: the F field. -/
  f : Nat

def AtomOp.form (o : AtomOp) (ks : List KReg) (e : Env) : Form :=
  { pre := need (atomType o.op e.et)
    vs := (match o.d with | some d => [{ r := d.toNat, pair := e.pair, dest := o.op != 8 }] | none => []) ++ [one o.b, e.src o.c]
    ks := ks.map (·.toNat), guarded := true, mem := true }

def AtomOp.bits (o : AtomOp) (e : Env) : List Nat := match o.d with | some d => vbits d.toNat e.pair 1 | none => []
def AtomOp.operand (o : AtomOp) (e : Env) (lane : Nat) : DWord := elemMask e.et (e.get o.c lane)
def AtomOp.new (o : AtomOp) (e : Env) (lane : Nat) : DWord :=
  match o.d with | some d => elemMask e.et (e.get d lane) | none => 0
/-- The words of a returned old value. -/
def AtomOp.back (o : AtomOp) (e : Env) (lane : Nat) (m : DWord) : Sparse Word :=
  match o.d with | some d => words e.pair d.toNat lane (if clsI e.et then intReg e.et (intVal e.et m) else m) | none => []

/-! ### Scope checks (R324, R325) -/

/-- R325: the first lane of a synchronising access to device lines that meets a line used out of scope. -/
def State.scopeTrap (s : State) (e : Env) (l : List Lane) : Option Trap :=
  l.findSome? fun x =>
    match x.p with
    | .mem k => if k < hostBit && s.scopeClash (k / 128) (e.u.b, e.u.w) e.arm.scope then some { cause := 20, info := x.va &&& ~~~0x7F#64 } else none
    | _ => none
def State.scopeTouch (s : State) (e : Env) (l : List Lane) : State :=
  l.foldl (fun s x => match x.p with
    | .mem k => if k < hostBit then s.scopeMark (k / 128) (e.u.b, e.u.w) e.arm.scope else s
    | _ => s) s

/-! ### Flat atomics: sent at issue, executed at their targets (R293, R296) -/

/-- R293 to R295, R427: the lanes that reach a peer's line execute there, later lanes after earlier ones: what they return. -/
def atomPeers (o : AtomOp) (e : Env) (l : List Lane) (s : State) : State × Sparse Word :=
  let size := etBytes e.et
  l.foldl (fun a x => match x.p with
    | .peer w off =>
      let z := a.1.peerModify w off size fun m => atomNew o.op e.et e.rm e.fz m (o.operand e x.lane) (o.new e x.lane)
      (z.2, a.2 ++ o.back e x.lane (elemMask e.et z.1))
    | _ => a) (s, [])

/-- A lane that reaches no memory, a window's included (R424), fails at its target. -/
def atomFlatBody (o : AtomOp) (ka : KReg) (e : Env) (t : State) : Out :=
  let size := etBytes e.et
  match t.flatCheck e size true (flatAddrs ka o.b e) with
  | .error x => .trap x
  | .ok l =>
    let t := t.settled e true l
    if t.flatHeld e true l then .hold 31
    else
      match t.raceTrap e size l, t.scopeTrap e l with
      | some x, _ => .trap x
      | none, some x => .trap x
      | none, none =>
        let t1 := ((t.fillTlbs e (l.map (·.va))).raceTouch e size false true l).scopeTouch e l
        let here := l.filter fun x => x.key.isSome
        let peers := l.filter Lane.peer
        let z := atomPeers o e peers t1
        let res := if o.d.isSome then t1.nextId else 0
        let kind := if here.isEmpty then (if peers.isEmpty then .plain else .peer 0) else .atomic here.length
        let t2 := if o.d.isSome then e.outstanding kind { v := z.2 } (o.bits e) 0 z.1 else z.1
        let t3 := t2.askLanes e 2 res (peers.map fun x => (x, leBytes size (o.operand e x.lane).toNat))
        let t4 := (l.filter fun x => x.key.isNone && !x.peer).foldl (fun s x => s.reportAt e.u.b e.u.w 3 1 x.va e.pc) t3
        .next { t4 with
          nextId := t4.nextId + 1
          atomReqs := t4.atomReqs ++ here.map fun x =>
            { inst := t4.nextId, b := e.u.b, w := e.u.w, armB := e.u.armB, core := e.core, lane := x.lane, va := x.va, key := x.key.getD 0
              host := x.x.host, rc := x.x.rc, home := x.x.leafHome, op := o.op, et := e.et, rm := e.rm, fz := e.fz
              c := o.operand e x.lane, new := o.new e x.lane, ret := o.d.isSome, d := (o.d.map (·.toNat)).getD 0, res := res
              site := e.pc, seq := e.ln.seq, f := o.f } }

/-! ### Scratchpad atomics: executed at the bank (R268, R296, R298) -/

/-- One lane at a core's scratchpad: (lane, offset, core byte). -/
def atomScrLane (o : AtomOp) (e : Env) (core : Nat) (a : State × Eff) (x : Nat × Nat × Nat) : State × Eff :=
  let size := etBytes e.et
  if a.1.computeIn core x.2.2 size then (a.1.reportAt e.u.b e.u.w 14 0 (BitVec.ofNat 64 x.2.1) e.pc, a.2)
  else if a.1.scrBad core x.2.2 size then (a.1.reportAt e.u.b e.u.w 21 0 (BitVec.ofNat 64 x.2.1) e.pc, a.2)
  else
    let t := a.1.scrCorrectAll core (span x.2.2 size)
    let m := BitVec.ofNat 64 (leNat (t.scrBytes core x.2.2 size))
    (t.scrPut core (cellsAt x.2.2 (leBytes size (atomNew o.op e.et e.rm e.fz m (o.operand e x.1) (o.new e x.1)).toNat)),
     { a.2 with v := a.2.v ++ o.back e x.1 m })

def atomScrBody (own : Bool) (o : AtomOp) (e : Env) (b : Nat) (t : State) : Out :=
  let size := etBytes e.et
  let core := (t.block b).core
  let offs := peerOffs o.b e
  let l := offs.map fun x => (x.1, x.2, (t.block b).coreByte x.2)
  match t.scrCheck b size offs with
  | some x => .trap x
  | none =>
    if t.capturing e.u.b e.u.w e.u.armB then .hold 31
    else if t.switching core (l.map fun x => x.2.2) then .hold 9
    else
      match if own then l.find? fun x => t.computeIn core x.2.2 size else none with
      | some x => .trap { cause := 14, info := BitVec.ofNat 64 x.2.1 }
      | none =>
        match t.raceTrapScr e core size (l.map fun x => x.2) with
        | some x => .trap x
        | none =>
          let r := l.foldl (atomScrLane o e core) (t.raceTouchScr e core size false true (l.map fun x => x.2), {})
          .next (if o.d.isSome then e.outstanding (if b == e.u.b then .scratch else .plain) r.2 (o.bits e) 0 r.1 else r.1)

def atomFlat (sw : Bool) (o : AtomOp) (ka : KReg) (s : State) : Host.Outcome State Fault Refusal :=
  issue sw 8 (o.form [ka]) (atomFlatBody o ka) s
def atomScr (sw : Bool) (o : AtomOp) (s : State) : Host.Outcome State Fault Refusal :=
  issue sw 8 (o.form []) (fun e t => atomScrBody true o e e.u.b t) s
def atomPeer (sw : Bool) (o : AtomOp) (ka : KReg) (s : State) : Host.Outcome State Fault Refusal :=
  issue sw 8 (o.form [ka]) (fun e t => match t.peerBlock e (e.k ka) with
    | .error x => .trap x
    | .ok k => atomScrBody false o e k t) s

def execAtomFlat (sw : Bool) (op : BitVec 4) (d : VReg) (ka : KReg) (b c : VReg) (s : State) : Host.Outcome State Fault Refusal :=
  atomFlat sw { op := op.toNat, d := some d, b := b, c := c, f := op.toNat } ka s
def execAtomScr (sw : Bool) (op : BitVec 4) (d b c : VReg) (s : State) : Host.Outcome State Fault Refusal :=
  atomScr sw { op := op.toNat, d := some d, b := b, c := c, f := 64 + op.toNat } s
def execAtomPeer (sw : Bool) (op : BitVec 4) (d : VReg) (ka : KReg) (b c : VReg) (s : State) : Host.Outcome State Fault Refusal :=
  atomPeer sw { op := op.toNat, d := some d, b := b, c := c, f := 128 + op.toNat } ka s
def execAtomcFlat (sw : Bool) (d : VReg) (ka : KReg) (b c : VReg) (s : State) : Host.Outcome State Fault Refusal :=
  atomFlat sw { op := 8, d := some d, b := b, c := c, f := 8 } ka s
def execAtomcScr (sw : Bool) (d b c : VReg) (s : State) : Host.Outcome State Fault Refusal :=
  atomScr sw { op := 8, d := some d, b := b, c := c, f := 72 } s
def execAtomcPeer (sw : Bool) (d : VReg) (ka : KReg) (b c : VReg) (s : State) : Host.Outcome State Fault Refusal :=
  atomPeer sw { op := 8, d := some d, b := b, c := c, f := 136 } ka s
def execRedFlat (sw : Bool) (op : BitVec 4) (ka : KReg) (b c : VReg) (s : State) : Host.Outcome State Fault Refusal :=
  atomFlat sw { op := op.toNat, d := none, b := b, c := c, f := op.toNat } ka s
def execRedScr (sw : Bool) (op : BitVec 4) (b c : VReg) (s : State) : Host.Outcome State Fault Refusal :=
  atomScr sw { op := op.toNat, d := none, b := b, c := c, f := 64 + op.toNat } s
def execRedPeer (sw : Bool) (op : BitVec 4) (ka : KReg) (b c : VReg) (s : State) : Host.Outcome State Fault Refusal :=
  atomPeer sw { op := op.toNat, d := none, b := b, c := c, f := 128 + op.toNat } ka s

/-! ### fence (R301, R321) -/

/-- R321: a slot's residency count after an advance. -/
def nextRes (n : Nat) : Nat := if n ≥ 1023 then 1 else n + 1
/-- R321: the epoch advances; a wrap advances RES. -/
def State.bumpEpoch (s : State) (b w : Nat) : State :=
  let v := s.wave b w
  if v.epoch == 255 then
    let k := s.block b
    let n := nextRes (sget 0 (s.core k.core).res v.slot)
    (s.modCore k.core fun c => { c with res := sset 0 c.res v.slot n }).modWave b w fun v => { v with epoch := 0, res := n }
  else s.modWave b w fun v => { v with epoch := v.epoch + 1 }

def execFence (sw : Bool) (kind : BitVec 8) (scope : BitVec 8) (paths : BitVec 4) (s : State) : Host.Outcome State Fault Refusal :=
  issue sw 4 (fun _ => { mem := true }) (fun e t =>
    let t0 := if paths.getLsbD 3 then t.closeBatches e.core else t
    let t1 := if kind.toNat == 1 then t0 else t0.bumpEpoch e.u.b e.u.w
    .next (t1.modArm e.u fun a =>
      { a with scope := scope.toNat, fence := some { kind := kind.toNat, scope := scope.toNat, paths := paths } })) s

/-- R301: reads of an arm on the LS path that have not bound. -/
def Wave.reading (v : Wave) (armB : Bool) : Bool := (v.mine armB).any fun r => match r.kind with | .decode _ => true | .atomic _ => true | .peer _ => true | _ => false

/-- R301: the conditions of a fence's kind and paths. -/
def State.fenceReady (s : State) (b w : Nat) (armB : Bool) (f : Fence) : Bool :=
  (!f.paths.getLsbD 0 || (!s.lsBusy b w armB && !(f.kind != 2 && (s.wave b w).reading armB))) &&
  (!f.paths.getLsbD 1 || !s.cpBusy b w armB) &&
  (!f.paths.getLsbD 2 || !s.mxBusy b w armB) &&
  (!f.paths.getLsbD 3 || (!(f.kind != 1 && s.sending b w armB) && !(f.kind != 2 && (s.wave b w).receiving armB)))

/-- R427: a request whose answer fills no register: a write, or an atomic without a result. -/
def PeerReq.silent (r : PeerReq) : Bool := r.kind == 1 || r.res == 0
/-- R427: a wave's writes to peers are acknowledged, or answered with an error, at a free choice. -/
def State.peerWritesDone (s : State) (b w : Nat) : State :=
  let mine := s.peerReqs.filter fun r => r.silent && r.b == b && r.w == w
  { mine.foldl (fun t q => match s.peerError q with | some x => t.peerFailed q x | none => t) s with
    peerReqs := s.peerReqs.filter fun r => !(r.silent && r.b == b && r.w == w) }

/-- The event FENCE_COMPLETE.  The reports of the accesses and copies that the fence names reach the core no later (R299, R341); the
fence of a pre-empted wave completes after its restore (R403). -/
def execFenceComplete (b w : Nat) (armB : Bool) (s : State) : Host.Outcome State Fault Refusal :=
  match ((s.wave b w).arm armB).fence with
  | none => .next s
  | some f =>
    if s.fenceReady b w armB f && (s.block b).st != .preempted && !(s.block b).restoring then
      let ls := f.paths.getLsbD 0
      let s1 := if ls && f.kind != 2 then s.modCore (s.block b).core fun c => c.acquire (f.scope ≥ 2) else s
      let s2 := if ls then s1.peerWritesDone b w else s1
      let s3 := if ls || f.paths.getLsbD 1 then s2.deliverAll b w else s2
      .next (s3.modWave b w fun v => v.modArm armB fun a => { a with fence := none })
    else .next s

/-! ### waitge (R302 to R304) -/

/-- R303: a slice's entries for waiters are taken: 3,840 of its 4,096; the other 256 are the distributor's and Cardamom's
(State.armAgent). -/
def State.monitorsFull (s : State) (home : Nat) : Bool := (s.monitors.filter fun m => m.home == home && !m.retry).length ≥ 3840
/-- R303: a waiter gets a monitor entry of its slice, or joins the retry set. -/
def State.armMonitor (s : State) (u : Cursor) (key home : Nat) : State :=
  { s with monitors := s.monitors ++ [{ b := u.b, w := u.w, armB := u.armB, key := key, line := key / 128, home := home, retry := s.monitorsFull home || key ≥ peerBit }] }
/-- The bytes that a waiting arm's compare reads. -/
def ArmSt.watched : ArmSt → List Nat
  | .waitge _ key _ _ => span key 8
  | .fwait _ _ key _ => span key 128
  | _ => []
/-- A waiting arm becomes ready: its compare has seen the line at its home slice (R311). -/
def State.wake (s : State) (u : Cursor) : State :=
  { (s.modCore (s.block u.b).core fun c => c.sawHome (s.arm u).st.watched).modArm u fun a =>
      match a.st with
      | .waitge _ _ _ (some p) => { a with st := .ready, pc := p, reason := 0, waited := 0 }
      | _ => { a with st := .ready, reason := 0, waited := 0 } with
    monitors := s.monitors.filter fun m => !m.waits u }

/-- Where a wait's line stands: none for an address without memory. -/
def State.waitKey (s : State) (l : List Lane) : Option (Nat × Nat) :=
  l.head?.bind fun x => match x.p with
    | .mem k => some (k, x.x.leafHome)
    | .peer w o => some (s.importKey w o, 0)
    | _ => none
/-- R303, R311: what the compare of n bytes at a key does beside its answer: corrections, the recall of an ownership, and what it makes known. -/
def State.compareAt (s : State) (core key n : Nat) : State :=
  if key ≥ peerBit then (s.peerRead key n).2
  else ((s.memCorrect key n).recall [key / 128]).modCore core fun c => c.sawHome (span key n)

/-- R303, R427: why a compare of n bytes cannot be made, which is reported while the arm waits: an uncorrectable line, a peer that does not
answer. -/
def State.compareFails (s : State) (key n : Nat) : Option (Nat × Nat) :=
  if key ≥ peerBit then s.peerFate key else if s.badIn key n then some (21, 0) else none
/-- A wait's first compare: whether it holds. -/
def State.firstCompare (s : State) (st : ArmSt) (key n : Nat) : Bool := (s.compareFails key n).isNone && s.waitHolds st
/-- What a compare that could not be made reports. -/
def State.compareReport (s : State) (u : Cursor) (key n : Nat) (va site : DWord) : State :=
  match s.compareFails key n with | some x => s.reportAt u.b u.w x.1 x.2 va site | none => s

/-- Both forms: one compare, then the wait; an address without memory fails as a read of it does (log 16). -/
def waitgeBody (ka kd : KReg) (cont : Env → Option DWord) (e : Env) (t : State) : Out :=
  match t.flatCheck e 8 false [(0, e.k ka)] with
  | .error x => .trap x
  | .ok l =>
    let t := t.settled e false l
    if t.flatHeld e false l then .hold 31
    else
      match t.raceTrap e 8 l, t.scopeTrap e l with
      | some x, _ => .trap x
      | none, some x => .trap x
      | none, none =>
        let t1 := ((t.fillTlbs e [e.k ka]).raceTouch e 8 false true l).scopeTouch e l
        match t.waitKey l with
        | none => .next (t1.reportAt e.u.b e.u.w 3 1 (e.k ka) e.pc)
        | some (key, leafHome) =>
          let st : ArmSt := .waitge (e.k ka) key (e.k kd) (cont e)
          let t2 := t1.compareAt e.core key 8
          if t2.firstCompare st key 8 then .next t2
          else
            let t3 := t2.compareReport e.u key 8 (e.k ka) e.pc
            .placed (((t3.advance e.u (e.pc + 8)).modArm e.u fun a => { a with st := st, reason := 14, waited := 0 }).armMonitor e.u key (t3.home (key % peerBit) leafHome))

def execWaitge (sw : Bool) (ka kd : KReg) (s : State) : Host.Outcome State Fault Refusal :=
  issue sw 8 (fun _ => { ks := [ka.toNat, kd.toNat], mem := true }) (waitgeBody ka kd fun _ => none) s
def execWaitgeCont (sw : Bool) (ka kd : KReg) (off : BitVec 30) (s : State) : Host.Outcome State Fault Refusal :=
  issue sw 8 (fun _ => { ks := [ka.toNat, kd.toNat], mem := true }) (waitgeBody ka kd fun e => some (target e off)) s

/-- R303: writes have been applied to a line: the waiters whose compare held at one of them go on; a peer's gets its answer (R427). -/
def State.compareLine (s : State) (line : Nat) : State :=
  let due := s.monitors.filter fun m => m.line == line && m.fired && !m.retry
  let s1 := { s with monitors := s.monitors.filter fun m => !(m.line == line && m.fired && !m.retry && m.peer.isSome) }
  due.foldl (fun t m => if m.peer.isSome then t else t.wake { b := m.b, w := m.w, armB := m.armB }) s1

/-- The address that an arm waits at. -/
def State.waitVa (s : State) (u : Cursor) : DWord :=
  match (s.arm u).st with
  | .waitge va _ _ _ => va
  | .fwait g q _ _ => (s.graph g).front + BitVec.ofNat 64 (128 * q)
  | _ => 0
/-- The event HOME_SLICE_WRITE of a line. -/
def execHomeSliceWrite (line : Nat) (s : State) : Host.Outcome State Fault Refusal := .next (s.compareLine line)

/-- R303: a waiter of the retry set repeats its arm-and-compare, which recalls an ownership (R297). -/
def execWaitgeRetry (b w : Nat) (armB : Bool) (s0 : State) : Host.Outcome State Fault Refusal :=
  let u : Cursor := { b := b, w := w, armB := armB }
  match s0.monitors.find? fun m => m.waits u && m.retry with
  | none => .next s0
  | some m =>
    let s := s0.compareAt (s0.block b).core m.key 8
    if m.key ≥ peerBit && (s.compareFails m.key 8).isSome then .next (s.compareReport u m.key 8 (s.waitVa u) ((s.arm u).pc - 8))
    else if s.waitHolds (s.arm u).st then .next (s.wake u)
    else if m.key < peerBit && !s.monitorsFull m.home then
      .next { s with monitors := s.monitors.map fun n => if n == m then { n with retry := false, fired := false } else n }
    else .next s

end Sys2Proof.Machine
end

