-- ==== Sys2Proof/Machine/Buffer.lean ====
section
/-! DEFINITION. Buffer records and buffer accesses, the block reads and writes of Sumac for waves, and codec maintenance (R234 to R244,
R256 to R265, R291, R292, R305). -/
namespace Sys2Proof.Machine

/-! ### Records (R235 to R240) -/

/-- Types of the convert row of R235: memory and register formats. -/
def convMem (t : Nat) : Bool := t ≤ 11 || (14 ≤ t && t ≤ 16)
def convReg (t : Nat) : Bool := t ≤ 11
/-- A positive normal f32, or 0 (R235). -/
def scaleOk (w : Word) : Bool := w == 0 || (!w.getLsbD 31 && w.extractLsb' 23 8 != 0 && w.extractLsb' 23 8 != 255)

/-- R235. -/
def bufOk (r : List DWord) : Bool :=
  ((r.getD 0 0) >>> 57) == 0 && ((r.getD 1 0) >>> 53) == 0 && ((r.getD 2 0) &&& 0xF0FCE0E0#64) == 0 &&
  ((r.getD 3 0) >>> 57) == 0 && ((r.getD 4 0) >>> 48) == 0 &&
  (if bufEncoded r then
    bufMfmt r == 9 && bufRfmt r == 9 && bufScale r == 0 && bufIlv r == 1 && (bufEnc r == 2 || bufBudget r == 4) &&
    bufErrs r &&& 63#64 == 0 && canonical (r.getD 3 0) && bufBase r &&& 127#64 == 0 && bufExtent r % 128 == 0 && !bufAper r &&
    (if bufShape r then bufPitch r != 0 && bufPitch r % 4 == 0 else bufPitch r % 16 == 0)
  else
    (if bufEnc r == 0 then clsM (bufMfmt r) && bufRfmt r == bufMfmt r && bufScale r == 0
     else convMem (bufMfmt r) && convReg (bufRfmt r) && scaleOk (bufScale r)) &&
    !bufShape r && bufBudget r == 4 && bufErrs r == 0 && (bufBase r).toNat % etBytes (bufMfmt r) == 0 &&
    (!bufAper r || bufMfmt r == 9))

/-- R240 checks 1 and 2. -/
def bufPre (e : Env) (buf : BitVec 8) : Option Trap :=
  match e.ln.bufs[buf.toNat]? with
  | none => some { cause := 17, info := buf.setWidth 64 }
  | some r => if bufOk r then none else some { cause := 17, info := buf.setWidth 64 }
def Env.buf (e : Env) (buf : BitVec 8) : List DWord := e.ln.bufs.getD buf.toNat []

/-- R237: the position that an index names, where it is in bounds. -/
def bufPos (r : List DWord) (idx : Word) : Option Nat :=
  let row := (idx >>> 16).toNat
  let col := (idx &&& 0xFFFF#32).toNat
  let p := if bufPitch r == 0 then some idx.toNat else if col ≥ bufPitch r then none else some (row * bufPitch r + col)
  p.bind fun p =>
    let g := if bufEncoded r then 8 else bufIlv r * etBytes (bufMfmt r)
    if p * g + g ≤ bufExtent r then some p else none

/-- R240 check 3: positions by lane. -/
def bufLanes (e : Env) (r : List DWord) (a : VReg) : Except Trap (List (Nat × Nat)) :=
  match e.lanes.find? fun i => (bufPos r (e.word a i)).isNone with
  | some i => .error { cause := 18, info := (e.word a i).setWidth 64 }
  | none => .ok (e.lanes.filterMap fun i => (bufPos r (e.word a i)).map fun p => (i, p))

/-- R239: one address of a buffer access. -/
def State.bufXlat (s : State) (e : Env) (r : List DWord) (write : Bool) (va : DWord) : Except Trap Xlat :=
  match s.translate (dataSide e.core) e.cx va write false with
  | .error c => .error { cause := c.1, sub := c.2, info := va }
  | .ok x =>
    if x.enc != bufEncoded r then .error { cause := 3, sub := 3, info := va }
    else if x.aper && !bufAper r then .error { cause := 3, sub := 4, info := va }
    else .ok x

/-- R240 check 4 over addresses in lane order. -/
def State.bufCheck (s : State) (e : Env) (r : List DWord) (write : Bool) : List (Nat × DWord) → Except Trap (List Lane)
  | [] => .ok []
  | (i, va) :: t =>
    match s.bufXlat e r write va with
    | .error x => .error x
    | .ok x =>
      match s.bufCheck e r write t with
      | .error y => .error y
      | .ok l => .ok ({ lane := i, va := va, x := x, p := s.reach x } :: l)

/-- R238: the registers of a group. -/
def bufRegs (r : List DWord) (d : VReg) (dest : Bool) : VOp := { r := d.toNat, pair := isPair (bufRfmt r), n := bufIlv r, dest := dest }
/-- Register of element j of a group. -/
def bufReg (r : List DWord) (d : VReg) (j : Nat) : Nat := d.toNat + j * (if isPair (bufRfmt r) then 2 else 1)

/-- The elements of the lanes' groups: lane × 8 + j, and the address. -/
def groupAddrs (r : List DWord) (l : List (Nat × Nat)) : List (Nat × DWord) :=
  (l.map fun x => (List.range (bufIlv r)).map fun j =>
    (x.1 * 8 + j, bufBase r + BitVec.ofNat 64 ((x.2 * bufIlv r + j) * etBytes (bufMfmt r)))).flatten

/-! ### Raw and converted groups (R241, R292) -/

/-- Shared checks of a raw or converted access; k goes on.  Race checking follows the record, not the page (R244). -/
def bufAccess (e : Env) (r : List DWord) (a : VReg) (write : Bool) (k : List Lane → State → Out) (t : State) : Out :=
  match bufLanes e r a with
  | .error x => .trap x
  | .ok pos =>
    match t.bufCheck e r write (groupAddrs r pos) with
    | .error x => .trap x
    | .ok l =>
      let t := t.settled e write l
      if t.flatHeld e write l then .hold 31
      else
        let rl := l.map fun x => { x with x := { x.x with attr := if bufRace r then x.x.attr ||| 0x20 else x.x.attr &&& ~~~0x20#12 } }
        match t.raceTrap e (etBytes (bufMfmt r)) rl with
        | some x => .trap x
        | none => k rl ((t.fillTlbs e (l.map (·.va))).raceTouch e (etBytes (bufMfmt r)) write false rl)

/-- R241: a memory element as the register value of the record. -/
def bufToReg (e : Env) (r : List DWord) (x : DWord) : DWord × BitVec 8 :=
  if bufEnc r == 0 then (loadedValue (bufMfmt r) (leBytes (etBytes (bufMfmt r)) (x.toNat % 2 ^ (8 * etBytes (bufMfmt r)))), 0)
  else convLoad r e.rm e.sat e.fz x
/-- R241: a register value as the memory element. -/
def regToBuf (e : Env) (r : List DWord) (x : DWord) : DWord × BitVec 8 := if bufEnc r == 0 then (x, 0) else convStore r e.rm e.sat e.fz x

/-- The elements of one lane's group: their bits, or why the first that fails does. -/
def loadGroup (e : Env) (r : List DWord) (l : List Lane) (s : State) : State × Except (Nat × Nat × DWord) (List (Lane × DWord)) :=
  l.foldl (fun z x => match z.2 with
    | .error _ => z
    | .ok vs => match loadElem e (!bufRace r && !bufAper r) (etBytes (bufMfmt r)) z.1 x with
      | (t, .ok v) => (t, .ok (vs ++ [(x, v)]))
      | (t, .error c) => (t, .error c)) (s, .ok [])
/-- R146, R238, R241: one lane of an `ldb`: where an element of its group fails, its registers stay and one report is made (log 19). -/
def ldbLane (e : Env) (r : List DWord) (d : VReg) (a : Loaded) (l : List Lane) : Loaded :=
  match loadGroup e r l a.s with
  | (t, .error c) => { a with s := t.reportAt e.u.b e.u.w c.1 c.2.1 c.2.2 e.pc }
  | (t, .ok vs) =>
    { s := t, peers := a.peers ++ l.filter Lane.peer
      eff := vs.foldl (fun f x =>
        let y := bufToReg e r x.2
        { f with v := f.v ++ words (isPair (bufRfmt r)) (bufReg r d (x.1.lane % 8)) (x.1.lane / 8) y.1, flags := f.flags ||| y.2 }) a.eff }

def plainLdb (d a : VReg) (r : List DWord) (e : Env) (t : State) : Out :=
  bufAccess e r a false (fun l t1 =>
    let z := (e.lanes.map fun i => l.filter fun x => x.lane / 8 == i).foldl (ldbLane e r d) { s := t1 }
    .next (finishLoad e (vbits d.toNat (isPair (bufRfmt r)) (bufIlv r)) { z with peers := z.peers.map fun x => { x with lane := x.lane / 8 } })) t

def plainStb (a d : VReg) (r : List DWord) (e : Env) (t : State) : Out :=
  bufAccess e r a true (fun l t1 =>
    let vals := l.map fun x => (x, regToBuf e r (e.elem (isPair (bufRfmt r)) (bufReg r d (x.lane % 8)) (x.lane / 8)))
    let fl := vals.foldl (fun f x => f ||| x.2.2) (0 : BitVec 8)
    .next (e.write { flags := fl } (t1.storeLanes e (vals.map fun x => (x.1, leBytes (etBytes (bufMfmt r)) x.2.1.toNat))))) t

/-! ### Encoded records (R256 to R264) -/

/-- The tag of a decoded line (R264), with its context. -/
def lineTag (e : Env) (r : List DWord) : Nat := ((e.ln.ctx * 4 + bufEnc r) * 64 + bufBudget r) * 2 + (if bufShape r then 1 else 0)
/-- Address of a block's map byte (R247). -/
def mapVa (r : List DWord) (j : Nat) : DWord := bufBase r + BitVec.ofNat 64 j
/-- The blocks of a list of positions, each once, rising by encoded address. -/
def blocksOf (r : List DWord) (l : List (Nat × Nat)) : List Nat :=
  l.foldl (fun a x => let j := (blockOf r x.2).1; if a.contains j then a else (a.filter (· < j)) ++ j :: a.filter (fun y => j < y)) []
/-- R239: the addresses that the lanes of an encoded access reach; of one lane the block's own first, and that is the one that fault1 names
where both fail (R240 names the lane only: log 33). -/
def encodedAddrs (r : List DWord) (l : List (Nat × Nat)) : List (Nat × DWord) :=
  (l.map fun x =>
    let j := (blockOf r x.2).1
    (x.1, blockVa r j) :: (if bufEnc r == 3 then [(x.1, mapVa r j)] else [])).flatten
/-- Where a block of a record stands, once checked. -/
def State.blockAt (s : State) (e : Env) (r : List DWord) (j : Nat) : Option BlockAt :=
  let key := fun (va : DWord) => match s.bufXlat e r false va with
    | .ok x => (match s.place x.pa x.host with | .mem k => some k | _ => none)
    | .error _ => none
  match key (blockVa r j) with
  | none => none
  | some k => if bufEnc r == 3 then (key (mapVa r j)).map fun m => { key := k, mapKey := some m } else some { key := k, mapKey := none }

/-- R262, R263: the race records of the blocks, by encoded key. -/
def State.blockRace (s : State) (e : Env) (r : List DWord) (l : List Nat) : Option Trap :=
  if !bufRace r then none
  else l.findSome? fun j => (s.blockAt e r j).bind fun x =>
    if s.races (s.idOf e.u.b e.u.w) (sget 0 s.raceBlk x.key) then some { cause := 19, info := blockVa r j } else none
def State.blockRaceTouch (s : State) (e : Env) (r : List DWord) (write : Bool) (l : List Nat) : State :=
  if !bufRace r || !write then s
  else l.foldl (fun s j => match s.blockAt e r j with
    | some x => { s with raceBlk := sset 0 s.raceBlk x.key (s.raceMark e.u.b e.u.w) }
    | none => s) s

/-- R310, R311: earlier work of the issuing arm on some blocks is done first: jobs that write them, or that an access would overwrite. -/
def State.blocksSettled (s : State) (e : Env) (write : Bool) (keys : List Nat) : State :=
  s.performJobs (fun j => keys.contains j.key && (write || j.write) && s.myJob e.u.b e.u.w e.u.armB j) (2 * s.sumac.length)
/-- Shared checks of an encoded access, whose locks wait for those of others (R263), and a write for the arm's captures (R334); k gets the positions, the blocks and where they stand. -/
def encAccess (e : Env) (r : List DWord) (a : VReg) (write : Bool)
    (k : List (Nat × Nat) → List Nat → (Nat → Option BlockAt) → State → Out) (t : State) : Out :=
  match bufLanes e r a with
  | .error x => .trap x
  | .ok pos =>
    match t.bufCheck e r write (encodedAddrs r pos) with
    | .error x => .trap x
    | .ok l =>
      let blocks := blocksOf r pos
      let keys := blocks.filterMap fun j => (t.blockAt e r j).map fun x => x.key
      let t := t.blocksSettled e write keys
      if (keys.any fun k => bufRace r && t.blockLocked k) || (write && t.capturing e.u.b e.u.w e.u.armB) then .hold 31
      else
        match t.blockRace e r blocks with
        | some x => .trap x
        | none => k pos blocks (t.blockAt e r) ((t.blockRaceTouch e r write blocks).fillTlbs e (l.map (·.va)))

/-- R264: the decoded line of a block that serves a load: present, and up to date or chosen stale (log 10). -/
def State.decodedLine (s : State) (e : Env) (r : List DWord) (at' : Option BlockAt) (j : Nat) : Option (List DWord) :=
  if bufRace r then none
  else
    match (s.core e.core).decoded.find? fun x => x.1 == (blockVa r j).toNat && x.2.1 == lineTag e r, at' with
    | some x, some k => if x.2.2.1 == s.storedBytes r k || s.pick (j % 4096) % 2 == 0 then some x.2.2.2 else none
    | _, _ => none

/-- A Sumac job of the issuing wave; with race checking it holds its block's lock from its issue (R263). -/
def sumacJob (e : Env) (r : List DWord) (j : Nat) (x : BlockAt) (id res d : Nat) : Sumac :=
  { id := id, who := some (e.u.b, e.u.w, e.u.armB), core := e.core, die := e.blk.die, write := false, buf := r, blk := j, key := x.key,
    mapKey := x.mapKey, updates := [], full := false, lanes := [], d := d, res := res, site := e.pc, seq := e.ln.seq, asid := e.cx.asid, locked := bufRace r }

/-- `ldb` through an encoded record: lines in L1 serve their lanes, Sumac reads the other blocks; a line passed over has been evicted
(R311). -/
def encLdb (d a : VReg) (r : List DWord) (e : Env) (t : State) : Out :=
  encAccess e r a false (fun pos blocks at' t1 =>
    let hit := blocks.filterMap fun j => (t1.decodedLine e r (at' j) j).map fun v => (j, v)
    let miss := blocks.filter fun j => !hit.any fun h => h.1 == j
    let t1 := t1.modCore e.core fun c =>
      { c with decoded := c.decoded.filter fun x => !(x.2.1 == lineTag e r && miss.any fun j => x.1 == (blockVa r j).toNat) }
    let now := pos.filterMap fun x =>
      let b := blockOf r x.2
      (hit.find? fun h => h.1 == b.1).map fun h => words true d.toNat x.1 (h.2.getD b.2 0)
    let jobs := miss.filterMap fun j => (at' j).map fun x => (j, x)
    let lost := miss.filter fun j => (at' j).isNone
    let res := t1.nextId
    let t2 := e.asLoad [] (e.outstanding (if jobs.isEmpty then .plain else .decode jobs.length) { v := now.flatten } (vbits d.toNat true 1) 0 t1)
    let t3 := jobs.foldl (fun s x =>
      { s with
        nextId := s.nextId + 1
        sumac := s.sumac ++ [{ sumacJob e r x.1 x.2 s.nextId res d.toNat with
          lanes := (pos.filter fun y => (blockOf r y.2).1 == x.1).map fun y => (y.1, (blockOf r y.2).2) }] }) t2
    .next (lost.foldl (fun s j => s.reportAt e.u.b e.u.w 3 1 (blockVa r j) e.pc) t3)) t

/-- `stb` through an encoded record: one block write for each block (R256). -/
def encStb (a d : VReg) (r : List DWord) (e : Env) (t : State) : Out :=
  encAccess e r a true (fun pos blocks at' t1 =>
    .next (blocks.foldl (fun s j =>
      match at' j with
      | none => s.reportAt e.u.b e.u.w 3 1 (blockVa r j) e.pc
      | some x =>
        let up := (pos.filter fun y => (blockOf r y.2).1 == j).foldl (fun (m : List (Nat × DWord)) y =>
          (m.filter fun z => z.1 != (blockOf r y.2).2) ++ [((blockOf r y.2).2, e.elem true d.toNat y.1)]) []
        let whole := (List.range 16).all fun i => isPadding r j i || up.any fun z => z.1 == i
        { s with
          nextId := s.nextId + 1
          sumac := s.sumac ++ [{ sumacJob e r j x s.nextId 0 0 with write := true, updates := up, full := whole }] }) t1)) t

/-! ### The instructions -/

def execLdb (sw : Bool) (d a : VReg) (buf : BitVec 8) (s : State) : Host.Outcome State Fault Refusal :=
  issue sw 4 (fun e => { pre := bufPre e buf, vs := [bufRegs (e.buf buf) d true, one a], guarded := true, mem := true })
    (fun e t => if bufEncoded (e.buf buf) then encLdb d a (e.buf buf) e t else plainLdb d a (e.buf buf) e t) s
def execStb (sw : Bool) (buf : BitVec 8) (a d : VReg) (s : State) : Host.Outcome State Fault Refusal :=
  issue sw 4 (fun e => { pre := bufPre e buf, vs := [bufRegs (e.buf buf) d false, one a], guarded := true, mem := true })
    (fun e t => if bufEncoded (e.buf buf) then encStb a d (e.buf buf) e t else plainStb a d (e.buf buf) e t) s

/-! ### Codec maintenance (R305) -/

/-- R305: check 3, then the blocks named. -/
def maintain (buf : BitVec 8) (ka kb : KReg) (k : List DWord → List Nat → Env → State → Out) (e : Env) (t : State) : Out :=
  let r := e.buf buf
  if (e.k ka).toNat + (e.k kb).toNat > bufBlocks r then .trap { cause := 18, info := e.k ka }
  else k r (span (e.k ka).toNat (e.k kb).toNat) e t
/-- R240, R305: checks 1 and 2 at their step. -/
def maintainForm (buf : BitVec 8) (ka kb : KReg) (e : Env) : Form :=
  { pre := if (bufPre e buf).isNone && bufEncoded (e.buf buf) then none else some { cause := 17, info := buf.setWidth 64 }
    ks := [ka.toNat, kb.toNat], mem := true }

def execZinv (sw : Bool) (buf : BitVec 8) (ka kb : KReg) (s : State) : Host.Outcome State Fault Refusal :=
  issue sw 4 (maintainForm buf ka kb) (maintain buf ka kb fun r l e t =>
    let vas := l.map fun j => (blockVa r j).toNat
    .next (t.modCore e.core fun c => { c with decoded := c.decoded.filter fun x => !(vas.contains x.1 && x.2.1 / 512 == e.ln.ctx) })) s

/-- R305: the wave goes on (R25); a fence that names LS waits until the block writes that the core has begun are applied. -/
def execZwb (sw : Bool) (buf : BitVec 8) (ka kb : KReg) (s : State) : Host.Outcome State Fault Refusal :=
  issue sw 4 (maintainForm buf ka kb) (maintain buf ka kb fun r l e t =>
    let keys := l.filterMap fun j => (t.blockAt e r j).map fun x => x.key
    let ids := (t.sumac.filter fun j => j.write && j.core == e.core && keys.contains j.key).map fun j => j.id
    .next (if ids.isEmpty then t else { t with nextId := t.nextId + 1, zwbs := t.zwbs ++ [(e.u.b, e.u.w, e.u.armB, t.nextId, ids)] })) s

/-- A full block write of its own values for each raw zrev block: a job that names no update.  The stored map byte says which blocks are raw,
be it uncorrectable (log 33). -/
def execZpack (sw : Bool) (buf : BitVec 8) (ka kb : KReg) (s : State) : Host.Outcome State Fault Refusal :=
  issue sw 4 (maintainForm buf ka kb) (maintain buf ka kb fun r l e t =>
    match t.bufCheck e r true ((l.map fun j => (0, blockVa r j) :: (if bufEnc r == 3 then [(0, mapVa r j)] else [])).flatten) with
    | .error x => .trap x
    | .ok _ =>
      let at' := l.filterMap fun j => (t.blockAt e r j).map fun x => (j, x)
      if bufEnc r == 2 then .next t
      else if t.capturing e.u.b e.u.w e.u.armB then .hold 31
      else
        let t := t.blocksSettled e true (at'.map fun x => x.2.key)
        .next (at'.foldl (fun s x =>
          if x.2.mapKey.any s.mapRaw then
            { s with
              nextId := s.nextId + 1
              sumac := s.sumac ++ [{ sumacJob e r x.1 x.2 s.nextId 0 0 with write := true, full := true, locked := false }] }
          else s) t)) s


end Sys2Proof.Machine
end

