-- ==== Sys2Proof/Machine/Channels.lean ====
section
/-! DEFINITION. Channels and frontiers (R350 to R373, R431, R432): sends, receives, held units, timestamps, frontier waits and
reads, batches, deliveries, credits, the external ring, graph registration, and graphs shared by a device group. -/
namespace Sys2Proof.Machine

/-- R367: CHANNEL_USE with a subcode and a port or channel. -/
def chInfo (sub place : Nat) : DWord := BitVec.ofNat 64 (sub + 256 * (place % 1024))
def chTrap (sub place : Nat) : Trap := { cause := 26, sub := sub, info := chInfo sub place }

/-- The graph a launch names, and the port or channel number in bit[9:0]. -/
def portOf (x : DWord) : Nat := (x.extractLsb' 0 10).toNat

/-- R431: the device that owns a port is another one. -/
def State.remotePort (s : State) (g q : Nat) : Bool :=
  let h := s.graph g
  h.group.isSome && h.place.getD q s.dev.number != s.dev.number

/-! ### Held units (R354) -/

def heldAny (l : List Held) (q : Nat) (t : DWord) : Bool := l.any fun h => h.port == q && tsLe h.ts t
def heldAt (l : List Held) (q : Nat) (t : DWord) : Bool := l.any fun h => h.port == q && h.ts == t
def heldJoins (l : List Held) (q : Nat) (t : DWord) : Bool := l.any fun h => h.port == q && h.ts == t && h.count < 65535
/-- One more unit: in the entry of its pointstamp, or in a free one. -/
def heldAdd : List Held → Nat → DWord → List Held
  | [], q, t => [{ port := q, ts := t, count := 1 }]
  | h :: r, q, t => if h.port == q && h.ts == t && h.count < 65535 then { h with count := h.count + 1 } :: r else h :: heldAdd r q t
/-- One unit fewer. -/
def heldDrop : List Held → Nat → DWord → List Held
  | [], _, _ => []
  | h :: r, q, t =>
    if h.port == q && h.ts == t then (if h.count ≤ 1 then r else { h with count := h.count - 1 } :: r) else h :: heldDrop r q t

/-- R354, R367: no free, unreserved entry. -/
def Block.heldFull (k : Block) : Bool := k.held.length + k.reserved ≥ 32

/-! ### Inbox rings (R358, R361, R362) -/

/-- The core byte of a ring position or landing slot of a block. -/
def State.slotByte (s : State) (g q b slot : Nat) : Nat :=
  let p := (s.graph g).port q
  (s.block b).coreByte (p.inbox + p.entryBytes * slot)

/-- R322: bytes written to a block's scratchpad on the CH path. -/
def State.chWrite (s : State) (b a : Nat) (l : List Byte) : State :=
  let core := (s.block b).core
  let t := s.scrPut core (cellsAt a l)
  if (t.launch (t.block b).launch).racing then t.touchRaceScr core (granules a l.length) 0 false true else t

/-- R361: the bytes of an entry with its header. -/
def Entry.bytes (e : Entry) : List Byte :=
  leBytes 8 e.ts.toNat ++ leBytes 2 e.chan ++ leBytes 2 (4 * e.payload.length) ++ leBytes 4 e.sender.toNat ++
  (e.payload.map fun w => leBytes 4 w.toNat).flatten

/-- R362, R369: the entry at a position of block v's ring goes to wave w of block b: landing slot, then the unit.  Its timestamp. -/
def State.takeEntry (s : State) (g q v pos b w : Nat) : DWord × State :=
  let p := (s.graph g).port q
  let l := s.scrBytes (s.block v).core (s.slotByte g q v (pos % p.ring)) p.entryBytes
  let ts : DWord := BitVec.ofNat 64 (field l 0 8)
  (ts, (s.chWrite b (s.slotByte g q b (p.ring + w)) l).modBlock b fun k => { k with held := heldAdd k.held q ts })

/-- The oldest `trecv` of a block that waits on a port: its wave and result. -/
def State.oldestRecv (s : State) (g q b : Nat) : Option (Nat × OutRes) :=
  let all := ((List.range (s.block b).waves.length).map fun w =>
    ((s.wave b w).outst.filter fun r => r.kind == .recv g q).map fun r => (w, r)).flatten
  match least (all.map fun x => x.2.id) with
  | none => none
  | some i => all.find? fun x => x.2.id == i

/-- R362, R369: the oldest waiting `trecv` of a block takes the entry at HEAD. -/
def State.serveRecv (s : State) (g q b : Nat) : State :=
  match (s.block b).inbox q with
  | none => s
  | some i =>
    if i.head < i.tail && (s.block b).resident && !(s.block b).restoring then
      (match s.oldestRecv g q b with
       | none => s
       | some (w, r) =>
         let x := s.takeEntry g q b i.head b w
         (x.2.modBlock b fun k => { k.modInbox q (fun i => { i with head := i.head + 1 }) with reserved := k.reserved - 1 }).modResult b w r.id
           fun r => { r.add { k := [(r.kd, x.1)] } with kind := .received })
    else s

/-- R358: the entry with this id becomes visible, where it may: it has arrived, its +1 is applied, and none sent before it by the
same core on the same channel to the same inbox is still pending. -/
def State.showEntry (s : State) (id : Nat) : State :=
  match s.entries.find? fun e => e.id == id with
  | none => s
  | some e =>
    match e.cons with
    | none => s
    | some b =>
      match (s.block b).inbox e.port with
      | none => s
      | some i =>
        let before := s.entries.any fun d => d.id < id && d.graph == e.graph && d.core == e.core && d.chan == e.chan && d.cons == e.cons
        if e.arrived && e.applied && !before && (s.block b).saved.isNone then
          let t := (s.chWrite b (s.slotByte e.graph e.port b (i.tail % ((s.graph e.graph).port e.port).ring)) e.bytes).modBlock b
            fun k => k.modInbox e.port fun i => { i with tail := i.tail + 1 }
          State.serveRecv { t with entries := t.entries.filter fun d => d.id != id } e.graph e.port b
        else s

/-- R358: every pending entry that may becomes visible, oldest first. -/
def State.settle (s : State) : State := (s.entries.map (·.id)).foldl State.showEntry s

/-! ### tsend (R368) -/

/-- R368: the payload of a lane. -/
def Env.payload (e : Env) (b : VReg) (w lane : Nat) : List Word := (List.range w).map fun i => e.wv.vreg (b.toNat + i) lane

/-- R432: port q's owner comes before this device in the ring of the graph's group. -/
def State.ownedBefore (s : State) (h : Graph) (q : Nat) : Bool :=
  match h.group with
  | some n =>
    let l := sget [] s.dev.groups n
    l.findIdx (· == h.place.getD q s.dev.number) < l.findIdx (· == s.dev.number)
  | none => false
/-- R431, R432: an entry goes to the owner of port q on another device, and is unacknowledged. -/
def State.sendAway (s : State) (g q : Nat) (x : Unacked) : State :=
  ({ s with nextId := s.nextId + 1 } : State).modGraph g fun h =>
    { h with unacked := h.unacked ++ [x], sentBack := h.sentBack || s.ownedBefore h q }

/-- R368: the entries of the active lanes, in lane order, with their credits; each +1 joins the open batch. -/
def State.sendLanes (s : State) (e : Env) (g c w : Nat) (b : VReg) (ts : DWord) (cons : List (Nat × Option Nat)) : State :=
  let q := ((s.graph g).edge c).dst
  let sender := BitVec.ofNat 32 (s.idOf e.u.b e.u.w)
  cons.foldl (fun s x =>
    match x.2 with
    | none =>
      s.sendAway g q { chan := c, b := e.u.b, w := e.u.w, armB := e.u.armB, id := s.nextId, ts := ts }
    | some k =>
      let n : Entry := { graph := g, chan := c, port := q, cons := some k, ts := ts, sender := sender, payload := e.payload b w x.1
                         core := e.core, b := e.u.b, w := e.u.w, armB := e.u.armB, id := s.nextId }
      ({ s with entries := s.entries ++ [n], nextId := s.nextId + 1 }).addDeltas e.core g [{ port := q, ts := ts, add := 1, entry := some s.nextId }]) s

/-- R368: the checks on the values, with at least one active lane; the sent timestamp. -/
def tsendCheck (g c n : Nat) (kc : DWord) (e : Env) (t : State) : Except Trap DWord :=
  let h := t.graph g
  let d := h.edge c
  if !heldAny e.blk.held d.src kc then .error (chTrap 6 d.src)
  else
    match (edgeSummary (h.port d.src).depth d).exact kc with
    | none => .error (chTrap 5 c)
    | some ts =>
      if !validAt (h.port d.dst).depth ts then .error (chTrap 4 d.src)
      else if t.remotePort g d.dst then .ok ts
      else if (t.consumers g d.dst).isEmpty then .error (chTrap 2 d.dst)
      else if n > (h.port d.dst).ring * (t.consumers g d.dst).length then .error (chTrap 9 d.dst)
      else .ok ts

/-- R363: the request for the credits of this `tsend`: the same instruction on the same values. -/
def Env.sendReq (e : Env) (g c : Nat) (kc : DWord) : SendReq :=
  { b := e.u.b, w := e.u.w, armB := e.u.armB, graph := g, chan := c, lanes := e.lanes.length, site := e.pc, kc := kc }
/-- R368: the registers of a payload of w words. -/
def payloadForm (b : VReg) (w : Nat) : Form := { vs := [{ r := b.toNat, n := w }] }
/-- R368, R387: the payload is read as the `tsend` sends: its request goes, and single-bit errors are corrected and counted. -/
def State.readPayload (t : State) (e : Env) (b : VReg) (w : Nat) : State :=
  if w == 0 then t.dropSend e.u else ((t.correctRegs e (payloadForm b w)).raiseFor e (payloadForm b w)).dropSend e.u
/-- R363, R368: a `tsend` that has asked for its credits waits for them and for the core's batches, then sends.  The one check made anew is
CONSUMER. -/
def tsendGo (g c w : Nat) (b : VReg) (ts : DWord) (r : SendReq) (e : Env) (t : State) : Out :=
  let q := ((t.graph g).edge c).dst
  if !t.remotePort g q && (t.consumers g q).isEmpty then .trap (chTrap 2 q)
  else if t.stalled e.core then .hold 12
  else
    match r.granted with
    | none => .hold 11
    | some l => .next ((t.readPayload e b w).sendLanes e g c w b ts (e.lanes.zip l))
/-- R363, R368: a `tsend` that passes its checks asks for its credits, also while the core's batches are stalled. -/
def tsendAsk (g c : Nat) (kc : DWord) (e : Env) (t : State) : Out :=
  .placed ({ t.dropSend e.u with sendReqs := (t.dropSend e.u).sendReqs ++ [e.sendReq g c kc] }.modArm e.u fun a => { a with reason := if t.stalled e.core then 12 else 11 })

def tsendBody (ka : KReg) (b : VReg) (kc : KReg) (e : Env) (t : State) : Out :=
  let a := e.k ka
  let c := portOf a
  let w := (a.extractLsb' 16 7).toNat
  match e.ln.graph with
  | none => .trap (chTrap 1 c)
  | some g =>
    let h := t.graph g
    let d := h.edge c
    if a &&& ~~~0x7F03FF#64 != 0 || c ≥ h.edges.length then .trap (chTrap 1 c)
    else if w > 64 then .trap (chTrap 3 d.dst)
    else
      match if w == 0 then none else (payloadForm b w).check e with
      | some x => .trap x
      | none =>
        if 4 * w > 16 * (h.port d.dst).plen then .trap (chTrap 3 d.dst)
        else if !validAt (h.port d.src).depth (e.k kc) then .trap (chTrap 4 d.src)
        else if e.lanes.isEmpty then (if t.stalled e.core then .hold 12 else .next t)
        else
          match t.sendReqs.find? fun r => { r with granted := none } == e.sendReq g c (e.k kc), (edgeSummary (h.port d.src).depth d).exact (e.k kc) with
          | some r, some ts => tsendGo g c w b ts r e t
          | _, _ =>
            match tsendCheck g c e.lanes.length (e.k kc) e t with
            | .error x => .trap x
            | .ok _ => tsendAsk g c (e.k kc) e t

def execTsend (sw : Bool) (ka : KReg) (b : VReg) (kc : KReg) (s : State) : Host.Outcome State Fault Refusal :=
  issue sw 8 (fun _ => { ks := [ka.toNat, kc.toNat], guarded := true, mem := true }) (tsendBody ka b kc) s

/-! ### Receives (R369) -/

/-- R369: a receive of this wave, from either arm, is outstanding: waiting, or with its result still to be written. -/
def Wave.recvOut (v : Wave) : Bool := v.outst.any fun r => match r.kind with | .recv _ _ => true | .received => true | _ => false

/-- R369: PORT, then CONSUMER; the graph and port. -/
def recvPortCheck (a legal : DWord) (e : Env) (t : State) : Except Trap (Nat × Nat) :=
  let q := portOf a
  match e.ln.graph with
  | none => .error (chTrap 1 q)
  | some g =>
    if a &&& ~~~legal != 0 || q ≥ (t.graph g).ports.length then .error (chTrap 1 q)
    else if (e.blk.inbox q).isNone then .error (chTrap 2 q)
    else .ok (g, q)
/-- R369: PORT, CONSUMER, HELD_FULL; the graph and port. -/
def recvCheck (a legal : DWord) (e : Env) (t : State) : Except Trap (Nat × Nat) :=
  match recvPortCheck a legal e t with
  | .error x => .error x
  | .ok (g, q) => if e.blk.heldFull then .error (chTrap 7 q) else .ok (g, q)

def execTrecv (sw : Bool) (kd ka : KReg) (s : State) : Host.Outcome State Fault Refusal :=
  issue sw 8 (fun _ => { ks := [kd.toNat, ka.toNat], mem := true }) (fun e t =>
    if e.wv.recvOut then .hold 27
    else
      match recvCheck (e.k ka) 0x3FF e t with
      | .error x => .trap x
      | .ok (g, q) =>
        .next (((e.outstanding (.recv g q) {} [128 + kd.toNat] kd.toNat t).modBlock e.u.b fun k => { k with reserved := k.reserved + 1 }).serveRecv g q e.u.b)) s

/-- R369: a receive that completes with what it finds; none: NONE. -/
def recvNow (kd : KReg) (e : Env) (r : Option (DWord × State)) (t : State) : Out :=
  match r with
  | none => .next (e.outstanding .received { k := [(kd.toNat, NONE)] } [128 + kd.toNat] 0 t)
  | some (ts, u) => .next (e.outstanding .received { k := [(kd.toNat, ts)] } [128 + kd.toNat] 0 u)

def execTpoll (sw : Bool) (kd ka : KReg) (s : State) : Host.Outcome State Fault Refusal :=
  issue sw 8 (fun _ => { ks := [kd.toNat, ka.toNat], mem := true }) (fun e t =>
    if e.wv.recvOut then .hold 27
    else
      match recvCheck (e.k ka) 0x3FF e t with
      | .error x => .trap x
      | .ok (g, q) =>
        match e.blk.inbox q with
        | none => .trap (chTrap 2 q)
        | some i =>
          if i.head < i.tail then
            let x := t.takeEntry g q e.u.b i.head e.u.b e.u.w
            recvNow kd e (some (x.1, x.2.modBlock e.u.b fun k => k.modInbox q fun i => { i with head := i.head + 1 })) t
          else recvNow kd e none t) s

/-- R369, R367: the victim: a consumer, or a completed block of the bound launch whose range is still held. -/
def State.victim (s : State) (g q n : Nat) : Option Nat :=
  match (s.graph g).bound with
  | none => none
  | some l => (List.range s.blocks.length).find? fun b =>
      (s.block b).launch == l && s.consumerIndex b == n && ((s.block b).inbox q).isSome

def execTsteal (sw : Bool) (kd ka : KReg) (s : State) : Host.Outcome State Fault Refusal :=
  issue sw 8 (fun _ => { ks := [kd.toNat, ka.toNat], mem := true }) (fun e t =>
    if e.wv.recvOut then .hold 27
    else
      match recvPortCheck (e.k ka) 0x1FFF03FF e t with
      | .error x => .trap x
      | .ok (g, q) =>
        match t.victim g q ((e.k ka).extractLsb' 16 13).toNat with
        | none => .trap (chTrap 2 q)
        | some v =>
          match (t.block v).inbox q with
          | none => .trap (chTrap 2 q)
          | some i =>
            if e.blk.heldFull then .trap (chTrap 7 q)
            else if i.head < i.tail && (t.block v).saved.isNone then
              let x := t.takeEntry g q v (i.tail - 1) e.u.b e.u.w
              recvNow kd e (some (x.1, x.2.modBlock v fun k => k.modInbox q fun i => { i with tail := i.tail - 1 })) t
            else recvNow kd e none t) s

/-! ### Held units and timestamps (R370, R371) -/

/-- R370: PORT, then FORMAT. -/
def unitCheck (a ts : DWord) (e : Env) (t : State) : Except Trap (Nat × Nat) :=
  let q := portOf a
  match e.ln.graph with
  | none => .error (chTrap 1 q)
  | some g =>
    if a &&& ~~~0x3FF#64 != 0 || q ≥ (t.graph g).ports.length then .error (chTrap 1 q)
    else if !validAt ((t.graph g).port q).depth ts then .error (chTrap 4 q)
    else .ok (g, q)

/-- R356, R365: the count change of a `tcap` or `tdrop` joins the open batch. -/
def State.unitDelta (s : State) (e : Env) (g q : Nat) (ts : DWord) (add : Int) : State :=
  ({ s with nextId := s.nextId + 1 } : State).addDeltas e.core g
    [{ port := q, ts := ts, add := add, own := some (e.u.b, e.u.w, e.u.armB, s.nextId) }]

def execTcap (sw : Bool) (ka kb : KReg) (s : State) : Host.Outcome State Fault Refusal :=
  issue sw 8 (fun _ => { ks := [ka.toNat, kb.toNat], mem := true }) (fun e t =>
    if t.stalled e.core then .hold 12
    else
      match unitCheck (e.k ka) (e.k kb) e t with
      | .error x => .trap x
      | .ok (g, q) =>
        if !heldAny e.blk.held q (e.k kb) then .trap (chTrap 6 q)
        else if !heldJoins e.blk.held q (e.k kb) && e.blk.heldFull then .trap (chTrap 7 q)
        else .next ((t.modBlock e.u.b fun k => { k with held := heldAdd k.held q (e.k kb) }).unitDelta e g q (e.k kb) 1)) s

def execTdrop (sw : Bool) (ka kb : KReg) (s : State) : Host.Outcome State Fault Refusal :=
  issue sw 8 (fun _ => { ks := [ka.toNat, kb.toNat], mem := true }) (fun e t =>
    if t.stalled e.core then .hold 12
    else
      match unitCheck (e.k ka) (e.k kb) e t with
      | .error x => .trap x
      | .ok (g, q) =>
        if !heldAt e.blk.held q (e.k kb) then .trap (chTrap 6 q)
        else .next ((t.modBlock e.u.b fun k => { k with held := heldDrop k.held q (e.k kb) }).unitDelta e g q (e.k kb) (-1))) s

/-- A timestamp with counter i replaced. -/
def setCtr (t : DWord) (i v : Nat) : DWord :=
  let f := fun j => if j == i then v else ctr t j
  mkTs (f 0) (f 1) (f 2) (f 3)

/-- R371: `tadv`. -/
def tadvResult (op d i n : Nat) (t : DWord) : Except Nat DWord :=
  if (op == 0 && d == 3) || (op == 1 && d == 0) || (op == 2 && i > d) || !validAt d t then .error 4
  else if op == 0 then .ok t
  else if op == 1 then .ok (setCtr t d 0)
  else if ctr t i + n > 65535 then .error 5
  else .ok (setCtr t i (ctr t i + n))

def execTadv (sw : Bool) (kd ka : KReg) (op d c : BitVec 2) (n : Half) (s : State) : Host.Outcome State Fault Refusal :=
  issue sw 8 (kForm [kd, ka]) (fun e t =>
    match tadvResult op.toNat d.toNat c.toNat n.toNat (e.k ka) with
    | .error x => .trap (chTrap x 0)
    | .ok r => .next (e.write { k := [(kd.toNat, r)] } t)) s

/-- R371: `tsum`. -/
def tsumResult (a b : DWord) : Option DWord :=
  if (List.range 4).all fun i => ctr a i + ctr b i ≤ 65535 then
    some (mkTs (ctr a 0 + ctr b 0) (ctr a 1 + ctr b 1) (ctr a 2 + ctr b 2) (ctr a 3 + ctr b 3))
  else none

def execTsum (sw : Bool) (kd ka kb : KReg) (s : State) : Host.Outcome State Fault Refusal :=
  issue sw 8 (kForm [kd, ka, kb]) (fun e t =>
    match tsumResult (e.k ka) (e.k kb) with
    | none => .trap (chTrap 5 0)
    | some r => .next (e.write { k := [(kd.toNat, r)] } t)) s

/-! ### Frontier words (R372, R373) -/

/-- The virtual address of a port's frontier word. -/
def State.frontVa (s : State) (g q : Nat) : DWord := (s.graph g).front + BitVec.ofNat 64 (128 * q)

def execFwait (sw : Bool) (ka kb : KReg) (s : State) : Host.Outcome State Fault Refusal :=
  issue sw 8 (fun _ => { ks := [ka.toNat, kb.toNat], mem := true }) (fun e t =>
    match unitCheck (e.k ka) (e.k kb) e t with
    | .error x => .trap x
    | .ok (g, q) =>
      match t.flatCheck e 8 false [(0, t.frontVa g q)] with
      | .error x => .trap x
      | .ok l =>
        match t.waitKey l with
        | none => .next ((t.fillTlbs e [t.frontVa g q]).reportAt e.u.b e.u.w 3 1 (t.frontVa g q) e.pc)
        | some (key, leafHome) =>
          let st : ArmSt := .fwait g q key (e.k kb)
          let t1 := (t.fillTlbs e [t.frontVa g q]).compareAt e.core key 128
          if t1.firstCompare st key 128 then .next t1
          else
            let t2 := t1.compareReport e.u key 128 (t.frontVa g q) e.pc
            .placed (((t2.advance e.u (e.pc + 8)).modArm e.u fun a => { a with st := st, reason := 15, waited := 0 }).armMonitor e.u key (t2.home (key % peerBit) leafHome))) s

/-- R373: the byte offset of a field. -/
def freadOffset (x : Nat) : Nat := if x == 8 then 8 else if x == 9 then 0 else 16 + 8 * x

def execFread (sw : Bool) (kd ka : KReg) (s : State) : Host.Outcome State Fault Refusal :=
  issue sw 8 (fun _ => { ks := [kd.toNat, ka.toNat], mem := true }) (fun e t =>
    let a := e.k ka
    let q := portOf a
    let x := (a.extractLsb' 16 4).toNat
    match e.ln.graph with
    | none => .trap (chTrap 1 q)
    | some g =>
      if a &&& ~~~0xF03FF#64 != 0 || q ≥ (t.graph g).ports.length then .trap (chTrap 1 q)
      else if x > 9 then .trap (chTrap 4 q)
      else
        let va := t.frontVa g q + BitVec.ofNat 64 (freadOffset x)
        match t.flatCheck e 8 false [(0, va)] with
        | .error y => .trap y
        | .ok l =>
          .next (finishLoad e [128 + kd.toNat]
            (l.foldl (loadLane e false 8 fun _ v f => { f with k := [(kd.toNat, v)] }) { s := t.fillTlbs e [va] }))) s

/-! ### Batches, deliveries, credits (R356 to R360, R363) -/

/-- R356: a batch of 64 deltas is closed. -/
def execBatchFull (core g : Nat) (s : State) : Host.Outcome State Fault Refusal :=
  match s.openBatches.find? fun x => x.core == core && x.graph == g with
  | some x => if x.deltas.length ≥ 64 then .next (s.closeBatch core g) else .next s
  | none => .next s

/-- R356: 1 µs after its first delta a batch is closed. -/
def execBatchTimer (core g : Nat) (s : State) : Host.Outcome State Fault Refusal := .next (s.closeBatch core g)

/-- R357. -/
def execBatchApply (core : Nat) (s : State) : Host.Outcome State Fault Refusal := .next (s.applyBatch core).settle

/-- R358: the entry with this id reaches its inbox controller. -/
def execInboxDelivery (i : Nat) (s : State) : Host.Outcome State Fault Refusal :=
  if s.entries.any fun e => e.id == i && !e.arrived then
    .next (State.settle { s with entries := s.entries.map fun e => if e.id == i then { e with arrived := true } else e })
  else .next s

/-- R360: port q's word is written. -/
def execFrontierWordWrite (g q : Nat) (s : State) : Host.Outcome State Fault Refusal :=
  if (s.graph g).dirty.contains q then .next (s.writeFrontier g q) else .next s

/-- R363, R431: this owner's Cardamom gives a `tsend` of another device its n credits on a channel, together or not at all. -/
def State.lendCredits (s : State) (g chan n : Nat) : State :=
  let h := s.graph g
  let q := (h.edge chan).dst
  if h.group.isNone || chan ≥ h.edges.length || s.remotePort g q then s
  else
    match s.grant g q n with
    | none => s
    | some (l, pos) => s.modGraph g fun h => { h with rotation := sset 0 h.rotation q pos, lent := h.lent ++ l.map fun b => (chan, b) }
/-- R363: the credits of the i-th waiting `tsend`, together or not at all; a remote port's come from its owner, in answer to the request
(R431). -/
def State.grantOwn (s : State) (i : Nat) : State :=
  match s.sendReqs[i]? with
  | none => s
  | some r =>
    let q := ((s.graph r.graph).edge r.chan).dst
    let give := fun (t : State) (l : List (Option Nat)) => { t with sendReqs := upd t.sendReqs i fun r => { r with granted := some l } }
    if r.granted.isSome then s
    else if s.remotePort r.graph q then give s (List.replicate r.lanes none)
    else
      match s.grant r.graph q r.lanes with
      | none => s
      | some (l, pos) => give (s.modGraph r.graph fun h => { h with rotation := sset 0 h.rotation q pos }) (l.map some)
/-- The event CREDIT_GRANT, of the i-th `tsend` that waits here, or of one on another device: graph, channel, lanes. -/
def execCreditGrant (req : Nat ⊕ (Nat × Nat × Nat)) (s : State) : Host.Outcome State Fault Refusal :=
  .next (match req with
    | .inl i => s.grantOwn i
    | .inr (g, chan, n) => s.lendCredits g chan n)

/-! ### The external ring (R364) -/

/-- The core number under which Cardamom's own batches go, and those of other devices' entries. -/
def extCore : Nat := 1024
def remoteCore : Nat := 1025

/-- A record of the external ring. -/
structure ExtRec where
  chan : Nat
  len : Nat
  capop : Nat
  ts : DWord
  capport : Nat
  capts : DWord
  payload : List Byte

def extRecOf (l : List Byte) : ExtRec :=
  { chan := field l 0 2, len := field l 2 2, capop := field l 4 1, ts := BitVec.ofNat 64 (field l 8 8), capport := field l 16 2
    capts := BitVec.ofNat 64 (field l 24 8), payload := slice l 32 256 }

/-- The words of a payload. -/
def wordsOf (l : List Byte) : List Word := (List.range (l.length / 4)).map fun i => BitVec.ofNat 32 (field l (4 * i) 4)

/-- R364: the rule that a record's send breaks, or the sent timestamp; none where it sends nothing. -/
def State.extSend (s : State) (g : Nat) (r : ExtRec) : Except (Nat × Nat) (Option DWord) :=
  let h := s.graph g
  let d := h.edge r.chan
  if r.chan == 0xFFFF then .ok none
  else if r.chan ≥ h.edges.length then .error (1, r.chan)
  else if r.len > 256 || r.len % 4 != 0 || r.len > 16 * (h.port d.dst).plen then .error (3, d.dst)
  else if !validAt (h.port d.src).depth r.ts then .error (4, d.src)
  else if !h.extCaps.any fun c => c.1 == d.src && tsLe c.2.1 r.ts then .error (6, d.src)
  else
    match (edgeSummary (h.port d.src).depth d).exact r.ts with
    | none => .error (5, r.chan)
    | some ts =>
      if !validAt (h.port d.dst).depth ts then .error (4, d.src)
      else if !s.remotePort g d.dst && (s.consumers g d.dst).isEmpty then .error (2, d.dst)
      else .ok (some ts)

/-- R364: the rule that a record's capability change breaks; the change otherwise. -/
def State.extCap (s : State) (g : Nat) (r : ExtRec) : Except (Nat × Nat) (List Delta) :=
  let h := s.graph g
  if r.capop == 0 then .ok []
  else if r.capop > 2 || r.capport ≥ h.ports.length then .error (1, r.capport)
  else if !validAt (h.port r.capport).depth r.capts then .error (4, r.capport)
  else if r.capop == 1 then
    (if h.extCaps.any fun c => c.1 == r.capport && tsLe c.2.1 r.capts then .ok [{ port := r.capport, ts := r.capts, add := 1 }] else .error (6, r.capport))
  else if h.extCaps.any fun c => c.1 == r.capport && c.2.1 == r.capts then .ok [{ port := r.capport, ts := r.capts, add := -1 }]
  else .error (6, r.capport)

/-- R364: XHEAD is raised. -/
def State.raiseXhead (s : State) (g head : Nat) : Option State :=
  match s.ctxStore (s.ctx (s.graph g).ctx) ((s.graph g).image + 32) (leBytes 8 (head + 1)) with
  | .ok t => some t
  | .error _ => none

/-- R364: the send of a record to a local consumer or to its owner, with the capability change in the same batch. -/
def State.extApply (s : State) (g : Nat) (r : ExtRec) (ts : Option DWord) (caps : List Delta) : Option State :=
  let q := ((s.graph g).edge r.chan).dst
  let withCaps := fun (t : State) =>
    t.modGraph g fun h => { h with extCaps := caps.foldl (fun l d => countAdd l d.port d.ts d.add) h.extCaps }
  match ts with
  | none => some (((withCaps s).addDeltas extCore g caps).closeBatch extCore g)
  | some t =>
    if s.remotePort g q then
      some (((withCaps (s.sendAway g q { chan := r.chan, b := 0xFFFF, w := 0xFFFF, id := s.nextId, ts := t })).addDeltas extCore g caps).closeBatch extCore g)
    else
      match s.grant g q 1 with
      | some ([b], pos) =>
        let n : Entry := { graph := g, chan := 0xFFFF, port := q, cons := some b, ts := t, sender := 0, payload := wordsOf (r.payload.take r.len)
                           core := extCore, b := 0xFFFF, w := 0xFFFF, id := s.nextId }
        let t1 := { s with entries := s.entries ++ [n], nextId := s.nextId + 1 }.modGraph g fun h => { h with rotation := sset 0 h.rotation q pos }
        some (((withCaps t1).addDeltas extCore g ({ port := q, ts := t, add := 1, entry := some s.nextId } :: caps)).closeBatch extCore g)
      | _ => none

/-- R364: the record at XHEAD is taken or skipped; while its credit is missing, it waits. -/
def State.takeExternal (s : State) (g : Nat) : State :=
  let h := s.graph g
  let c := s.ctx h.ctx
  if h.xring == 0 || s.stalled extCore || s.agentWaits (g, 16) then s
  else
    let s := s.ctxFix c (h.image + 32) 16
    match s.ctxLoad c (h.image + 32) 16 with
    | .error _ => s
    | .ok l =>
      let head := field l 0 8
      let tail := field l 8 8
      if head ≥ tail then s.armAgent (g, 16) c (h.image + 32)
      else if tail - head > 2 ^ h.xlog2n then s
      else
        let va := h.xring + BitVec.ofNat 64 (320 * (head % 2 ^ h.xlog2n))
        let s := s.ctxFix c va 320
        match s.ctxLoad c va 320 with
        | .error x => (((s.post h.ctx { cause := x.1, sub := x.2, nowave := true, info := va }).raiseXhead g head).getD s)
        | .ok rec =>
          let r := extRecOf rec
          let skip := fun (x : Nat × Nat) =>
            ((s.post h.ctx { cause := 26, sub := x.1, nowave := true, info := chInfo x.1 x.2 }).raiseXhead g head).getD s
          match s.extSend g r, s.extCap g r with
          | .error x, _ => skip x
          | .ok _, .error x => skip x
          | .ok ts, .ok caps =>
            match s.raiseXhead g head with
            | none => s
            | some t => (t.extApply g r ts caps).getD s

def execExternalRecordTake (g : Nat) (s : State) : Host.Outcome State Fault Refusal := .next (s.takeExternal g)

/-! ### Graphs shared by a group (R431, R432) -/

/-- R431: the oldest credit on a channel that another device holds is used: its consumer block; where that consumer has completed since, one
that a new grant names. -/
def State.useCredit (s : State) (g chan : Nat) : Option (Nat × State) :=
  let q := ((s.graph g).edge chan).dst
  match (s.graph g).lent.findIdx? fun x => x.1 == chan with
  | none => none
  | some i =>
    let b := ((s.graph g).lent.getD i (0, 0)).2
    let t := s.modGraph g fun h => { h with lent := dropAt h.lent i }
    if (s.consumers g q).contains b then some (b, t)
    else
      match t.grant g q 1 with
      | some ([b], pos) => some (b, t.modGraph g fun h => { h with rotation := sset 0 h.rotation q pos })
      | _ => none
/-- R431: an entry of another device, whose credit this owner gave, arrives; its +1 goes into a batch here. -/
def execRemoteEntryArrival (g chan : Nat) (ts : DWord) (sender : Word) (payload : List Word) (s : State) : Host.Outcome State Fault Refusal :=
  let h := s.graph g
  let q := (h.edge chan).dst
  if h.group.isNone || chan ≥ h.edges.length || s.remotePort g q then .next s
  else
    match s.useCredit g chan with
    | some (b, t) =>
      let n : Entry := { graph := g, chan := chan, port := q, cons := some b, ts := ts, sender := sender, payload := payload
                         core := remoteCore, b := 0xFFFF, w := 0xFFFF, id := s.nextId }
      .next (({ t with entries := t.entries ++ [n], nextId := t.nextId + 1 }.addDeltas remoteCore g
        [{ port := q, ts := ts, add := 1, entry := some s.nextId }]).closeBatch remoteCore g)
    | none => .next s

/-- R359, R432: a local frontier merged into an antichain, met beyond eight elements; OVF stays while an earlier meet is an element. -/
def mergeChains (a : List DWord × Bool) (b : List DWord) : List DWord × Bool :=
  let n := announce (minimal (a.1 ++ b))
  (n.1, n.2 || (a.2 && a.1.any n.1.contains))

/-- R432: a device with the token and no unacknowledged send merges its local frontiers, blackens the token where it must, and
passes it on. -/
def State.passToken (s : State) (g : Nat) : State :=
  let h := s.graph g
  match h.token with
  | none => s
  | some t =>
    if !h.unacked.isEmpty then s
    else
      s.modGraph g fun h =>
        { h with token := none, sentBack := false
                 passed := some { round := t.round, black := t.black || h.sentBack
                                  chains := (List.range h.ports.length).map fun q => mergeChains (t.chains.getD q ([], false)) (h.frontier q) } }

/-- R432: this device leads the graph's group. -/
def State.leads (s : State) (g : Nat) : Bool :=
  match (s.graph g).group with
  | some n => (sget [] s.dev.groups n).head? == some s.dev.number
  | none => false

/-- R432: frontiers are declared to this member. -/
def State.declare (s : State) (g : Nat) (chains : List (List DWord × Bool)) : State :=
  s.modGraph g fun h => Graph.markDirty { h with declared := chains }

/-- R432: the token arrives; at the leader it ends its round, and the next one starts. -/
def execFrontierToken (g round : Nat) (black : Bool) (chains : List (List DWord × Bool)) (s : State) : Host.Outcome State Fault Refusal :=
  if (s.graph g).group.isNone || (s.graph g).token.isSome then .next s
  else if s.leads g then
    let t := if black then s else s.declare g chains
    .next ((t.modGraph g fun h => { h with token := some { round := round + 1, black := false, chains := h.ports.map fun _ => ([], false) } }).passToken g)
  else .next ((s.modGraph g fun h => { h with token := some { round := round, black := black, chains := chains } }).passToken g)

/-- R431: the owner reports that the +1 of the i-th unacknowledged entry is applied; a token that waited goes on. -/
def execSendAcknowledge (g i : Nat) (s : State) : Host.Outcome State Fault Refusal :=
  if i < (s.graph g).unacked.length then .next ((s.modGraph g fun h => { h with unacked := dropAt h.unacked i }).passToken g) else .next s

/-- R432: a member writes declared frontiers into its words. -/
def execFrontierDeclare (g : Nat) (chains : List (List DWord × Bool)) (s : State) : Host.Outcome State Fault Refusal :=
  if (s.graph g).group.isNone then .next s else .next (s.declare g chains)

/-! ### Registration (R350, R351) -/

def portAt (l : List Byte) (i : Nat) : Port :=
  let o := 64 + 16 * i
  { depth := field l o 1, plen := field l (o + 1) 1, log2e := field l (o + 2) 1, inbox := field l (o + 4) 4, icap := field l (o + 8) 4 }
def edgeAt (l : List Byte) (n i : Nat) : Edge :=
  let o := 64 + 16 * n + 16 * i
  { src := field l o 2, dst := field l (o + 2) 2, kind := field l (o + 4) 1, vec := BitVec.ofNat 64 (field l (o + 8) 8) }
def zeroAt (l : List Byte) (o n : Nat) : Bool := (slice l o n).all (· == 0)

/-- R350: the limits of the header, the ports and the edges, reserved bytes included. -/
def imageOk (l : List Byte) : Bool :=
  let np := field l 0 2
  let ne := field l 2 2
  let x := field l 16 8
  1 ≤ np && np ≤ 1024 && ne ≤ 1024 &&
  zeroAt l 4 4 && zeroAt l 25 7 && zeroAt l 48 16 &&
  field l 8 8 % 128 == 0 && canonical (BitVec.ofNat 64 (field l 8 8)) &&
  x % 4096 == 0 && canonical (BitVec.ofNat 64 x) &&
  (x == 0 || (1 ≤ field l 24 1 && field l 24 1 ≤ 16)) && field l 32 8 == 0 && field l 40 8 ≤ 2 ^ field l 24 1 &&
  ((List.range np).all fun i =>
    let p := portAt l i
    p.depth ≤ 3 && p.plen ≤ 16 && p.log2e ≤ 12 && p.inbox % 16 == 0 && zeroAt l (64 + 16 * i + 3) 1 && zeroAt l (64 + 16 * i + 12) 4) &&
  ((List.range ne).all fun i =>
    edgeOk ((List.range np).map (portAt l)) (edgeAt l np i) && zeroAt l (64 + 16 * np + 16 * i + 5) 3)

/-- R351, R353, R432: the graph of an accepted image. -/
def State.newGraph (s : State) (x : Nat) (image : DWord) (group : Option Nat) (place : List Nat) (l : List Byte) : Graph :=
  let ports := (List.range (field l 0 2)).map (portAt l)
  let edges := (List.range (field l 2 2)).map (edgeAt l (field l 0 2))
  let mine := fun q => group.isNone || place.getD q s.dev.number == s.dev.number
  let caps := fun (own : Bool) => (List.range ports.length).filterMap fun q =>
    let n := (ports.getD q ⟨0, 0, 0, 0, 0⟩).icap
    if n == 0 || (own && !mine q) then none else some (q, (0 : DWord), n)
  let g : Graph :=
    { ctx := x, num := (s.graphs.filter fun g => g.ctx == x).length, image := image, ports := ports, edges := edges
      front := BitVec.ofNat 64 (field l 8 8), xring := BitVec.ofNat 64 (field l 16 8), xlog2n := field l 24 1
      sums := (List.range ports.length).map (summariesFrom ports edges), counts := caps true, extCaps := caps true
      ann := ports.map fun _ => ([], false, 0), group := group, place := place }
  { g with declared := (List.range ports.length).map fun q => announce ({ g with counts := caps false }.frontier q) }

/-- R426, R431: a shared graph names a registered group, and its placement table has an entry without reserved bits for each port. -/
def State.placeOk (s : State) (group : Option Nat) (place : List Nat) (ports : Nat) : Bool :=
  match group with
  | none => true
  | some n => shas s.dev.groups n && place.length == ports && place.all (· < 2 ^ 20)
/-- R351: a graph image is checked, and registered where nothing is wrong with it. -/
def State.registerGraph (s : State) (x : Nat) (image : DWord) (group : Option Nat) (place : List Nat) : State :=
  let c := s.ctx x
  let s := s.ctxFix c image 64
  match s.ctxLoad c image 64 with
  | .error _ => s
  | .ok hd =>
    let s := s.ctxFix c image (64 + 16 * min 1024 (field hd 0 2) + 16 * min 1024 (field hd 2 2))
    match s.ctxLoad c image (64 + 16 * min 1024 (field hd 0 2) + 16 * min 1024 (field hd 2 2)) with
    | .error _ => s
    | .ok l =>
      if !imageOk l || !s.placeOk group place (field l 0 2) then s
      else
        let g := s.newGraph x image group place l
        if identityCycle g.ports g.edges g.sums || g.sums.any (fun r => r.any fun l => l.length > 4) then s
        else
          match s.ctxStore c (image + 32) (leBytes 8 0) with
          | .error _ => s
          | .ok t =>
            let n := t.graphs.length
            let t1 := (List.range g.ports.length).foldl (fun u q => u.writeFrontier n q) { t with graphs := t.graphs ++ [g] }
            if t1.leads n then
              (t1.modGraph n fun h => { h with token := some { round := 1, black := false, chains := h.ports.map fun _ => ([], false) } }).passToken n
            else t1

def execGraphRegister (x : Nat) (image : DWord) (group : Option Nat) (place : List Nat) (s : State) : Host.Outcome State Fault Refusal :=
  let t := s.registerGraph x image group place
  s.setup ((s.ctx x).live && s.graphs.length < t.graphs.length) t

end Sys2Proof.Machine
end

