-- ==== Sys2Proof/Machine/Copy.lean ====
section
/-! DEFINITION. The copy engine (R329 to R343): issue, capture of the parameter block, elements, counter, and `cstat`. -/
namespace Sys2Proof.Machine

/-! ### The parameter block (R332, R333) -/

/-- The fields of a captured block; dimension 0 first. -/
structure Tensor where
  tbase : DWord
  obase : DWord
  caddr : DWord
  cinc : DWord
  fill : DWord
  ext : List Nat
  rank : Nat
  size : Nat
  dir : Nat
  strides : List Nat
  org : List Int
  box : List Nat
  reservedOk : Bool
  deriving DecidableEq, Repr

/-- A 32-bit two's-complement field. -/
def fieldInt (l : List Byte) (o : Nat) : Int := (BitVec.ofNat 32 (field l o 4)).toInt

def tensorOf (l : List Byte) : Tensor :=
  let ctl := field l 0x3C 4
  let size := 2 ^ (ctl / 16 % 4)
  { tbase := BitVec.ofNat 64 (field l 0 8), obase := BitVec.ofNat 64 (field l 8 8), caddr := BitVec.ofNat 64 (field l 0x10 8)
    cinc := BitVec.ofNat 64 (field l 0x18 8), fill := BitVec.ofNat 64 (field l 0x20 8)
    ext := (List.range 5).map fun d => field l (0x28 + 4 * d) 4
    rank := ctl % 8, size := size, dir := ctl / 64 % 4
    strides := size :: (List.range 4).map fun d => field l (0x40 + 8 * d) 8
    org := (List.range 5).map fun d => fieldInt l (0x60 + 4 * d)
    box := (List.range 5).map fun d => field l (0x74 + 2 * d) 2
    reservedOk := ctl / 8 % 2 == 0 && ctl / 256 == 0 && field l 0x7E 2 == 0 }

/-- Bytes of the dense side. -/
def Tensor.bytes (t : Tensor) : Nat := t.box.foldl (· * ·) t.size

/-- R333: whether a captured block is valid, for a block of a given allocation. -/
def Tensor.valid (t : Tensor) (alloc : Nat) : Bool :=
  let at' := fun (l : List Nat) d => l.getD d 0
  t.reservedOk && 1 ≤ t.rank && t.rank ≤ 5 && t.dir ≤ 2 &&
  canonical t.tbase && t.tbase.toNat % t.size == 0 && t.obase.toNat % t.size == 0 &&
  (if t.dir == 1 then canonical t.obase else t.obase >>> 19 == 0) &&
  (t.caddr == 0 || (t.caddr.toNat % 8 == 0 && canonical t.caddr)) &&
  ((List.range 5).all fun d =>
    (d < t.rank || (at' t.ext d == 0 && (d == 0 || at' t.strides d == 0) && t.org.getD d 0 == 0)) &&
    (if d < t.rank then 1 ≤ at' t.box d && at' t.box d ≤ 256 else at' t.box d == 1) &&
    (d == 0 || (at' t.strides d < 2 ^ 48 && at' t.strides d % t.size == 0))) &&
  t.bytes ≤ 2 ^ 24 && (t.dir == 1 || t.obase.toNat + t.bytes ≤ alloc)

/-- R336: the box positions, dimension 0 innermost. -/
def positions : List Nat → List (List Nat)
  | [] => [[]]
  | b :: t => ((positions t).map fun r => (List.range b).map fun i => i :: r).flatten

/-- R336: the tensor coordinates of a position. -/
def Tensor.coords (t : Tensor) (p : List Nat) : List Int := (t.org.zip p).map fun x => x.1 + x.2
def Tensor.clipped (t : Tensor) (p : List Nat) : Bool :=
  (List.range t.rank).any fun d => (t.coords p).getD d 0 < 0 || (t.coords p).getD d 0 ≥ (t.ext.getD d 0 : Int)
/-- R336: the tensor address. -/
def Tensor.address (t : Tensor) (p : List Nat) : DWord :=
  BitVec.ofInt 64 (((t.coords p).zip t.strides).foldl (fun a x => a + x.1 * x.2) (t.tbase.toNat : Int))
/-- R336: the dense offset of a position. -/
def Tensor.dense (t : Tensor) (p : List Nat) : Nat :=
  ((p.zip t.box).foldr (fun x a => x.1 + x.2 * a) 0) * t.size

/-! ### Issue (R331) -/

def copyBody (ka : KReg) (e : Env) (t : State) : Out :=
  let va := e.k ka
  if e.wv.idx != e.ln.producer then .trap { cause := 12 }
  else if va &&& 0x7F#64 != 0 then .trap { cause := 2, info := va }
  else
    match t.flatCheck e 128 false [(0, va)] with
    | .error x => .trap x
    | .ok l =>
      if (t.core e.core).copies.length ≥ 32 then .hold 10
      else if t.flatHeld e false l then .hold 31
      else
        let c : Copy :=
          { id := t.nextId, b := e.u.b, w := e.u.w, armB := e.u.armB, since := if e.wv.divided then e.wv.division else t.nextId, ka := va, site := e.pc }
        .next { (t.fillTlbs e [va]).modCore e.core fun k => { k with copies := k.copies ++ [c] } with nextId := t.nextId + 1 }

def execCopy (sw : Bool) (ka : KReg) (s : State) : Host.Outcome State Fault Refusal :=
  issue sw 8 (fun _ => { ks := [ka.toNat], mem := true }) (copyBody ka) s

/-! ### cstat (R343) -/

/-- R343: the snapshot for the copies of a block issued before id. -/
def State.copySnapshot (s : State) (core b id : Nat) (ka : DWord) : DWord :=
  let l := (s.core core).copies
  let mine := l.filter fun c => c.b == b && c.id < id && (ka == 0 || (match c.block with | some p => (tensorOf p).caddr == ka | none => false))
  BitVec.ofNat 64 ((32 - l.length) * 2 ^ 48 + min 0xFFFF (s.block b).copyFaults * 2 ^ 32 + mine.length)
/-- Every copy that the block issued before id is captured. -/
def State.allCaptured (s : State) (core b id : Nat) : Bool := !(s.core core).copies.any fun c => c.b == b && c.id < id && c.block.isNone

/-- R343: the block's `cstat` results whose copies are captured are bound. -/
def State.bindCstat (s : State) (core b : Nat) : State :=
  s.modBlock b fun k => { k with waves := k.waves.map fun v =>
    { v with outst := v.outst.map fun r => match r.kind with
      | .cstat ka => if s.allCaptured core b r.id then { r.add { k := [(r.kd, s.copySnapshot core b r.id ka)] } with kind := .plain } else r
      | _ => r } }

def execCstat (sw : Bool) (kd ka : KReg) (s : State) : Host.Outcome State Fault Refusal :=
  issue sw 8 (fun _ => { ks := [kd.toNat, ka.toNat] })
    (fun e t => .next ((e.outstanding (.cstat (e.k ka)) {} [128 + kd.toNat] kd.toNat t).bindCstat e.core e.u.b)) s

/-! ### Capture (R334, R335) -/

/-- The event COPY_CAPTURE of the copy with this id: 128 bytes as the wave's own load would read them at the home slice. -/
def execCopyCapture (core i : Nat) (s : State) : Host.Outcome State Fault Refusal :=
  match (s.core core).copies.find? fun c => c.id == i && c.block.isNone with
  | none => .next s
  | some c =>
    let cx := s.ctx (s.launch (s.block c.b).launch).ctx
    let fail := fun (x : Nat × Nat) =>
      ((s.reportAt c.b c.w x.1 x.2 c.ka c.site).modCore core fun k => { k with copies := k.copies.filter fun y => y.id != i }).bindCstat core c.b
    match s.translate (core / 64) cx c.ka false false with
    | .error x => .next ((fail x).endBlock c.b)
    | .ok x =>
      match flatPage x with
      | some e => .next ((fail e).endBlock c.b)
      | none =>
      match s.place x.pa x.host with
      | .mem key =>
        if s.badIn key 128 then .next ((fail (21, 0)).endBlock c.b)
        else
          let t := ((s.memCorrect key 128).recall [key / 128]).fillTlb (core / 64) cx c.ka
          .next ((t.modCore core fun k =>
            { k with copies := k.copies.map fun y => if y.id == i then { y with block := some (t.bytesAt key 128) } else y
                     pcache := (k.pcache ++ [(cx.asid * 2 ^ 57 + c.ka.toNat % 2 ^ 57, key / 128)]).drop (k.pcache.length + 1 - 8) }).bindCstat core c.b)
      | .peer w o =>
        match s.peerFate (s.importKey w o) with
        | some e => .next ((fail e).endBlock c.b)
        | none =>
        let z := s.peerRead (s.importKey w o) 128
        .next ((z.2.modCore core fun k => { k with copies := k.copies.map fun y => if y.id == i then { y with block := some z.1 } else y }).bindCstat core c.b)
      | _ => .next ((fail (3, 1)).endBlock c.b)

/-! ### Elements (R336, R337, R340) -/

/-- What a copy has done so far: the state, its failures, whether it read a compute-mode bank. -/
structure Moved where
  s : State
  fails : List (Nat × Nat × DWord) := []
  busy : Bool := false

def Moved.fail (m : Moved) (cause sub : Nat) (info : DWord) : Moved := { m with fails := m.fails ++ [(cause, sub, info)] }

/-- The key of an element, a peer's above peerBit, or its failure. -/
def State.copyKey (s : State) (die : Nat) (cx : Context) (va : DWord) (write : Bool) : Except (Nat × Nat) Nat :=
  match s.translate die cx va write false with
  | .error e => .error e
  | .ok x =>
    match flatPage x with
    | some e => .error e
    | none => match s.place x.pa x.host with
      | .mem k => .ok k
      | .peer w o => .ok (s.importKey w o)
      | _ => .error (3, 1)

/-- An element read from memory. -/
def Moved.load (m : Moved) (die : Nat) (cx : Context) (va : DWord) (n : Nat) : Moved × Option (List Byte) :=
  match m.s.copyKey die cx va false with
  | .error e => (m.fail e.1 e.2 va, none)
  | .ok k =>
    if k ≥ peerBit then
      match m.s.peerFate k with
      | some e => (m.fail e.1 e.2 va, none)
      | none => let z := m.s.peerRead k n; ({ m with s := z.2 }, some z.1)
    else if m.s.badIn k n then (m.fail 21 0 va, none)
    else ({ m with s := ((m.s.memCorrect k n).recall (granules k n)).fillTlb die cx va }, some (m.s.bytesAt k n))
/-- An element written to memory at system scope by a core's engine: it clears the race record, and the core's L1 keeps nothing older
(R311, R313). -/
def Moved.store (m : Moved) (core : Nat) (cx : Context) (va : DWord) (l : List Byte) : Moved :=
  let die := core / 64
  match m.s.copyKey die cx va true with
  | .error e => m.fail e.1 e.2 va
  | .ok k =>
    let cells := cellsAt k l
    if k ≥ peerBit then
      match m.s.peerFate k with
      | some e => { m.fail e.1 e.2 va with s := m.s.peerKnow k (l.map fun _ => none) }
      | none => { m with s := m.s.peerKnow k (l.map some) }
    else if (m.s.unmergeable cells).isEmpty then { m with s := ((m.s.agentWrite cells (some core)).clearRaceAt (cells.map (·.1))).fillTlb die cx va } else m.fail 21 0 va
/-- An element read from the block's scratchpad. -/
def Moved.loadScr (m : Moved) (core b o n : Nat) : Moved × Option (List Byte) :=
  let a := (m.s.block b).coreByte o
  if m.s.computeIn core a n then ({ m with busy := true }, some (List.replicate n 0))
  else if m.s.scrBad core a n then (m.fail 21 0 (BitVec.ofNat 64 o), none)
  else let t := m.s.scrCorrectAll core (span a n); ({ m with s := t }, some (t.scrBytes core a n))
/-- An element written to the block's scratchpad. -/
def Moved.storeScr (m : Moved) (core b o : Nat) (l : List Byte) : Moved :=
  let a := (m.s.block b).coreByte o
  let cells := cellsAt a l
  if m.s.computeIn core a l.length then m.fail 14 0 (BitVec.ofNat 64 o)
  else if !(m.s.scrUnmergeable core cells).isEmpty then m.fail 21 0 (BitVec.ofNat 64 o)
  else
    let t := m.s.scrPut core cells
    { m with s := if (t.launch (t.block b).launch).racing then t.touchRaceScr core (granules a l.length) 0 false true else t }

/-- R336, R340: one box position; nothing is read where the page of either side fails. -/
def copyElem (t : Tensor) (core b : Nat) (cx : Context) (m : Moved) (p : List Nat) : Moved :=
  let die := core / 64
  let fill := leBytes t.size t.fill.toNat
  let o := t.obase + BitVec.ofNat 64 (t.dense p)
  let clip := t.clipped p
  match t.dir with
  | 0 =>
    if clip then m.storeScr core b o.toNat fill
    else (match m.load die cx (t.address p) t.size with
      | (n, some l) => n.storeScr core b o.toNat l
      | (n, none) => n)
  | 1 =>
    if clip then m.store core cx o fill
    else (match m.s.copyKey die cx o true with
      | .error e => m.fail e.1 e.2 o
      | .ok _ => match m.load die cx (t.address p) t.size with
        | (n, some l) => n.store core cx o l
        | (n, none) => n)
  | _ =>
    if clip then m
    else (match m.s.copyKey die cx (t.address p) true with
      | .error e => m.fail e.1 e.2 (t.address p)
      | .ok _ => match m.loadScr core b o.toNat t.size with
        | (n, some l) => n.store core cx (t.address p) l
        | (n, none) => n)

/-! ### Order and completion (R338, R339, R341) -/

/-- The elements that a copy of a captured block reads and writes, as (space, first byte): space 0 memory, a peer's above peerBit, 1 the
block's scratchpad. -/
def State.copyTouches (s : State) (core : Nat) (c : Copy) (p : List Byte) : List (Nat × Nat) × List (Nat × Nat) :=
  let t := tensorOf p
  let cx := s.ctx (s.launch (s.block c.b).launch).ctx
  let mem := fun (va : DWord) (write : Bool) => match s.translate (core / 64) cx va write false with
    | .ok x => (match s.place x.pa x.host with | .mem k => [(0, k)] | .peer w o => [(0, s.importKey w o)] | _ => [])
    | .error _ => []
  let ps := if t.valid (s.allocation (s.block c.b)) then positions t.box else []
  let inner := ps.filter fun q => !t.clipped q
  let dense := fun q => t.obase + BitVec.ofNat 64 (t.dense q)
  match t.dir with
  | 0 => ((inner.map fun q => mem (t.address q) false).flatten, ps.map fun q => (1, (dense q).toNat))
  | 1 => ((inner.map fun q => mem (t.address q) false).flatten, (ps.map fun q => mem (dense q) true).flatten)
  | _ => (inner.map fun q => (1, (dense q).toNat), (inner.map fun q => mem (t.address q) true).flatten)
/-- R339: the eight bytes of the counter that a copy adds to. -/
def State.copyCounter (s : State) (core : Nat) (c : Copy) (p : List Byte) : List (Nat × Nat) :=
  let t := tensorOf p
  if t.caddr == 0 then []
  else match s.translate (core / 64) (s.ctx (s.launch (s.block c.b).launch).ctx) t.caddr true false with
    | .ok x => (match s.place x.pa x.host with | .mem k => [(0, k)] | .peer w o => [(0, s.importKey w o)] | _ => [])
    | .error _ => []
/-- Elements of n bytes share a byte with elements of m bytes. -/
def meets (n m : Nat) (x y : List (Nat × Nat)) : Bool := x.any fun a => y.any fun b => a.1 == b.1 && a.2 < b.2 + m && b.2 < a.2 + n
/-- R338: a later copy of a wave reads or writes a byte that an earlier one writes, be it of its counter, or writes a byte that it reads. -/
def State.dependsOn (s : State) (core : Nat) (later earlier : Copy) (p q : List Byte) : Bool :=
  let x := s.copyTouches core later p
  let y := s.copyTouches core earlier q
  let n := (tensorOf p).size
  let m := (tensorOf q).size
  let z := s.copyCounter core earlier q
  meets n m x.1 y.2 || meets n m x.2 y.2 || meets n m x.2 y.1 || meets n 8 x.1 z || meets n 8 x.2 z

/-- R269: an `amode` that issued before a copy of its block is switching a bank that the copy touches. -/
def State.copyHeld (s : State) (core : Nat) (c : Copy) (p : List Byte) : Bool :=
  (s.core core).arb.any fun x => x.b == c.b && x.id < c.id && (match x.op with
    | .amode banks _ _ _ => (let z := s.copyTouches core c p; (z.1 ++ z.2).any fun a => a.1 == 1 && banks.getLsbD (a.2 / 65536))
    | _ => false)
/-- R310, R338, R402: the copy may complete: captured, not stopped, not held by a mode switch, no copy earlier in its wave's program order
in its way, be it recorded with its pre-empted block (R403). -/
def State.copyReady (s : State) (core : Nat) (c : Copy) : Bool :=
  match c.block with
  | none => false
  | some p =>
    !c.stopped && !s.copyHeld core c p && !((s.core core).copies ++ ((s.block c.b).saved.getD {}).copies).any fun d =>
      d.id < c.id && d.b == c.b && d.w == c.w && (d.armB == c.armB || d.id < c.since) &&
      (match d.block with | some q => s.dependsOn core c d p q | none => true)

/-- R336: the given positions of a valid copy, in order. -/
def State.copyElems (s : State) (core : Nat) (c : Copy) (t : Tensor) (ps : List (List Nat)) : Moved :=
  ps.foldl (copyElem t core c.b (s.ctx (s.launch (s.block c.b).launch).ctx)) { s := s }

/-- A list in an order that f chooses: its j-th choice is the place of the next element among those that are left. -/
def shuffle {α : Type} (f : Nat → Nat) : Nat → List α → List α
  | 0, l => l
  | _, [] => []
  | _, [x] => [x]
  | n + 1, x :: y :: t =>
    let i := f n % (t.length + 2)
    ((x :: y :: t).getD i x) :: shuffle f n (dropAt (x :: y :: t) i)

/-- R339, R427: the counter add of a copy, at the home slice or at a peer device, performed before the copy's entry is freed; why it cannot be
made. -/
def State.copyAdd (s : State) (core : Nat) (c : Copy) (t : Tensor) : Except (Nat × Nat) State :=
  s.engineAdd (core / 64) (s.ctx (s.launch (s.block c.b).launch).ctx) t.caddr t.cinc true

/-- R336, R339, R340, R343, R403: the elements from PROGRESS on, in any order (R337), then the counter add; a copy that took a fault is
counted, and one of its faults is reported (R341). -/
def State.runCopy (s : State) (core : Nat) (c : Copy) (p : List Byte) : State :=
  let t := tensorOf p
  let ok := t.valid (s.allocation (s.block c.b))
  let ps := (positions t.box).drop c.progress
  let m : Moved := if ok then s.copyElems core c t (shuffle (fun j => s.pick (1048576 + j % 1048576)) ps.length ps) else { s := s, fails := [(25, 0, c.ka)] }
  let counted := ok || t.caddr.toNat % 8 == 0
  let r : State × List (Nat × Nat × DWord) :=
    if t.caddr == 0 || !counted then (m.s, [])
    else match m.s.copyAdd core c t with
      | .ok u => (u, [])
      | .error e => (m.s, [(e.1, e.2, t.caddr)])
  let s1 := if m.busy || c.busy then r.1.modWave c.b c.w fun v => v.apply { flags := fBusy } else r.1
  let fails := c.fault.toList ++ m.fails
  match if fails.isEmpty then r.2.head? else if c.fault.isSome then c.fault else fails[s.pick 2 % fails.length]? with
  | some f =>
    (s1.modBlock c.b fun k => { k with copyFaults := min 0xFFFF (k.copyFaults + 1) }).report c.b c.w
      { cause := f.1, sub := f.2.1, info := f.2.2, site := c.site, seq := (s.launch (s.block c.b).launch).seq }
  | none => s1

/-- The event COPY_COMPLETE of the copy with this id. -/
def execCopyComplete (core i : Nat) (s : State) : Host.Outcome State Fault Refusal :=
  match (s.core core).copies.find? fun c => c.id == i with
  | none => .next s
  | some c =>
    match c.block with
    | none => .next s
    | some p =>
      if s.copyReady core c then
        .next (((s.runCopy core c p).modCore core fun k => { k with copies := k.copies.filter fun y => y.id != i }).endBlock c.b)
      else .next s

end Sys2Proof.Machine
end

