-- ==== Sys2Proof/Machine/Authenticate.lean ====
section
/-! DEFINITION. What R439 takes from GB/T 32918.2: the SM3 hash, and the SM2 signature check on the standard's curve with its default
distinguishing identifier (log 7). -/
namespace Sys2Proof.Machine

/-! ### SM3 -/

/-- A number of n bytes, the most significant first. -/
def beNat (l : List Byte) : Nat := l.foldl (fun a b => a * 256 + b.toNat) 0
/-- n bytes of a number, the most significant first. -/
def beBytes (n x : Nat) : List Byte := (leBytes n x).reverse

def sm3P0 (x : Word) : Word := x ^^^ x.rotateLeft 9 ^^^ x.rotateLeft 17
def sm3P1 (x : Word) : Word := x ^^^ x.rotateLeft 15 ^^^ x.rotateLeft 23

/-- The next n words of the expansion, the latest word first. -/
def sm3Expand : Nat → List Word → List Word
  | 0, l => l
  | n + 1, l =>
    let w := fun i => l.getD (i - 1) 0
    sm3Expand n ((sm3P1 (w 16 ^^^ w 9 ^^^ (w 3).rotateLeft 15) ^^^ (w 13).rotateLeft 7 ^^^ w 6) :: l)

/-- One round: the registers A to H, with the words W and W′. -/
def sm3Round (r : List Word) (j : Nat) (w w' : Word) : List Word :=
  let x := fun i => r.getD i 0
  let a12 := (x 0).rotateLeft 12
  let t : Word := if j < 16 then 0x79CC4519 else 0x7A879D8A
  let ss1 := (a12 + x 4 + t.rotateLeft (j % 32)).rotateLeft 7
  let ff := if j < 16 then x 0 ^^^ x 1 ^^^ x 2 else (x 0 &&& x 1) ||| (x 0 &&& x 2) ||| (x 1 &&& x 2)
  let gg := if j < 16 then x 4 ^^^ x 5 ^^^ x 6 else (x 4 &&& x 5) ||| (~~~(x 4) &&& x 6)
  [ff + x 3 + (ss1 ^^^ a12) + w', x 0, (x 1).rotateLeft 9, x 2, sm3P0 (gg + x 7 + ss1 + w), x 4, (x 5).rotateLeft 19, x 6]

/-- The compression of one block of 64 bytes. -/
def sm3Block (v : List Word) (block : List Byte) : List Word :=
  let first := (List.range 16).map fun i => BitVec.ofNat 32 (beNat (slice block (4 * i) 4))
  let w := (sm3Expand 52 first.reverse).reverse
  let r := (List.range 64).foldl (fun r j => sm3Round r j (w.getD j 0) (w.getD j 0 ^^^ w.getD (j + 4) 0)) v
  (v.zip r).map fun x => x.1 ^^^ x.2

/-- SM3 of a message, as a number. -/
def sm3 (m : List Byte) : BitVec 256 :=
  let zeros := (119 - m.length % 64) % 64
  let l := m ++ [0x80#8] ++ List.replicate zeros 0 ++ beBytes 8 (8 * m.length)
  let iv : List Word := [0x7380166F, 0x4914B2B9, 0x172442D7, 0xDA8A0600, 0xA96F30BC, 0x163138AA, 0xE38DEE4D, 0xB0FB0E4E]
  let v := (List.range (l.length / 64)).foldl (fun v i => sm3Block v (slice l (64 * i) 64)) iv
  BitVec.ofNat 256 (v.foldl (fun a x => a * 2 ^ 32 + x.toNat) 0)

/-! ### SM2 -/

def sm2P : Nat := 0xFFFFFFFEFFFFFFFFFFFFFFFFFFFFFFFFFFFFFFFF00000000FFFFFFFFFFFFFFFF
def sm2A : Nat := 0xFFFFFFFEFFFFFFFFFFFFFFFFFFFFFFFFFFFFFFFF00000000FFFFFFFFFFFFFFFC
def sm2B : Nat := 0x28E9FA9E9D9F5E344D5A9E4BCF6509A7F39789F515AB8F92DDBCBD414D940E93
def sm2N : Nat := 0xFFFFFFFEFFFFFFFFFFFFFFFFFFFFFFFF7203DF6B21C6052B53BBF40939D54123
def sm2Gx : Nat := 0x32C4AE2C1F1981195F9904466A39C9948FE30BBFF2660BE1715A4589334C74C7
def sm2Gy : Nat := 0xBC3736A2F4F6779C59BDCEE36B692153D0A9877CC62A474002DF32E52139F0A0

/-- x^e modulo the field's prime, over the n low bits of e. -/
def powMod (x e : Nat) : Nat → Nat
  | 0 => 1
  | n + 1 => (if e % 2 == 1 then x else 1) * powMod (x * x % sm2P) (e / 2) n % sm2P
def invMod (x : Nat) : Nat := powMod x (sm2P - 2) 256

/-- The sum of two points of the curve; none is the point at infinity. -/
def sm2Add : Option (Nat × Nat) → Option (Nat × Nat) → Option (Nat × Nat)
  | none, y => y
  | x, none => x
  | some (x1, y1), some (x2, y2) =>
    if x1 == x2 && (y1 + y2) % sm2P == 0 then none
    else
      let d := if x1 == x2 then (3 * x1 * x1 + sm2A) * invMod (2 * y1 % sm2P) % sm2P
        else (y2 + sm2P - y1) * invMod ((x2 + sm2P - x1) % sm2P) % sm2P
      let x3 := (d * d + 2 * sm2P - x1 - x2) % sm2P
      some (x3, (d * (x1 + sm2P - x3) + sm2P - y1) % sm2P)
/-- k times a point, over the n low bits of k. -/
def sm2Mul (k : Nat) (x : Option (Nat × Nat)) : Nat → Option (Nat × Nat)
  | 0 => none
  | n + 1 => sm2Add (if k % 2 == 1 then x else none) (sm2Mul (k / 2) (sm2Add x x) n)

/-- Z of a public key of 64 bytes, with the default identifier of 16 bytes. -/
def sm2Z (key : List Byte) : BitVec 256 :=
  let id := [0x31#8, 0x32#8, 0x33#8, 0x34#8, 0x35#8, 0x36#8, 0x37#8, 0x38#8]
  sm3 (beBytes 2 128 ++ id ++ id ++ beBytes 32 sm2A ++ beBytes 32 sm2B ++ beBytes 32 sm2Gx ++ beBytes 32 sm2Gy ++ key)
/-- R439 step 3: the message carries a valid signature (r, s) under the key. -/
def sm2Valid (key sig message : List Byte) : Bool :=
  let r := beNat (sig.take 32)
  let s := beNat (sig.drop 32)
  let e := (sm3 (beBytes 32 (sm2Z key).toNat ++ message)).toNat
  let t := (r + s) % sm2N
  1 ≤ r && r < sm2N && 1 ≤ s && s < sm2N && t != 0 &&
  match sm2Add (sm2Mul s (some (sm2Gx, sm2Gy)) 256) (sm2Mul t (some (beNat (key.take 32) % sm2P, beNat (key.drop 32) % sm2P)) 256) with
  | some (x, _) => (e + x) % sm2N == r
  | none => false

end Sys2Proof.Machine
end

