-- ==== Sys2Proof/Machine/Divergence.lean ====
section
/-! DEFINITION. Divergence and reconvergence, exits, mask words, octets, yield and barriers (R185 to R189, R199 to R206). -/
namespace Sys2Proof.Machine

/-- R191: lanes that the other arm still can bring: its current mask unless it has stopped. -/
def Wave.siblingLanes (v : Wave) (armB : Bool) : LaneMask :=
  match v.b with
  | none => 0
  | some b => if armB then (if v.a.st == .stopped then 0 else v.a.mask) else if b.st == .stopped then 0 else b.mask

/-- R190: the member set of a descriptor. -/
def memberSet (d : DWord) : LaneMask :=
  (List.range 32).foldl (fun m w => if d.getLsbD (32 + w) then m ||| ((d.extractLsb' 0 32).setWidth 1024 <<< (32 * w)) else m) 0
/-- The lowest lane of a mask. -/
def lowestLane (m : LaneMask) : Nat := ((List.range 1024).find? fun i => m.getLsbD i).getD 0

/-- R192: the arm's waiting warp-wide instance raises MEMBER_EXITED for the lowest of the lanes that it misses. -/
def State.warpLost (s : State) (u : Cursor) (lost : LaneMask) : State :=
  (s.modArm u fun a => { a with st := .ready }).takeTrap u 8 { cause := 6, info := BitVec.ofNat 64 (lowestLane lost) }
/-- R192: the sibling of an arm that reaches its rejoin gives up its waiting instance. -/
def State.warpRejoin (s : State) (u : Cursor) : State :=
  let o : Cursor := { u with armB := !u.armB }
  match (s.arm o).st with
  | .warp x => if (s.wave u.b u.w).divided then s.warpLost o (memberSet x.desc &&& ~~~x.exec) else s
  | _ => s

/-- R192: a waiting warp-wide instance whose missing members can no longer arrive raises MEMBER_EXITED. -/
def State.warpCheck (s : State) (b w : Nat) (armB : Bool) : State :=
  let v := s.wave b w
  match (v.arm armB).st with
  | .warp x =>
    let lost := memberSet x.desc &&& ~~~(x.exec ||| v.siblingLanes armB)
    if (armB && v.b.isNone) || lost == 0 then s else s.warpLost { b := b, w := w, armB := armB } lost
  | _ => s

/-- R185: the divergence. -/
def bdivBody (q : QPred) (tgt rejoin : BitVec 30) (e : Env) (t : State) : Out :=
  if e.wv.stack.length ≥ 16 then .trap { cause := 10 }
  else
    let cur := e.arm.mask
    let tk := cur &&& e.q q
    let fl := cur &&& ~~~(e.q q)
    let top := !e.wv.divided
    let en : StackEntry :=
      { ownerB := e.u.armB, topmost := top, rejoin := target e rejoin, parent := cur, mode := e.arm.mode, pend := fl, pendPc := e.pc + 12, pendDone := false }
    let go := fun (a : Arm) => { a with mask := tk, pc := target e tgt, lastIssue := t.ticks, reason := 0, skipBp := false }
    let t1 := t.modWave e.u.b e.u.w fun v =>
      if top then
        { v with stack := v.stack ++ [en], a := go v.a, division := t.nextId
                 b := some { v.a with mask := fl, pc := e.pc + 12, lastIssue := t.ticks, reason := 0, skipBp := false }
                 outst := v.outst.map fun r => { r with owner := 2 } }
      else { v.modArm e.u.armB go with stack := v.stack ++ [en] }
    .placed (t1.warpCheck e.u.b e.u.w (!e.u.armB))

def execBdiv (sw : Bool) (q : QPred) (tgt rejoin : BitVec 30) (s : State) : Host.Outcome State Fault Refusal :=
  issue sw 12 (fun _ => { ps := [q.p.toNat] }) (bdivBody q tgt rejoin) s

/-- The innermost entry of an arm (R186): its own last serialised one, else the topmost. -/
def Wave.innermost (v : Wave) (armB : Bool) : Option (Nat × StackEntry) :=
  let l := (List.range v.stack.length).zip v.stack
  match (l.filter fun x => !x.2.topmost && x.2.ownerB == armB).getLast? with
  | some x => some x
  | none => l.find? fun x => x.2.topmost

/-- R186: the arm is at its rejoin address, or has no lane left. -/
def Wave.atRejoin (v : Wave) (armB : Bool) : Bool :=
  (v.arm armB).mask == 0 ||
  (match v.innermost armB with
   | some x => (v.arm armB).pc == x.2.rejoin
   | none => false)

/-- R301: what remains incomplete of the fences of two arms that become one: both orders, the larger scope, all paths. -/
def mergeFence : Option Fence → Option Fence → Option Fence
  | some x, some y => some { kind := if x.kind == y.kind then x.kind else 0, scope := max x.scope y.scope, paths := x.paths ||| y.paths }
  | some x, none => some x
  | none, y => y

/-- R186: both arms have stopped: the topmost entry is popped and the wave is undivided.  It goes on with the later of the arms'
last-issue times, the incomplete fences of both, and arm A's scope (log 33). -/
def Wave.popTop (v : Wave) : Wave :=
  match v.b, v.stack.find? fun x => x.topmost with
  | some b, some x =>
    if v.a.st == .stopped && b.st == .stopped then
      { v with
        stack := v.stack.filter fun y => !y.topmost
        b := none
        outst := v.outst.map fun r => { r with owner := 0 }
        a := { v.a with mask := x.parent &&& ~~~v.exited, pc := x.rejoin, mode := x.mode, dmask := 0, st := .ready, arrival := none
                        fence := mergeFence v.a.fence b.fence, lastIssue := max v.a.lastIssue b.lastIssue, reason := 0 } }
    else v
  | _, _ => v

/-- R186: what reaching the rejoin does, once the arm's results are in.  The pop of a serialised entry keeps the arm's arrival record
(R204, log 33). -/
def State.rejoinArm (s : State) (u : Cursor) : State :=
  let v := s.wave u.b u.w
  match v.innermost u.armB with
  | none => if (v.arm u.armB).mask == 0 then s.endWave u.b u.w else s
  | some (i, x) =>
    if x.topmost then
      s.modWave u.b u.w fun v => (v.modArm u.armB fun a => { a with st := .stopped, reason := 5 }).popTop
    else if !x.pendDone then
      s.modWave u.b u.w fun v =>
        { v.modArm u.armB fun a => { a with mask := x.pend &&& ~~~v.exited, pc := x.pendPc, mode := x.mode, dmask := 0, st := .ready } with
          stack := upd v.stack i fun y => { y with pendDone := true } }
    else
      s.modWave u.b u.w fun v =>
        { v.modArm u.armB fun a => { a with mask := x.parent &&& ~~~v.exited, pc := x.rejoin, mode := x.mode, dmask := 0, st := .ready } with
          stack := dropAt v.stack i }

/-- R186, R369: receives that no lane is left to take are cancelled. -/
def Wave.dropRecv (v : Wave) : Wave := { v with outst := v.outst.filter fun r => match r.kind with | .recv _ _ => false | _ => true }.unpark

/-- R369: a wave without lanes receives nothing more. -/
def State.cancelRecv (s : State) (b w : Nat) : State :=
  let recvs := ((s.wave b w).outst.filter fun r => match r.kind with | .recv _ _ => true | _ => false).length
  if recvs != 0 && lowMask (s.launch (s.block b).launch).lanes &&& ~~~(s.wave b w).exited == 0 then
    (s.modWave b w Wave.dropRecv).modBlock b fun k => { k with reserved := k.reserved - recvs }
  else s

/-- The event REJOIN at the issuing arm: it waits for its results, then continues a pending arm, pops or stops.  Reports
that fell due are pending by then (R146); they are taken at the boundary that follows. -/
def execRejoin (s : State) : Host.Outcome State Fault Refusal :=
  match s.cur with
  | none => .next s
  | some u =>
    let v := s.wave u.b u.w
    if !v.atRejoin u.armB || v.done then .next s
    else
      let s2 := ((s.cancelRecv u.b u.w).deliverAll u.b u.w).warpRejoin u
      if !((s2.wave u.b u.w).mine u.armB).isEmpty then .next (s2.modArm u fun a => { a with st := .parked, reason := 4, waited := 0 })
      else .next (s2.rejoinArm u)

/-- R189, R369: the active lanes leave the wave for good; with the last of them its waiting receives end. -/
def execExit (sw : Bool) (s : State) : Host.Outcome State Fault Refusal :=
  issue sw 4 (fun _ => { guarded := true })
    (fun e t =>
      let t1 := t.modWave e.u.b e.u.w fun v =>
        { v.modArm e.u.armB fun a => { a with mask := a.mask &&& ~~~e.act } with
          exited := v.exited ||| e.act
          stack := v.stack.map fun x => { x with parent := x.parent &&& ~~~e.act, pend := x.pend &&& ~~~e.act } }
      .next ((t1.cancelRecv e.u.b e.u.w).warpCheck e.u.b e.u.w (!e.u.armB))) s

/-! ### Mask and predicate words (R199) -/

/-- 32 lanes of a mask. -/
def maskWord (m : LaneMask) (w : Nat) : Word := m.extractLsb' (32 * w) 32
def maskWords (lanes : Nat) : Nat := (lanes + 31) / 32

def mgetValue (e : Env) (n : BitVec 8) : DWord :=
  let w := (n.extractLsb' 0 5).toNat
  let p := (n.extractLsb' 5 3).toNat
  if w < maskWords e.ln.lanes then
    (if maskWord e.arm.mask w != 0 then 1#32 <<< w else 0#32) ++ maskWord (e.arm.mask &&& e.wv.preg p) w
  else 0

def execMget (sw : Bool) (kd : KReg) (n : BitVec 8) (s : State) : Host.Outcome State Fault Refusal :=
  issue sw 8 (fun _ => { ks := [kd.toNat], ps := [(n.extractLsb' 5 3).toNat] })
    (fun e t => .next (e.write { k := [(kd.toNat, mgetValue e n)] } t)) s

def msetEff (e : Env) (n : BitVec 8) (ka : KReg) : Eff :=
  let w := (n.extractLsb' 0 5).toNat
  let m : LaneMask := e.arm.mask &&& ((0xFFFFFFFF#1024) <<< (32 * w))
  if w < maskWords e.ln.lanes then { p := [((n.extractLsb' 5 3).toNat, m, ((e.k ka).extractLsb' 0 32).setWidth 1024 <<< (32 * w))] } else {}

def execMset (sw : Bool) (n : BitVec 8) (ka : KReg) (s : State) : Host.Outcome State Fault Refusal :=
  issue sw 8 (fun _ => { ks := [ka.toNat], ps := [(n.extractLsb' 5 3).toNat] })
    (fun e t => .next (e.write (msetEff e n ka) t)) s

/-! ### Octets and yield (R167, R205, R206) -/

def execGive (sw : Bool) (n : BitVec 8) (s : State) : Host.Outcome State Fault Refusal :=
  issue sw 4 plainForm (fun e t =>
    if e.wv.divided || n.toNat ≥ e.wv.octets then .trap { cause := 11, info := n.setWidth 64 }
    else
      match (span (4 * (e.wv.octets - n.toNat)) (4 * n.toNat)).find? fun i => e.arm.dmask.getLsbD i with
      | some i => .trap { cause := 5, info := BitVec.ofNat 64 i }
      | none =>
        .next (t.modBlock e.u.b fun k =>
          ({ k with pool := k.pool + n.toNat }.modWave e.u.w fun v => v.dropOctets n.toNat).serve)) s

def execClaim (sw : Bool) (pd : PReg) (n : BitVec 8) (s : State) : Host.Outcome State Fault Refusal :=
  issue sw 4 (fun _ => { ps := [pd.toNat], mem := true }) (fun e t =>
    if e.wv.divided || e.wv.octets + n.toNat > 32 then .trap { cause := 11, info := n.setWidth 64 }
    else
      let t1 := t.advance e.u (e.pc + 4)
      .placed (t1.modBlock e.u.b fun k =>
        (k.arrive e.u.w n.toNat).modWave e.u.w fun v =>
          { v with a := { v.a with st := .claim pd.toNat n.toNat, reason := 18, waited := 0 } })) s

/-- R162: a wave is ready while one of its arms is. -/
def Wave.ready (v : Wave) : Bool := !v.done && !v.halted && (v.a.st == .ready || (match v.b with | some x => x.st == .ready | none => false))
/-- R206: the other waves of the core, at this level or a higher one, that are ready at a `yield`. -/
def State.readyOthers (s : State) (e : Env) : List (Nat × Nat) :=
  ((List.range s.blocks.length).map fun b =>
    let k := s.block b
    if k.resident && !k.restoring && k.core == e.core && e.ln.priority ≤ (s.launch k.launch).priority then
      ((List.range k.waves.length).filter fun w => (s.wave b w).ready && !(b == e.u.b && w == e.u.w)).map fun w => (b, w)
    else []).flatten

def execYield (sw : Bool) (s : State) : Host.Outcome State Fault Refusal :=
  issue sw 4 (fun _ => { mem := true }) (fun e t =>
    let others := t.readyOthers e
    .placed (if others.isEmpty then t.advance e.u (e.pc + 4)
      else (t.advance e.u (e.pc + 4)).modArm e.u fun a => { a with st := .yield others, reason := 22, waited := 0 })) s

/-! ### Barriers (R200 to R204) -/

/-- R201: the block that a barrier operand names. -/
def State.barBlock (s : State) (e : Env) (ka : DWord) : Option Nat :=
  if !ka.getLsbD 24 then some e.u.b
  else ((s.gang e.blk.launch e.blk.gang).blocks.find? fun b => (s.block b).index == (ka.extractLsb' 20 4).toNat)
def barOfs (ka : DWord) : Nat := (ka.extractLsb' 0 19).toNat

/-- R201: the address checks of a barrier instruction. -/
def State.barCheck (s : State) (e : Env) (ka : DWord) : Except Trap Nat :=
  if ka.extractLsb' 25 39 != 0 || ka.getLsbD 19 then .error { cause := 13, info := ka }
  else
    match s.barBlock e ka with
    | none => .error { cause := 13, info := ka }
    | some b =>
      if barOfs ka + 8 > s.allocation (s.block b) then .error { cause := 13, info := ka }
      else if barOfs ka % 8 != 0 then .error { cause := 2, info := ka }
      else .ok b

/-- The word's value. -/
def State.barWord (s : State) (b : Nat) (ka : DWord) : Nat :=
  leNat (s.scrBytes (s.block b).core ((s.block b).coreByte (barOfs ka)) 8)
def barGen (w : Nat) : Nat := w / 2 ^ 32 % 65536
def barArrived (w : Nat) : Nat := w / 2 ^ 16 % 65536
def barExpect (w : Nat) : Nat := w % 65536
def mkBar (w gen arrived expect : Nat) : Nat := w / 2 ^ 48 * 2 ^ 48 + gen % 65536 * 2 ^ 32 + arrived % 65536 * 2 ^ 16 + expect % 65536

/-- R202: an arrival with count c: the new word, or none where the count differs. -/
def arrive (w c : Nat) : Option Nat :=
  if barExpect w == 0 then (if c == 1 then some (mkBar w (barGen w + 1) (barArrived w) 0) else some (mkBar w (barGen w) 1 c))
  else if c != barExpect w then none
  else if barArrived w + 1 == barExpect w then some (mkBar w (barGen w + 1) 0 0)
  else some (mkBar w (barGen w) (barArrived w + 1) (barExpect w))

/-- R230: the word of a barrier cannot be read. -/
def State.barBad (s : State) (b : Nat) (ka : DWord) : Bool := s.scrBad (s.block b).core ((s.block b).coreByte (barOfs ka)) 8
/-- R230: the fault that this raises. -/
def State.barLost (s : State) (u : Cursor) (ka site : DWord) : State := s.reportAt u.b u.w 21 0 (BitVec.ofNat 64 (barOfs ka)) site
/-- R230: a read of the word corrects it. -/
def State.barFix (s : State) (b : Nat) (ka : DWord) : State :=
  s.scrCorrectAll (s.block b).core (span ((s.block b).coreByte (barOfs ka)) 8)
/-- R202, R230, R268: `bara`: checks, then one arrival; the record goes to `k`.  An arrival at a word that cannot be read is lost, and a
wait for it ends at once (log 34). -/
def baraBody (kra krb : KReg) (k : State → Half → Out) (e : Env) (t : State) : Out :=
  let ka := e.k kra
  let kb := e.k krb
  match t.barCheck e ka with
  | .error x => .trap x
  | .ok b =>
    if kb == 0 || kb.toNat > 256 then .trap { cause := 9, info := kb }
    else
      let t := if t.lsBusy e.u.b e.u.w e.u.armB then t.performAll e.u.b e.u.w e.u.armB else t
      if t.lsBusy e.u.b e.u.w e.u.armB then .hold 31
      else
      let core := (t.block b).core
      let a := (t.block b).coreByte (barOfs ka)
      if t.switching core [a] then .hold 9
      else if t.computeIn core a 8 then
        if ka.getLsbD 24 then k (t.reportAt e.u.b e.u.w 14 0 (BitVec.ofNat 64 (barOfs ka)) e.pc) (BitVec.ofNat 16 (barGen (t.barWord b ka)))
        else .trap { cause := 14, info := BitVec.ofNat 64 (barOfs ka) }
      else if t.scrBad core a 8 then k (t.barLost e.u ka e.pc) (BitVec.ofNat 16 (barGen (t.barWord b ka)))
      else
        let w := t.barWord b ka
        match arrive w kb.toNat with
        | none => .trap { cause := 9, info := kb }
        | some x => k ((t.barFix b ka).scrPut core (cellsAt a (leBytes 8 x))) (BitVec.ofNat 16 (barGen w))

def execBara (sw : Bool) (ka kb : KReg) (s : State) : Host.Outcome State Fault Refusal :=
  issue sw 8 (fun _ => { ks := [ka.toNat, kb.toNat], mem := true })
    (fun e t => baraBody ka kb (fun t1 g => .next (t1.modArm e.u fun a => { a with arrival := some (e.k ka, g) })) e t) s

/-- R203, R301: the completion of a phase acquires: at block scope at the own word, whose decoded lines go, at gang scope at a peer word, with
which all that the core's L1 holds goes. -/
def State.barAcquire (s : State) (e : Env) (ka : DWord) : State := s.modCore e.core fun c => c.acquire (ka.getLsbD 24)

/-- R202: waits until GEN differs from the recorded one; the check is made when the arm is chosen (Step). -/
def waitBar (e : Env) (ka : DWord) (g : Half) (t : State) : Out :=
  .placed ((t.advance e.u (e.pc + 8)).modArm e.u fun a => { a with st := .barw ka g, arrival := some (ka, g), reason := 17, waited := 0 })

def execBar (sw : Bool) (ka kb : KReg) (s : State) : Host.Outcome State Fault Refusal :=
  issue sw 8 (fun _ => { ks := [ka.toNat, kb.toNat], mem := true })
    (fun e t => baraBody ka kb (fun t1 g =>
      match t1.barCheck e (e.k ka) with
      | .ok b => if BitVec.ofNat 16 (barGen (t1.barWord b (e.k ka))) == g then waitBar e (e.k ka) g t1
                 else .next ((t1.barAcquire e (e.k ka)).modArm e.u fun a => { a with arrival := none })
      | .error x => .trap x) e t) s

def execBarw (sw : Bool) (ka : KReg) (s : State) : Host.Outcome State Fault Refusal :=
  issue sw 8 (fun _ => { ks := [ka.toNat], mem := true })
    (fun e t =>
      match t.barCheck e (e.k ka) with
      | .error x => .trap x
      | .ok b =>
        match e.arm.arrival with
        | none => .next t
        | some (r, g) =>
          match t.barBlock e r with
          | none => .next t
          | some b' =>
            if b' == b && barOfs r == barOfs (e.k ka) then
              (if t.barBad b r then .next ((t.barLost e.u r e.pc).modArm e.u fun a => { a with arrival := none })
               else if BitVec.ofNat 16 (barGen (t.barWord b (e.k ka))) == g then waitBar e r g t
               else .next (((t.barFix b r).barAcquire e r).modArm e.u fun a => { a with arrival := none }))
            else .next t) s

/-- R202: an arm that waits at a barrier word whose GEN has moved, or that cannot be read (R230). -/
def State.barDone (s : State) (u : Cursor) : Bool :=
  match (s.arm u).st with
  | .barw ka g =>
    let e := s.env u
    (match s.barCheck e ka with
     | .ok b => s.barBad b ka || BitVec.ofNat 16 (barGen (s.barWord b ka)) != g
     | .error _ => true)
  | _ => false
/-- R202, R203, R230: what the read that ends a wait at a barrier does: it corrects the word, or reports that it cannot be read. -/
def State.barRead (s : State) (u : Cursor) (ka : DWord) : State :=
  let e := s.env u
  match s.barCheck e ka with
  | .ok b => if s.barBad b ka then s.barLost u ka (e.pc - 8) else (s.barFix b ka).barAcquire e ka
  | .error _ => s.barAcquire e ka

end Sys2Proof.Machine
end

