-- ==== Sys2Proof/Machine/Preempt.lean ====
section
/-! DEFINITION. Swap-out, pre-emption, save records, restore, time slices and hang watchdogs (R181, R220, R221, R398 to R408). -/
namespace Sys2Proof.Machine

/-! ### Save records (R404, R405; sub-layouts that the rules list without offsets follow the list, log 18) -/

/-- A list filled up with zeros to n bytes. -/
def padTo (n : Nat) (l : List Byte) : List Byte := l ++ List.replicate (n - l.length) 0
/-- A section, filled up to a multiple of 128 bytes. -/
def section128 (l : List Byte) : List Byte := padTo ((l.length + 127) / 128 * 128) l
def maskBytes (m : LaneMask) : List Byte := leBytes 128 m.toNat

/-- R408: the port of the arm's waiting `trecv`. -/
def Wave.recvPort (v : Wave) (armB : Bool) : Option (Nat × Nat) :=
  (v.mine armB).findSome? fun r => match r.kind with | .recv _ q => some (q, r.kd) | _ => none

/-- R369: the arm waits in a `trecv`: it would be parked, and nothing but the receive is outstanding. -/
def Wave.recvWaits (v : Wave) (armB : Bool) : Bool :=
  (v.arm armB).st == .parked && (v.recvPort armB).isSome && (v.mine armB).all fun r => match r.kind with | .recv _ _ => true | _ => false
/-- R408: the arm waits in an instruction whose time is counted. -/
def Wave.waitsNow (v : Wave) (armB : Bool) : Bool :=
  match (v.arm armB).st with
  | .waitge _ _ _ _ => true
  | .fwait _ _ _ _ => true
  | .barw _ _ => true
  | .claim _ _ => true
  | .parked => v.recvWaits armB
  | _ => false

/-- R402, R405: KIND, destination register and operands of an arm's wait; a `trecv` that has removed no entry is recorded as a wait. -/
def Wave.waitKind (v : Wave) (armB : Bool) : Nat × Nat × List Nat :=
  match (v.arm armB).st with
  | .waitge va _ t none => (1, 0, [va.toNat, t.toNat])
  | .waitge va _ t (some c) => (2, 0, [va.toNat, t.toNat, c.toNat])
  | .fwait _ q _ ts => (3, 0, [q, ts.toNat])
  | .barw ka g => (5, 0, [ka.toNat, g.toNat])
  | .claim p n => (6, p, [n])
  | _ => match v.recvPort armB with
    | some (q, kd) => (4, kd, [q])
    | none => (0, 0, [])

/-- R405: an arm record. -/
def Wave.armBytes (v : Wave) (armB : Bool) : List Byte :=
  let a := v.arm armB
  let w := v.waitKind armB
  padTo 16 (leBytes 8 a.pc.toNat ++ leBytes 4 a.mode.toNat ++ leBytes 1 a.scope ++
    leBytes 1 (bit (!armB || v.b.isSome) 0 + bit a.arrival.isSome 1 + bit a.fence.isSome 2)) ++
  padTo 16 (match a.arrival with | some x => leBytes 8 x.1.toNat ++ leBytes 2 x.2.toNat | none => []) ++
  leBytes 32 a.dmask.toNat ++ maskBytes a.mask ++
  padTo 64 (leBytes 8 w.1 ++ padTo 24 (w.2.2.map (leBytes 8)).flatten ++ leBytes 4 w.2.1 ++ leBytes 4 (a.waited / 1000000))

/-- R162, R405: STATE of a wave: a divided wave is ready while one of its arms is, else it waits while one of them does. -/
def Wave.stateCode (v : Wave) : Nat :=
  let some' := fun (f : Bool → Bool) => f false || (v.b.isSome && f true)
  if v.done then 4 else if v.halted then 3
  else if some' fun armB => (v.arm armB).st == .ready then 0
  else if some' v.waitsNow then 2
  else if some' fun armB => (v.arm armB).st == .parked then 1
  else 2

def StackEntry.bytes (x : StackEntry) : List Byte :=
  padTo 32 (leBytes 8 x.rejoin.toNat ++ leBytes 8 x.pendPc.toNat ++ leBytes 4 x.mode.toNat ++ leBytes 1 (bit x.ownerB 0) ++ leBytes 1 (bit x.pendDone 0)) ++
  maskBytes x.parent ++ maskBytes x.pend
def Deferred.bytes (d : Deferred) : List Byte :=
  padTo 32 (leBytes 8 (d.cause + 256 * d.sub) ++ leBytes 8 d.info.toNat ++ leBytes 8 d.site.toNat ++ leBytes 4 d.seq.toNat)

/-- R405: a wave record. -/
def Wave.record (v : Wave) : List Byte :=
  padTo 8192
    (padTo 8 (leBytes 1 v.stateCode ++ leBytes 1 (bit v.divided 0) ++ leBytes 1 (bit v.hnd 0) ++ leBytes 1 v.pend.length ++
      leBytes 1 v.octets ++ leBytes 1 v.stack.length) ++
     leBytes 4 v.status.toNat ++ leBytes 4 0 ++ leBytes 8 v.fault0.toNat ++ leBytes 8 v.fault1.toNat ++
     ((List.range 64).map fun n => leBytes 8 (v.kreg n).toNat).flatten ++
     ((List.range 7).map fun n => maskBytes (v.preg (n + 1))).flatten ++
     maskBytes v.exited ++ v.armBytes false ++ (if v.b.isSome then v.armBytes true else List.replicate 256 0) ++
     padTo 128 (v.pend.map Deferred.bytes).flatten ++ padTo 4608 (v.stack.map StackEntry.bytes).flatten)

/-- R404: the vector registers of a wave. -/
def Wave.vectorBytes (v : Wave) (words : Nat) : List Byte :=
  ((List.range (8 * v.octets)).map fun r => ((List.range (32 * words)).map fun i => leBytes 4 (v.vreg r i).toNat).flatten).flatten

/-- R404: an arbiter entry: base word, L0, operand kA, mode, LANESDONE, wave, issue order, active lanes. -/
def ArbEntry.bytes (x : ArbEntry) : List Byte :=
  leBytes 4 (x.code.getD 0 0).toNat ++ leBytes 4 (x.code.getD 1 0).toNat ++ leBytes 8 x.ka.toNat ++ leBytes 4 x.mode.toNat ++ leBytes 4 x.lanesDone ++
  leBytes 4 x.w ++ leBytes 4 x.id ++ maskBytes x.act

def arbBytes (l : List ArbEntry) : List Byte := leBytes 8 l.length ++ (l.map ArbEntry.bytes).flatten

/-- R280: the WW code of a width of 2, 4 or 8 bits. -/
def wwCode (ww : Nat) : Nat := if ww == 8 then 2 else if ww == 4 then 1 else 0
/-- R404: the arrays section of a pre-empted block. -/
def Saved.arrayBytes (x : Saved) (l : List ArbEntry) : List Byte :=
  leBytes 1 ((List.range 8).foldl (fun a i => a + bit (sget {} x.banks i).compute i) 0) ++
  ((List.range 8).map fun i => leBytes 1 (wwCode (sget {} x.banks i).ww)).flatten ++
  ((List.range 8).map fun i => (List.range 1024).map fun j => sget 0 (sget {} x.banks i).exps j).flatten ++
  ((List.range (8 * 8192)).map fun j => leBytes 4 (sget 0 x.tiles j).toNat).flatten ++ arbBytes l

def Block.channelBytes (k : Block) : List Byte :=
  padTo 512 (k.held.map fun h => leBytes 4 h.port ++ leBytes 4 h.count ++ leBytes 8 h.ts.toNat).flatten ++ leBytes 8 k.inboxes.length ++
  (k.inboxes.map fun i => leBytes 4 i.port ++ leBytes 2 i.head ++ leBytes 2 i.tail).flatten

def Copy.bytes (c : Copy) (seq : Word) : List Byte :=
  padTo 192 (padTo 128 (c.block.getD []) ++ leBytes 8 c.progress ++
    (match c.fault with | some f => leBytes 8 f.1 ++ leBytes 8 f.2.2.toNat | none => leBytes 16 0) ++ leBytes 8 c.site.toNat ++ leBytes 4 seq.toNat)

/-- R404, R410: the whole record; kind 1 pre-empted, 2 swapped out, 3 both; without copies there is no copies section. -/
def State.saveRecord (s : State) (b kind : Nat) : List Byte :=
  let k := s.block b
  let n := s.launch k.launch
  let words := (n.lanes + 31) / 32
  let x := k.saved.getD {}
  let full := kind != 2
  let waves := (k.waves.map Wave.record).flatten
  let vec := section128 (k.waves.map fun v => v.vectorBytes words).flatten
  let scr := if full then (List.range (4096 * n.granules)).map fun o => sget 0 x.scratch o else []
  let arr := if !n.arrays then [] else section128 (if full then x.arrayBytes k.savedArb else arbBytes k.savedArb)
  let cha := if full && n.graph.isSome then section128 k.channelBytes else []
  let cop := if x.copies.isEmpty then [] else section128 (leBytes 8 x.copies.length ++ (x.copies.map fun c => c.bytes n.seq).flatten)
  let o1 := 512 + waves.length
  let o2 := o1 + vec.length
  let o3 := o2 + scr.length
  let o4 := o3 + arr.length
  let o5 := o4 + cha.length
  let at' := fun (l : List Byte) (o : Nat) => leBytes 8 (if l.isEmpty then 0 else o)
  let slice' := if n.priority == 0 then 0 else (s.ctx n.ctx).slices.getD (n.priority - 1) 0 - (s.raw - (s.gang k.launch k.gang).since) / 1000
  padTo 512
    (padTo 32 (leBytes 4 1 ++ leBytes 4 (o5 + cop.length) ++ leBytes 4 n.seq.toNat ++ leBytes 1 n.queue ++ leBytes 1 n.priority ++ leBytes 1 kind ++
      leBytes 1 k.waves.length ++ leBytes 4 (s.gang k.launch k.gang).number ++ leBytes 1 k.index ++ leBytes 1 k.die ++ leBytes 1 (k.core % 64) ++
      leBytes 1 (bit n.arrays 0) ++ leBytes 2 n.lanes ++ leBytes 1 n.granules ++ leBytes 1 k.pool ++ leBytes 1 k.claims.length) ++
     padTo 32 (k.claims.map fun c => leBytes 1 c.1 ++ leBytes 1 c.2).flatten ++ leBytes 8 (s.timeOf k.die).toNat ++ leBytes 8 slice' ++
     at' vec o1 ++ at' scr o2 ++ at' arr o3 ++ at' cha o4 ++ at' cop o5) ++
  waves ++ vec ++ scr ++ arr ++ cha ++ cop

/-- R401: the bytes of a block's record, at most. -/
def State.recordSize (s : State) (b : Nat) (full : Bool) : Nat :=
  let k := s.block b
  let n := s.launch k.launch
  let up := fun (m : Nat) => (m + 127) / 128 * 128
  512 + 8192 * k.waves.length + up (((k.waves.map fun v => v.octets).foldl (· + ·) k.pool) * 1024 * ((n.lanes + 31) / 32)) +
  (if full then 4096 * n.granules + (if n.arrays then up (9 + 8192 + 262144 + 8 + 32 * 160) else 0) +
    (if n.graph.isSome then up (520 + 8 * k.inboxes.length) else 0) + up (8 + 32 * 192)
   else if n.arrays then up (8 + 32 * 160) else 0)

/-- R401: the records that stand in a context's save region, and the places kept for those of gangs that stop. -/
def State.savedIn (s : State) (x : Nat) : List (Nat × Nat) :=
  (s.blocks.filterMap fun k => if (s.launch k.launch).ctx == x then k.save else none) ++
  ((s.launches.filter fun n => n.ctx == x).map fun n => (n.gangs.map fun y => y.places.map fun p => (p.2.1, p.2.2)).flatten).flatten
/-- R401: the lowest place in the region where n bytes fit: at its start, or behind a record. -/
def freePlace (used : List (Nat × Nat)) (size n : Nat) : Option Nat :=
  least ((0 :: used.map fun u => (u.1 + u.2 + 127) / 128 * 128).filter fun o => o + n ≤ size && !used.any fun u => o < u.1 + u.2 && u.1 < o + n)
/-- R401: places for the records of several blocks; none where they do not fit together. -/
def State.placeRecords (s : State) (x : Nat) (full : Bool) : List Nat → List (Nat × Nat) → Option (List (Nat × Nat × Nat))
  | [], _ => some []
  | b :: t, used =>
    let n := s.recordSize b full
    match freePlace used (s.ctx x).saveSize n with
    | none => none
    | some o => match s.placeRecords x full t ((o, n) :: used) with
      | none => none
      | some l => some ((b, o, n) :: l)

/-- The record written into the save region. -/
def State.putRecord (s : State) (b kind o : Nat) : State :=
  let l := s.saveRecord b kind
  let key := (s.ctx (s.launch (s.block b).launch).ctx).saveBase + o
  (s.agentWrite (cellsAt key l)).modBlock b fun k => { k with save := some (o, l.length) }

/-! ### Waits that a swap-out or a stop may meet (R220, R402) -/

/-- Monitors of a block's waves. -/
def State.disarm (s : State) (b : Nat) : State := { s with monitors := s.monitors.filter fun m => m.peer.isSome || m.b != b }
/-- R220: an arm waits with a wake condition. -/
def State.waitsLong (s : State) (b w : Nat) (armB : Bool) : Bool :=
  let v := s.wave b w
  match (v.arm armB).st with
  | .waitge _ _ _ _ => true
  | .fwait _ _ _ _ => true
  | .barw _ _ => !s.barDone { b := b, w := w, armB := armB }
  | .parked => v.recvWaits armB
  | _ => false
/-- R221: the wake condition of one of a block's waves is true. -/
def State.wokenBlock (s : State) (b : Nat) : Bool :=
  (List.range (s.block b).waves.length).any fun w =>
    let v := s.wave b w
    !v.done && ([false, true].any fun armB =>
      (armB == false || v.b.isSome) &&
      (match (v.arm armB).st with
       | .ready => true
       | .barw _ _ => s.barDone { b := b, w := w, armB := armB }
       | _ => match v.recvPort armB with
         | some (q, _) => (match (s.block b).inbox q with | some i => decide (i.head < i.tail) | none => false)
         | none => false))
/-- R220: the block may be swapped out. -/
def State.swappable (s : State) (b : Nat) : Bool :=
  let k := s.block b
  let n := s.launch k.launch
  k.resident && !k.restoring && n.priority != 0 && !(s.gang k.launch k.gang).stopReq && (s.ctx n.ctx).swapUs != 0 &&
  k.waves.any (fun v => !v.done) && !s.sumac.any (fun j => j.who.any fun x => x.1 == b) &&
  ((List.range k.waves.length).all fun w =>
    let v := s.wave b w
    v.done || (!v.halted && s.waitsLong b w false && (v.b.isNone || s.waitsLong b w true) &&
      v.outst.all fun r => r.kind.bound || match r.kind with | .recv _ _ => true | _ => false)) &&
  (s.core k.core).arb.all fun x => x.b != b || (match x.op with
    | .mmac _ _ _ _ _ => true
    | .mdrain _ _ _ _ _ tgt _ _ => tgt != 0 || !x.granted
    | _ => !x.granted)

/-- R402: the register words of the rows that a stopped `mdrain` has read are written; the rest stays outstanding. -/
def Wave.writeRows (v : Wave) (entry : Nat) : Wave :=
  (v.outst.filter fun r => r.kind == .drain entry).foldl (fun w r => w.apply (r.eff.live w.exited))
    { v with outst := v.outst.map fun r => if r.kind == .drain entry then { r with eff := {} } else r }

/-- R403: the block's array entries leave the arbiter: a granted `mmac` or `mdrain` has done some of its lanes (a free number). -/
def State.recordArb (s : State) (b : Nat) : State :=
  let core := (s.block b).core
  let mine := (s.core core).arb.filter fun x => x.b == b
  let r := mine.foldl (fun (a : State × List ArbEntry) x =>
    if x.granted then
      let lanes := (s.launch (s.block b).launch).lanes
      let upTo := x.lanesDone + s.pick (8192 + x.id) % (lanes + 1 - x.lanesDone)
      ((a.1.runLanes core x ((lanesOf lanes x.act).filter fun i => x.lanesDone ≤ i && i < upTo)).modWave x.b x.w fun v => v.writeRows x.id,
       a.2 ++ [{ x with granted := false, lanesDone := upTo }])
    else (a.1, a.2 ++ [x])) (s, [])
  (r.1.modCore core fun c => { c with arb := c.arb.filter fun x => x.b != b }).modBlock b fun k => { k with savedArb := r.2 }

/-- The event SWAP_OUT (R221, R356). -/
def execSwapOut (b : Nat) (s : State) : Host.Outcome State Fault Refusal :=
  if !s.swappable b then .next s
  else
    let x := (s.launch (s.block b).launch).ctx
    match s.placeRecords x false [b] (s.savedIn x) with
    | some [(_, o, _)] =>
      let s1 := (List.range (s.block b).waves.length).foldl (fun t w => (t.writeBound b w).modWave b w Wave.settle) (s.closeBatches (s.block b).core)
      .next (((s1.recordArb b).putRecord b 2 o).modBlock b fun k => { k with st := .swapped, placed := s.ticks })
    | _ => .next s

/-! ### The stop of a gang (R402, R403) -/

/-- R402: what has to end first on a block's core. -/
def State.coreStopped (s : State) (b : Nat) : Bool :=
  let c := s.core (s.block b).core
  !c.copies.any (fun y => y.b == b && y.block.isNone) &&
  c.arb.all fun x => x.b != b || (match x.op with
    | .amode _ _ _ _ => false
    | .mmac _ _ _ _ _ => true
    | .mdrain _ _ _ _ _ _ _ _ => true
    | _ => !x.granted)
/-- R402: `amode` and `rehome` complete before an arm stops. -/
def Arm.mayStop (a : Arm) : Bool := match a.st with | .amode _ => false | .rehome _ => false | _ => true
/-- R402: a wave has stopped at a boundary with its results in. -/
def Wave.stopped (v : Wave) : Bool :=
  v.done || (v.outst.all (fun r => r.kind.bound || match r.kind with | .recv _ _ => true | .drain _ => true | _ => false) &&
    v.a.mayStop && (match v.b with | some a => a.mayStop | none => true))
/-- R402: a gang's blocks that still hold anything have stopped; a block that is coming back is restored first (R406). -/
def State.gangStopped (s : State) (l g : Nat) : Bool :=
  (s.gang l g).blocks.all fun b =>
    !(s.block b).restoring && s.coreStopped b && (s.block b).waves.all Wave.stopped &&
    !s.sumac.any fun j => j.write && (match j.who with | some w => w.1 == b | none => false)

/-- R402: cancelled and completed waits of an arm. -/
def Arm.stop (a : Arm) : Arm :=
  match a.st with
  | .warp _ => { a with st := .ready }
  | .yield _ => { a with st := .ready }
  | .trap x => { a with st := .ready, skipBp := a.skipBp && !(x.halts && x.info.toNat ≥ 256) }
  | _ => a
def Wave.stop (v : Wave) : Wave :=
  let w := v.writeBound.unpark.settle
  { w with a := w.a.stop, b := w.b.map Arm.stop }

/-- R267: every bank in storage mode with no column exponents; calibrations are kept. -/
def Core.clearBanks (c : Core) : Sparse Bank :=
  (c.banks.map fun (y : Nat × Bank) => (y.1, { y.2 with compute := false, ww := 0, exps := [] })).filter fun y => y.2 != {}

/-- R267, R406: modes, widths and columns come back; calibrations are the core's. -/
def Core.mergeBanks (c : Core) (l : Sparse Bank) : Sparse Bank :=
  (List.range 8).foldl (fun m i =>
    let k := sget {} l i
    sset {} m i { sget {} c.banks i with compute := k.compute, ww := k.ww, exps := k.exps }) []

/-- R402, R403: a copy with DIR 0 or 2 stops where it is: a free number of the positions from PROGRESS on, in the order of the dense
offset, are done. -/
def State.stopCopy (s : State) (core : Nat) (c : Copy) : State :=
  match c.block with
  | none => s
  | some p =>
    let t := tensorOf p
    let total := (positions t.box).length
    if t.dir == 1 || !s.copyReady core c || !t.valid (s.allocation (s.block c.b)) || total ≤ c.progress then s
    else
      let upTo := c.progress + s.pick (28672 + c.id) % (total - c.progress)
      let m := s.copyElems core c t (((positions t.box).take upTo).drop c.progress)
      m.s.modCore core fun k =>
        { k with copies := k.copies.map fun y =>
            if y.id == c.id then { y with progress := upTo, busy := y.busy || m.busy, fault := y.fault.orElse fun _ => m.fails.head? } else y }

/-- R398, R402: one block is saved and gives up its resources; place: where its record goes. -/
def State.saveBlock (s : State) (b o : Nat) : State :=
  let k := s.block b
  let n := s.launch k.launch
  let kind := if k.st == .swapped then 3 else 1
  let s0 := (List.range k.waves.length).foldl (fun t w => t.writeBound b w) (s.closeBatches k.core)
  let s1 := s0.modBlock b fun k => { k with waves := k.waves.map Wave.stop }
  let stops := fun (y : Copy) => y.b == b && (match y.block with | some p => (tensorOf p).dir != 1 | none => false)
  let s1' := ((s1.core k.core).copies.filter stops).foldl (fun t y => t.stopCopy k.core y) s1
  let s2 := if k.st == .swapped then s1' else s1'.recordArb b
  let c := s2.core k.core
  let lo := k.base
  let hi := k.base + 4096 * n.granules
  let x : Saved :=
    { scratch := (c.scratch.filter fun (y : Nat × Byte) => lo ≤ y.1 && y.1 < hi).map fun (y : Nat × Byte) => (y.1 - lo, y.2)
      banks := if n.arrays then c.banks else [], tiles := if n.arrays then c.tiles else [], softTiles := if n.arrays then c.softTiles else []
      badTiles := if n.arrays then c.badTiles else []
      copies := (c.copies.filter stops).map fun (y : Copy) => { y with stopped := true } }
  let s3 := s2.modCore k.core fun c =>
    { c with scratch := sdrop c.scratch (fun a => lo ≤ a && a < hi)
             banks := if n.arrays then c.clearBanks else c.banks
             tiles := if n.arrays then [] else c.tiles
             softTiles := if n.arrays then [] else c.softTiles
             badTiles := if n.arrays then [] else c.badTiles
             copies := c.copies.filter fun y => !stops y }
  let s4 := { s3.disarm b with sendReqs := s3.sendReqs.filter fun r => r.b != b }
  (s4.modBlock b fun k => { k with st := if k.st == .done then .done else .preempted, saved := some x, coming := false }).putRecord b kind o

/-! ### Restore (R403, R406) -/

/-- R215, R321: a wave comes back: RES advances, the epoch is 0, and its arms receive a last-issue time. -/
def State.newResidency (s : State) (b w : Nat) : State :=
  let v := s.wave b w
  let c := (s.block b).core
  let n := nextRes (sget 0 (s.core c).res v.slot)
  (s.modCore c fun k => { k with res := sset 0 k.res v.slot n }).modWave b w fun v =>
    { v with epoch := 0, res := n, a := { v.a with lastIssue := s.ticks }, b := v.b.map fun a => { a with lastIssue := s.ticks } }

/-- R397, R406 step 5: a waiting `waitge` or `fwait` translates its address again, and arms and compares there as at its issue; where it fails, the arm goes
on with a deferred fault.  A compare that held meanwhile ends the wait. -/
def State.rewait (s : State) (u : Cursor) : State :=
  let k := s.block u.b
  let n := s.launch k.launch
  let again := fun (va : DWord) (f : Nat → ArmSt) =>
    let t := { s with monitors := s.monitors.filter fun m => !m.waits u }
    let fail := fun (x : Nat × Nat) => (t.modArm u fun a => { a with st := .ready, reason := 0, waited := 0 }).reportAt u.b u.w x.1 x.2 va ((t.arm u).pc - 8)
    match s.translate (dataSide k.core) (s.ctx n.ctx) va false false with
    | .error e => fail e
    | .ok x => match flatPage x with
      | some e => fail e
      | none =>
        match (match s.place x.pa x.host with | .mem k => some k | .peer w o => some (s.importKey w o) | _ => none) with
        | none => fail (3, 1)
        | some key =>
          let n := (f key).watched.length
          let t1 := (t.modArm u fun a => { a with st := f key }).compareAt k.core key n
          if t1.firstCompare (f key) key n then t1.wake u
          else (t1.compareReport u key n va ((t.arm u).pc - 8)).armMonitor u key (t1.home (key % peerBit) x.leafHome)
  if s.monitors.any fun m => m.fired && m.waits u then s.wake u
  else match (s.arm u).st with
  | .waitge va _ target cont => again va fun key => .waitge va key target cont
  | .fwait g q _ ts => again (s.frontVa g q) fun key => .fwait g q key ts
  | _ => s

/-- R406 steps 1 to 5 for one block. -/
def State.restoreBlock (s : State) (b : Nat) : State :=
  let k := s.block b
  let n := s.launch k.launch
  let s1 := match k.saved with
    | none => s
    | some x =>
      let inside := fun a => decide (k.base ≤ a) && decide (a < k.base + 4096 * n.granules)
      let s0 := s.modCore k.core fun c => { c with scratch := sdrop c.scratch inside, scrFail := c.scrFail.filter fun w => !inside (w * 4) }
      (s0.scrPut k.core (x.scratch.map fun (y : Nat × Byte) => (k.base + y.1, y.2))).modCore k.core fun c =>
        { c with banks := if n.arrays then c.mergeBanks x.banks else c.banks
                 tiles := if n.arrays then x.tiles else c.tiles
                 softTiles := if n.arrays then x.softTiles else c.softTiles
                 badTiles := if n.arrays then x.badTiles else c.badTiles
                 copies := x.copies.map (fun (y : Copy) => { y with stopped := false }) ++ c.copies }
  let s2 := (s1.modCore k.core fun c => { c with arb := k.savedArb ++ c.arb }).modBlock b fun k =>
    { k with saved := none, savedArb := [], save := none, restoring := false }
  let live := (List.range k.waves.length).filter fun w => !(s.wave b w).done
  let s3 := live.foldl (fun t w => t.newResidency b w) s2
  let s4 := live.foldl (fun t w =>
    let t1 := t.rewait { b := b, w := w, armB := false }
    if (t1.wave b w).b.isSome then t1.rewait { b := b, w := w, armB := true } else t1) s3
  match n.graph with
  | none => s4
  | some g => ((List.replicate (live.length + 1) k.inboxes).flatten.foldl (fun t i => t.serveRecv g i.port b) s4).settle

/-- R218, R329: the core's engine and arbiter have entries free for what a block brings back. -/
def State.entriesFit (s : State) (b : Nat) : Bool :=
  let k := s.block b
  let c := s.core k.core
  c.copies.length + (k.saved.getD {}).copies.length ≤ 32 && c.arb.length + k.savedArb.length ≤ 32

/-- The event GANG_RESTORE_COMPLETE: the gang's blocks that are coming back, once there is an entry for each of their copies.  The slice
of a gang that was pre-empted runs from here (R400). -/
def execGangRestoreComplete (l g : Nat) (s : State) : Host.Outcome State Fault Refusal :=
  let back := (s.gang l g).blocks.filter fun b => (s.block b).restoring
  if !back.all s.entriesFit then .next s
  else if back.any fun b => (s.block b).saved.isSome then .next ((back.foldl State.restoreBlock s).modGang l g fun y => { y with since := s.raw })
  else .next (back.foldl State.restoreBlock s)

/-! ### Time slices and watchdogs (R400, R408) -/

/-- The event TIME_SLICE_EXPIRY of a placed gang. -/
def execTimeSliceExpiry (l g : Nat) (s : State) : Host.Outcome State Fault Refusal :=
  let n := s.launch l
  if (s.gang l g).st == .placed && n.priority != 0 && (s.ctx n.ctx).slices.getD (n.priority - 1) 0 != 0 then
    .next (s.modGang l g fun y => { y with sliceDone := true })
  else .next s

/-- R408: a participant of an arm's wait is halted. -/
def State.participantHalted (s : State) (b w : Nat) (armB : Bool) : Bool :=
  let k := s.block b
  let of' := fun (f : Block → Bool) => s.blocks.any fun j => f j && j.st != .done && j.waves.any fun v => v.halted && !v.done
  match ((s.wave b w).arm armB).st with
  | .claim _ _ => k.waves.any fun v => v.halted && !v.done
  | .barw ka _ =>
    if ka.getLsbD 24 then of' fun j => j.launch == k.launch && j.gang == k.gang else k.waves.any fun v => v.halted && !v.done
  | _ => of' fun j => (s.launch j.launch).ctx == (s.launch k.launch).ctx

/-- R408: INFO of the record. -/
def State.hangInfo (s : State) (b w : Nat) (armB : Bool) : Option DWord :=
  let v := s.wave b w
  let x := v.waitKind armB
  let low := fun (n : Nat) => BitVec.ofNat 64 (x.1 * 2 ^ 60 + s.idOf b w * 2 ^ 24 + n % 2 ^ 24)
  if x.1 == 0 then none
  else if x.1 ≤ 2 then some (BitVec.ofNat 64 (x.1 * 2 ^ 60 + x.2.2.getD 0 0 % 2 ^ 57))
  else if x.1 == 6 then some (low 0)
  else some (low (x.2.2.getD 0 0))

/-- R408: the time of an arm's wait is counted: the block is on its core or swapped out, and no participant is halted. -/
def State.counting (s : State) (b w : Nat) (armB : Bool) : Bool :=
  let k := s.block b
  (k.st == .resident || k.st == .swapped) && !(s.wave b w).done && (armB == false || (s.wave b w).b.isSome) &&
  (s.wave b w).waitsNow armB && !s.participantHalted b w armB

/-- R408: d ticks are added to every count. -/
def State.countWaits (s : State) (d : Nat) : State :=
  { s with blocks := ((List.range s.blocks.length).zip s.blocks).map fun k =>
      { k.2 with waves := ((List.range k.2.waves.length).zip k.2.waves).map fun v =>
          let v1 := if s.counting k.1 v.1 false then v.2.modArm false fun a => { a with waited := a.waited + d } else v.2
          if s.counting k.1 v.1 true then v1.modArm true fun a => { a with waited := a.waited + d } else v1 } }

/-- R168: where the clk advances, every block serves the claims that arrived in it. -/
def State.endClk (s : State) (d : Nat) : State :=
  { s with blocks := s.blocks.map fun k => if k.claimNow.isEmpty || d == 0 then k else k.endClk }

/-- R92: the flags of results that were ready before a clk are raised. -/
def State.ripen (s : State) (clk : Nat) : State :=
  { s with blocks := s.blocks.map fun k => { k with waves := k.waves.map fun v => if v.late.isEmpty then v else v.raise fun x => x.ready < clk } }

/-- The event HANG_WATCHDOG of an arm whose count has reached the hang time: one record, and the count starts again. -/
def execHangWatchdog (b w : Nat) (armB : Bool) (s : State) : Host.Outcome State Fault Refusal :=
  let k := s.block b
  let x := (s.launch k.launch).ctx
  if (s.ctx x).hang != 0 && s.counting b w armB && (s.ctx x).hang * 1000000 ≤ ((s.wave b w).arm armB).waited then
    (match s.hangInfo b w armB with
     | none => .next s
     | some i =>
       .next ((s.modWave b w fun v => v.modArm armB fun a => { a with waited := 0 }).post x { cause := 0, nowave := true, info := i, die := k.die }))
  else .next s

end Sys2Proof.Machine
end

