-- ==== Sys2Proof/Machine/Launch.lean ====
section
/-! DEFINITION. Contexts, launch queues, the distributor, operating-point holds, launch completion, wave commands, shootdowns and
notifications (R162 to R177, R207 to R214, R221, R382, R383, R385, R393, R395 to R401, R414). -/
namespace Sys2Proof.Machine

/-! ### Launch records (R171, R174 to R176) -/

/-- R62: columns and rows of a gang shape. -/
def shapeOf (n : Nat) : Nat × Nat := [(1, 1), (2, 1), (1, 2), (2, 2), (4, 2), (2, 4), (4, 4)].getD n (1, 1)

/-- R414: the physical die of a bound virtual die. -/
def Context.pdie (c : Context) (v : Nat) : Option Nat :=
  match c.vdies[v]? with
  | some b => if b.getLsbD 7 then some (b.extractLsb' 0 3).toNat else none
  | none => none

/-- R174: the rectangles of a record. -/
def rectsOf (l : List Byte) : List (Nat × Nat × Nat × Nat × Nat) :=
  (List.range (field l 43 1)).map fun i =>
    let o := 240 + 8 * i
    (field l o 1, field l (o + 1) 1, field l (o + 2) 1, field l (o + 3) 1, field l (o + 4) 1)

/-- R175: a rectangle lies in the mesh on a bound die and is tiled by the shape; one without columns or rows is rejected (log 24). -/
def rectOk (c : Context) (shape : Nat) (r : Nat × Nat × Nat × Nat × Nat) : Bool :=
  match r with
  | (v, x, y, w, h) =>
    (c.pdie v).isSome && 1 ≤ w && 1 ≤ h && x + w ≤ 8 && y + h ≤ 8 &&
    x % (shapeOf shape).1 == 0 && w % (shapeOf shape).1 == 0 && y % (shapeOf shape).2 == 0 && h % (shapeOf shape).2 == 0

/-- R174: an address that the counter field may hold. -/
def counterOk (a : Nat) : Bool := a % 8 == 0 && canonical (BitVec.ofNat 64 a)
/-- R174: an entry or handler address. -/
def codeOk (a : Nat) : Bool := a % 4 == 0 && canonical (BitVec.ofNat 64 a)
/-- R164: register-file rows. -/
def rowsFor (waves octets pool lanes : Nat) : Nat := (waves * octets + pool) * 8 * ((lanes + 31) / 32)

/-- R174, R175: the fields within their limits, apart from the graph and the buffer table's contents. -/
def recordOk (c : Context) (l : List Byte) : Bool :=
  let f := field l
  let r := f 43 1
  codeOk (f 0 8) && codeOk (f 8 8) && f 24 2 ≤ 256 && (f 24 2 == 0 || f 16 8 % 8 == 0) &&
  1 ≤ f 26 1 && f 26 1 ≤ 16 && f 27 1 < f 26 1 && 1 ≤ f 28 2 && f 28 2 ≤ 1024 && f 26 1 * f 28 2 ≤ 4096 &&
  1 ≤ f 30 1 && f 30 1 ≤ 32 && rowsFor (f 26 1) (f 30 1) (f 31 1) (f 28 2) ≤ 4096 &&
  f 32 1 ≤ 128 && f 33 1 ≤ 7 && f 34 1 ≤ 15 && f 35 1 ≤ 6 && f 36 4 < 4 ^ (f 26 1) && f 42 1 ≤ 1 &&
  1 ≤ r && r ≤ 8 && zeroAt l 44 4 && zeroAt l 320 192 && zeroAt l (240 + 8 * r) (8 * (8 - r)) && counterOk (f 304 8) &&
  ((List.range r).all fun i => zeroAt l (240 + 8 * i + 5) 3) && (rectsOf l).all (rectOk c (f 35 1)) &&
  ((rectsOf l).map (·.1)).Nodup

/-- R62, R351: the registered graph that a record names: none where it names none that exists. -/
def State.graphNamed (s : State) (x n : Nat) : Option (Option Nat) :=
  if n == 0xFFFF then some none
  else ((List.range s.graphs.length).find? fun g => (s.graph g).ctx == x && (s.graph g).num == n).map some

/-- R176: the gangs of a record, in order. -/
def gangsOf (c : Context) (l : List Byte) (order : Nat) : List Gang :=
  let sh := shapeOf (field l 35 1)
  let all := ((rectsOf l).map fun r => match r with
    | (v, x, y, w, h) =>
      ((List.range (h / sh.2)).map fun j => (List.range (w / sh.1)).map fun i => (v, x + i * sh.1, y + j * sh.2)).flatten).flatten
  ((List.range all.length).zip all).map fun p =>
    { number := p.1, vdie := p.2.1, die := (c.pdie p.2.1).getD 0, x0 := p.2.2.1, y0 := p.2.2.2, order := order }

/-- The dwords of a list of bytes. -/
def dwordsAt (l : List Byte) (o n : Nat) : List DWord := (List.range n).map fun i => BitVec.ofNat 64 (field l (o + 8 * i) 8)

/-- R174, R236: the launch of an accepted record with its captured buffer table. -/
def launchOf (s : State) (x queue head : Nat) (graph : Option Nat) (l table : List Byte) : Launch :=
  let f := field l
  { ctx := x, queue := queue, seq := BitVec.ofNat 32 head, entry := BitVec.ofNat 64 (f 0 8), handler := BitVec.ofNat 64 (f 8 8)
    waves := f 26 1, producer := f 27 1, lanes := f 28 2, octets := f 30 1, pool := f 31 1, granules := f 32 1, priority := f 33 1
    hint := f 34 1, shape := f 35 1, roles := BitVec.ofNat 32 (f 36 4), graph := graph, arrays := f 42 1 == 1
    slots := dwordsAt l 48 8, args := dwordsAt l 112 16, rects := rectsOf l
    bufs := (List.range (f 24 2)).map fun i => dwordsAt table (40 * i) 5
    caddr := BitVec.ofNat 64 (f 304 8), cinc := BitVec.ofNat 64 (f 312 8), gangs := gangsOf (s.ctx x) l s.nextId
    ordinal := (s.ctx x).ordinals }

/-! ### Launch queues (R208, R209) -/

/-- R208, R209: a queue descriptor is well formed; the reserved bits of byte 9 count as a reserved byte (log 24). -/
def queueOk (d : List Byte) : Bool :=
  zeroAt d 10 6 && zeroAt d 32 32 && field d 9 1 ≤ 1 && field d 0 8 % 4096 == 0 && canonical (BitVec.ofNat 64 (field d 0 8)) &&
  1 ≤ field d 8 1 && field d 8 1 ≤ 16 && field d 16 8 ≤ field d 24 8

/-- R177: the increment of a launch, or the record about its failure. -/
def State.completionAdd (s : State) (x queue : Nat) (seq : Word) (caddr cinc : DWord) : State :=
  if caddr == 0 then s
  else
    match s.engineAdd 8 (s.ctx x) caddr cinc false with
    | .ok t => t
    | .error e => s.post x { cause := e.1, sub := e.2, nowave := true, seq := seq, queue := queue, info := caddr }

/-- R209 steps 1 to 3: the record at an index is accepted, rejected, or cannot be read. -/
def State.takeRecord (s0 : State) (x queue head : Nat) (va : DWord) : State :=
  let c := s0.ctx x
  let s := s0.ctxFix c va 512
  let seq := BitVec.ofNat 32 head
  match s.ctxLoad c va 512 with
  | .error e => s.post x { cause := e.1, sub := e.2, nowave := true, seq := seq, queue := queue, info := va, atWord := BitVec.ofNat 64 queue }
  | .ok l =>
    let n := field l 24 2
    let s := if n == 0 then s else s.ctxFix c (BitVec.ofNat 64 (field l 16 8)) (40 * min n 256)
    match if recordOk c l then s.graphNamed x (field l 40 2) else none,
          if n == 0 then .ok [] else s.ctxLoad c (BitVec.ofNat 64 (field l 16 8)) (40 * min n 256) with
    | some g, .ok table =>
      let t := { s with launches := s.launches ++ [launchOf s x queue head g l table], nextId := s.nextId + 1 }
      let t1 := t.modCtx x fun c => { c with ordinals := c.ordinals + 1 }
      (match g with
       | some i => t1.modGraph i fun h => if h.bound.isNone then { h with bound := some s.launches.length, rotation := [], lent := [] } else h
       | none => t1)
    | _, _ =>
      let t := s.post x { cause := 30, nowave := true, info := BitVec.ofNat 64 head, atWord := BitVec.ofNat 64 queue }
      if counterOk (field l 304 8) then t.completionAdd x queue seq (BitVec.ofNat 64 (field l 304 8)) (BitVec.ofNat 64 (field l 312 8)) else t

/-- R209: records of one queue, at most fuel of them.  Where the descriptor cannot be read, or its ENABLE byte or HEAD not be written,
nothing more is accepted and nothing is posted (log 24). -/
def State.acceptQueue (s0 : State) (x queue : Nat) : Nat → State
  | 0 => s0
  | fuel + 1 =>
    let c := s0.ctx x
    let d := c.ccb + BitVec.ofNat 64 (1024 + 64 * queue)
    let s := s0.ctxFix c d 64
    match s.ctxLoad c d 64 with
    | .error _ => s
    | .ok l =>
      let head := field l 16 8
      let tail := field l 24 8
      let disable := fun (sub : Nat) (info : Nat) =>
        match s.ctxStore c (d + 9) (leBytes 1 (field l 9 1 / 2 * 2)) with
        | .ok t => t.post x { cause := 31, sub := sub, nowave := true, info := BitVec.ofNat 64 info, atWord := BitVec.ofNat 64 queue }
        | .error _ => s
      if field l 9 1 % 2 == 0 then s
      else if !queueOk l then disable 1 0
      else if tail - head > 2 ^ field l 8 1 then disable 0 tail
      else if head ≥ tail then s.armAgent (x, queue) c d
      else
        let t := s.takeRecord x queue head (BitVec.ofNat 64 (field l 0 8 + 512 * (head % 2 ^ field l 8 1)))
        match t.ctxStore c (d + 16) (leBytes 8 (head + 1)) with
        | .ok u => u.acceptQueue x queue fuel
        | .error _ => s

/-- R209, R210: every queue of every context, in descriptor order, but those whose monitored line nothing has written. -/
def State.acceptAll (s : State) : State :=
  (List.range s.ctxs.length).foldl (fun s x =>
    if (s.ctx x).live then (List.range 16).foldl (fun s q => if s.agentWaits (x, q) then s else s.acceptQueue x q 65536) s else s) s

/-! ### Resources of a core (R164, R173, R212) -/

/-- R164: the block's waves hold slots and rows of its core; a woken block whose restore has begun has a claim on them (R221). -/
def Block.holdsRows (k : Block) : Bool := k.resident || k.coming
/-- R173, R221: the block holds a scratchpad range of its core. -/
def Block.holdsRange (k : Block) : Bool := !k.released && (k.saved.isNone || k.restoring)
/-- R164, R221: the block's waves may use its core's arrays, or come back to them. -/
def State.holdsArrays (s : State) (k : Block) : Bool := (s.launch k.launch).arrays && (k.st == .resident || k.st == .swapped)
def Launch.rows (n : Launch) : Nat := rowsFor n.waves n.octets n.pool n.lanes
/-- Wave slots and register-file rows that the blocks of a list hold. -/
def slotsOf (bs : List Block) : Nat := ((bs.filter Block.holdsRows).map fun k => k.waves.length).foldl (· + ·) 0
def State.rowsOf (s : State) (bs : List Block) : Nat := ((bs.filter Block.holdsRows).map fun k => (s.launch k.launch).rows).foldl (· + ·) 0
/-- R212: the block holds one of n granules from a. -/
def State.overlaps (s : State) (k : Block) (a n : Nat) : Bool :=
  k.holdsRange && k.base / 4096 < a + n && a < k.base / 4096 + (s.launch k.launch).granules
/-- R212: the range that a block of a launch gets beside the blocks of a list. -/
def State.rangeAmong (s : State) (bs : List Block) (n : Launch) : Option Nat :=
  let free := fun a => !bs.any fun k => s.overlaps k a n.granules
  if n.arrays then (if free 0 then some 0 else none) else (List.range (129 - n.granules)).reverse.find? free
/-- The blocks that are or were placed on a core. -/
def State.onCore (s : State) (core : Nat) : List Block := s.blocks.filter fun k => k.core == core
def State.rangeFor (s : State) (core : Nat) (n : Launch) : Option Nat := s.rangeAmong (s.onCore core) n

/-- What a launch's block lacks of slots, rows, range and arrays beside the blocks of a list (R164, R212). -/
def lacksSlots (bs : List Block) (n : Launch) : Bool := 32 < slotsOf bs + n.waves
def State.lacksFile (s : State) (bs : List Block) (n : Launch) : Bool := 4096 < s.rowsOf bs + n.rows
def State.lacksRows (s : State) (bs : List Block) (n : Launch) : Bool := lacksSlots bs n || s.lacksFile bs n
def State.lacksRange (s : State) (bs : List Block) (n : Launch) : Bool := (s.rangeAmong bs n).isNone
def State.lacksArrays (s : State) (bs : List Block) (n : Launch) : Bool := n.arrays && bs.any s.holdsArrays
def State.roomAmong (s : State) (bs : List Block) (n : Launch) : Bool := !s.lacksRows bs n && !s.lacksRange bs n && !s.lacksArrays bs n
/-- R164, R212: what a launch's block needs is free on a core. -/
def State.roomOn (s : State) (n : Launch) (core : Nat) : Bool := s.roomAmong (s.onCore core) n

/-- R171: block indices and cores of a gang. -/
def gangCores (n : Launch) (g : Gang) : List (Nat × Nat) :=
  let sh := shapeOf n.shape
  (List.range (sh.1 * sh.2)).map fun i => (i, g.die * 64 + 8 * (g.y0 + i / sh.1) + (g.x0 + i % sh.1))

/-- Free slots of a core for m waves; which of them is a free choice (log 6). -/
def State.takeSlots (s : State) (core m : Nat) : List Nat :=
  let used := ((s.onCore core).filter Block.resident).map (fun k => k.waves.map (·.slot)) |>.flatten
  (((List.range 32).map fun i => (i + s.pick (12288 + core)) % 32).filter fun i => !used.contains i).take m

/-! ### Placement (R14, R165, R172, R173, R267, R361) -/

/-- R14, R321: a wave at its start. -/
def startWave (n : Launch) (idx slot res : Nat) (now : Nat) : Wave :=
  { idx := idx, slot := slot, octets := n.octets, k := ((List.range 16).zip n.args).foldl (fun m p => sset 0 m p.1 p.2) [], res := res,
    a := { pc := n.entry, mask := lowMask n.lanes, lastIssue := now } }

/-- R361: the inboxes of a block of the bound launch: ports whose whole region its allocation holds. -/
def State.inboxesFor (s : State) (l : Nat) (n : Launch) : List Inbox :=
  match n.graph with
  | none => []
  | some g =>
    if (s.graph g).bound == some l then
      ((List.range (s.graph g).ports.length).filter fun q =>
        let p := (s.graph g).port q
        p.log2e != 0 && !s.remotePort g q && p.inbox + p.entryBytes * (p.ring + n.waves) ≤ 4096 * n.granules).map fun q => { port := q }
    else []

/-- R163 to R165, R172: one block of a gang starts.  The acceptance of its launch orders what the submission released before its waves
(R313): the core's L1 keeps nothing older. -/
def State.startBlock (s : State) (l g : Nat) (y : Gang) (ic : Nat × Nat) : State :=
  let n := s.launch l
  let core := ic.2
  let slots := s.takeSlots core n.waves
  let base := 4096 * ((s.rangeFor core n).getD 0)
  let res := fun slot => nextRes (sget 0 (s.core core).res slot)
  let waves := (List.range n.waves).map fun i => startWave n i (slots.getD i 0) (res (slots.getD i 0)) s.ticks
  let k : Block :=
    { launch := l, gang := g, index := ic.1, die := y.die, core := core, vdie := y.vdie, base := base, pool := n.pool, waves := waves,
      inboxes := s.inboxesFor l n, placed := s.ticks }
  let s1 := s.modCore core fun c0 =>
    let c := c0.acquire true
    { c with scratch := sdrop c.scratch (fun a => base ≤ a && a < base + 4096 * n.granules)
             scrFail := c.scrFail.filter fun w => !(base ≤ w * 4 && w * 4 < base + 4096 * n.granules)
             raceScr := sdrop c.raceScr fun a => base ≤ a * 128 && a * 128 < base + 4096 * n.granules
             res := slots.foldl (fun m i => sset 0 m i (res i)) c.res
             icOld := if s.blocks.any fun k => k.launch == l && k.core == core then c.icOld else []
             banks := if n.arrays then c.clearBanks else c.banks
             tiles := if n.arrays then [] else c.tiles
             softTiles := if n.arrays then [] else c.softTiles
             badTiles := if n.arrays then [] else c.badTiles }
  { s1 with blocks := s1.blocks ++ [k] }.modGang l g fun y => { y with blocks := y.blocks ++ [s.blocks.length] }

/-- R406: a block that comes back takes slots, and a range where it had given it up. -/
def State.returnBlock (s : State) (b : Nat) : State :=
  let k := s.block b
  let n := s.launch k.launch
  let slots := s.takeSlots k.core n.waves
  let base := if k.saved.isSome then 4096 * ((s.rangeFor k.core n).getD 0) else k.base
  s.modBlock b fun k =>
    { k with
      base := base, restoring := true, coming := false, placed := s.ticks
      st := if k.st == .done then .done else .resident
      waves := if k.st == .done then k.waves else ((List.range k.waves.length).zip k.waves).map fun p => { p.2 with slot := slots.getD p.1 0 } }

/-- R172, R406: a gang starts, or comes back, on all its cores. -/
def State.placeGang (s : State) (l g : Nat) : State :=
  let y := s.gang l g
  let t := if y.st == .preempted then y.blocks.foldl State.returnBlock s
    else (gangCores (s.launch l) y).foldl (fun t ic => t.startBlock l g y ic) s
  t.modGang l g fun y => { y with st := .placed, waited := 0, promoted := false, behind := false, sliceDone := false, since := s.raw, late := 0, placedAt := s.ticks }

/-! ### Operating-point holds (R214) -/

/-- The hints of the launches with a block on a die. -/
def State.hintsOn (s : State) (die : Nat) : List Nat :=
  (s.blocks.filter fun k => k.die == die && (k.st == .resident || k.st == .swapped)).map fun k => (s.launch k.launch).hint
def State.pointOf (s : State) (die : Nat) : Nat := sget 0 s.dev.point die
def State.grantedOf (s : State) (die : Nat) : Nat := sget 0 s.dev.granted die
/-- R443: a die is too warm for its point to rise. -/
def State.warm (s : State) (die : Nat) : Bool := s.tj die > ((s.thrOf die).extractLsb' 16 16).toInt - 8
/-- R443: a die may not rise: it is too warm itself, or the control die throttled it and has not cooled yet. -/
def State.keptDown (s : State) (die : Nat) : Bool := s.warm die || (s.dev.ctlThrottled && s.warm 8)
/-- R214, R443, R447: the highest point that the thermal and power caps leave a die. -/
def State.pointCap (s : State) (die : Nat) : Nat :=
  if s.keptDown die || s.dev.capped.contains die then max 1 (s.pointOf die) else 15
/-- A die's point changes; until it reports stability, it is on its way. -/
def State.setPoint (s : State) (die p : Nat) : State :=
  if s.pointOf die == p then s
  else s.modDev fun d => { d with point := sset 0 d.point die p, unstable := if d.unstable.contains die then d.unstable else die :: d.unstable }
/-- R214: the hold of a launch on a die ends. -/
def State.releaseHolds (s : State) (die : Nat) : State :=
  { s with launches := s.launches.map fun n => if n.asked.contains die && !n.released.contains die then { n with released := die :: n.released } else n }
/-- R214: the distributor asks the power manager for a launch's point on a die.  A grant raises a die's point and never lowers it: a die
above the point keeps it, and is stable there (log 24). -/
def State.askPoint (s : State) (l die : Nat) : State :=
  let n := s.launch l
  if n.asked.contains die then s
  else
    let p := min (((s.hintsOn die).foldl max n.hint)) (s.pointCap die)
    let t := (s.modLaunch l fun n => { n with asked := die :: n.asked }).modDev fun d => { d with granted := sset 0 d.granted die (max p (s.grantedOf die)) }
    let u := if s.pointOf die < p then t.setPoint die p else t
    if u.dev.unstable.contains die then u else u.releaseHolds die
/-- R214: a launch is held on a die. -/
def State.held (s : State) (l die : Nat) : Bool := (s.launch l).hint != 0 && !(s.launch l).released.contains die

/-- The event DIE_STABLE. -/
def execDieStable (die : Nat) (s : State) : Host.Outcome State Fault Refusal :=
  if s.dev.unstable.contains die then .next ((s.modDev fun d => { d with unstable := d.unstable.filter (· != die) }).releaseHolds die) else .next s

/-- The event OPERATING_POINT_IDLE_LOWER: in one step to the highest point that a resident launch asks for (R214, log 24). -/
def execOperatingPointIdleLower (die : Nat) (s : State) : Host.Outcome State Fault Refusal :=
  let p := (s.hintsOn die).foldl max 0
  if p < s.grantedOf die then
    .next ((s.modDev fun d => { d with granted := sset 0 d.granted die p }).setPoint die (min p (s.pointOf die)))
  else .next s

/-! ### The round (R210 to R213, R399 to R401) -/

/-- What a round carries along: closed cores with their levels, and cores that a waiting candidate needs. -/
structure Round where
  s : State
  closed : List (Nat × Nat) := []
  wanted : List Nat := []

/-- R401: places for the records of a gang in the free part of its context's save region; a place kept for the record of a gang that is
already asked to stop is not free. -/
def State.gangPlaces (s : State) (l g : Nat) : Option (List (Nat × Nat × Nat)) :=
  let x := (s.launch l).ctx
  s.placeRecords x true (s.gang l g).blocks (s.savedIn x)

/-- R210: a request to pre-empt a gang. -/
def State.requestStop (s : State) (l g : Nat) (behind : Bool) : State :=
  if (s.gang l g).st == .placed && !(s.gang l g).stopReq then
    match s.gangPlaces l g with
    | some p => s.modGang l g fun y => { y with stopReq := true, behind := behind, places := p }
    | none => s
  else s

/-- The gang of a block has been asked to stop. -/
def State.stopping (s : State) (k : Block) : Bool := (s.gang k.launch k.gang).stopReq
def State.levelOfBlock (s : State) (k : Block) : Nat := (s.launch k.launch).priority

/-- R399: among the blocks of the lowest level, one of the most recently placed gang. -/
def State.worstOf (s : State) (l : List Block) : Option Block :=
  let at' := fun (k : Block) => (s.gang k.launch k.gang).placedAt
  l.foldl (fun a x => match a with
    | none => some x
    | some y =>
      if s.levelOfBlock x < s.levelOfBlock y || (s.levelOfBlock x == s.levelOfBlock y && at' x > at' y) then some x else some y) none

/-- R210, R212, R399: the gangs that a candidate which lacks room on a core has stopped there: where blocks of lower levels hold a resource that
it lacks, those that hold granules of an ARRAYS candidate's range, and otherwise the one that R399 names; none for a resource that blocks
of its own level or a higher one hold, or that gangs which already stop will free. -/
def State.lowerGangs (s : State) (n : Launch) (core : Nat) : List Block :=
  let all := s.onCore core
  let left := all.filter fun k => !s.stopping k
  let lower := left.filter fun k => s.levelOfBlock k < n.priority
  let high := left.filter fun k => !(s.levelOfBlock k < n.priority)
  let short := fun (f : List Block → Bool) => f left && !f high
  if n.arrays && short (fun l => s.lacksRange l n) then lower.filter fun k => s.overlaps k 0 n.granules
  else
    (s.worstOf (lower.filter fun k =>
      ((short (fun l => lacksSlots l n) || short fun l => s.lacksFile l n) && k.holdsRows) || (short (fun l => s.lacksRange l n) && k.holdsRange) ||
      (short (fun l => s.lacksArrays l n) && s.holdsArrays k))).toList

/-- R210, R400: what a waiting candidate makes of the gangs on one of its cores: lower ones where it lacks room there, and those of its
own level whose slice has expired once it has waited a whole round. -/
def State.pressOn (s : State) (n : Launch) (waited core : Nat) : State :=
  let t := if s.roomOn n core then s else (s.lowerGangs n core).foldl (fun s k => s.requestStop k.launch k.gang false) s
  if waited ≥ 2 then
    (t.onCore core).foldl (fun s k =>
      if s.levelOfBlock k == n.priority && (s.gang k.launch k.gang).sliceDone && (k.holdsRows || k.holdsRange) then s.requestStop k.launch k.gang true else s) t
  else t

/-- R210: one candidate gang of a round. -/
def Round.tryGang (r : Round) (lg : Nat × Nat) : Round :=
  let l := lg.1
  let g := lg.2
  let y := r.s.gang l g
  let s0 := if r.s.held l y.die then r.s.askPoint l y.die else r.s
  if s0.held l y.die then { r with s := s0 }
  else
    let n := s0.launch l
    let cores := (gangCores n y).map (·.2)
    if (cores.all fun c => s0.roomOn n c) && !cores.any fun c => r.closed.any fun x => x.1 == c && x.2 ≥ n.priority then
      { r with s := s0.placeGang l g }
    else
      let w := y.waited + 1
      let promoted := y.promoted || w ≥ 16
      let s1 := s0.modGang l g fun y => { y with waited := w, promoted := promoted }
      { s := cores.foldl (fun s c => s.pressOn n w c) s1
        closed := if promoted then r.closed ++ cores.map fun c => (c, n.priority) else r.closed
        wanted := r.wanted ++ cores }

/-- R213: one ballast gang at the end of a round. -/
def Round.tryBallast (r : Round) (lg : Nat × Nat) : Round :=
  let l := lg.1
  let y := r.s.gang l lg.2
  let s0 := if r.s.held l y.die then r.s.askPoint l y.die else r.s
  let n := s0.launch l
  let cores := (gangCores n y).map (·.2)
  if s0.held l y.die || s0.dev.ballastStop then { r with s := s0 }
  else if cores.all fun c => s0.roomOn n c && !r.closed.any (fun x => x.1 == c) && !r.wanted.contains c then { r with s := s0.placeGang l lg.2 }
  else { r with s := s0 }

/-- R221: slots and rows for a swapped-out block beside the other blocks of a list. -/
def State.rowsFor (s : State) (b : Nat) (bs : List Block) : Bool :=
  let k := s.block b
  !s.lacksRows (bs.filter fun j => !(j.launch == k.launch && j.gang == k.gang && j.index == k.index)) (s.launch k.launch)

/-- R221: while the woken block does not fit beside the blocks that stay, the most recently placed of the blocks placed after its swap-out
is pre-empted, one at a time. -/
def State.makeRoom (s : State) (b : Nat) : List Block → State
  | [] => s
  | j :: t =>
    if s.rowsFor b ((s.onCore (s.block b).core).filter fun k => !s.stopping k) then s
    else State.makeRoom (s.requestStop j.launch j.gang false) b t

def insertBy {α : Type} (f : α → α → Bool) (x : α) : List α → List α
  | [] => [x]
  | y :: t => if f x y then x :: y :: t else y :: insertBy f x t
/-- A list sorted by an order. -/
def sortBy {α : Type} (f : α → α → Bool) : List α → List α
  | [] => []
  | x :: t => insertBy f x (sortBy f t)

/-- R213, R221: a woken block comes back; while it lacks slots or rows it has its claim on those that will be free, and ballast gets none of
its core. -/
def Round.tryWoken (r : Round) (b : Nat) : Round :=
  let s := r.s
  let core := (s.block b).core
  let later := sortBy (fun (x y : Block) => x.placed > y.placed) ((s.onCore core).filter fun j => j.resident && j.placed ≥ (s.block b).placed && !s.stopping j)
  let t := s.makeRoom b later
  if t.rowsFor b (t.onCore core) then { r with s := t.returnBlock b }
  else
    { r with s := if t.rowsFor b ((t.onCore core).filter fun k => !t.stopping k) then t.modBlock b fun k => { k with coming := true } else t
             wanted := r.wanted ++ [core] }

/-- R221: woken blocks of a core whose restore has begun come back where the slots and rows that they need are free. -/
def State.serveComing (s : State) (core : Nat) : State :=
  (List.range s.blocks.length).foldl (fun t b =>
    if (t.block b).core == core && (t.block b).coming && t.rowsFor b (t.onCore core) then t.returnBlock b else t) s

/-- R448: INBAND is 0 for every 1 ms window with this 10 µs in it. -/
def State.breakBand (s : State) : State := s.modDev fun d => { d with outOfBand := 100 }

/-- The event GANG_STOP_COMPLETE of a gang whose pre-emption has been requested. -/
def execGangStopComplete (l g : Nat) (s : State) : Host.Outcome State Fault Refusal :=
  let y := s.gang l g
  if y.st == .placed && y.stopReq && s.gangStopped l g then
    let t := y.places.foldl (fun s p => s.saveBlock p.1 p.2.1) s
    let u := { t with nextId := t.nextId + 1 }.modGang l g fun y =>
      { y with st := .preempted, stopReq := false, sliceDone := false, waited := 0, promoted := !y.behind, places := []
               late := if y.behind then t.nextId else 0 }
    let v := if (s.launch l).priority == 0 then u.breakBand else u
    .next ((y.blocks.map fun b => (s.block b).core).foldl State.serveComing v)
  else .next s

/-- R210, R400: the place of a waiting gang among those of its level. -/
def Gang.place (y : Gang) : Nat := max y.order y.late
/-- R210: which of two waiting gangs comes first: level, promotion, order, number. -/
def State.gangBefore (s : State) (x y : Nat × Nat) : Bool :=
  let a := s.gang x.1 x.2
  let b := s.gang y.1 y.2
  let la := (s.launch x.1).priority
  let lb := (s.launch y.1).priority
  if la != lb then la > lb
  else if a.promoted != b.promoted then a.promoted
  else if a.place != b.place then a.place < b.place
  else a.number < b.number
/-- R213: ballast gangs in the order of acceptance of their launches. -/
def State.ballastBefore (s : State) (x y : Nat × Nat) : Bool :=
  if x.1 != y.1 then x.1 < y.1 else (s.gang x.1 x.2).number < (s.gang y.1 y.2).number
/-- Waiting gangs: not yet placed, or pre-empted, of accepted launches that go on. -/
def State.waitingGangs (s : State) : List (Nat × Nat) :=
  ((List.range s.launches.length).map fun l =>
    if (s.launch l).ended then []
    else ((List.range (s.launch l).gangs.length).filter fun g =>
      (s.gang l g).st == .waiting || ((s.gang l g).st == .preempted)).map fun g => (l, g)).flatten

/-- R210 to R213, R221: what a round places: woken blocks, the candidates of levels 1 and higher, then ballast. -/
def State.placeRound (t : State) : State :=
  let woken := sortBy (fun a b => (t.block a).placed < (t.block b).placed)
    ((List.range t.blocks.length).filter fun b => (t.block b).st == .swapped && t.wokenBlock b && !(t.gang (t.block b).launch (t.block b).gang).stopReq)
  let gangs := sortBy t.gangBefore t.waitingGangs
  let r1 := woken.foldl Round.tryWoken { s := t }
  let r2 := (gangs.filter fun x => (t.launch x.1).priority != 0).foldl Round.tryGang r1
  ((sortBy t.ballastBefore (gangs.filter fun x => (t.launch x.1).priority == 0)).foldl Round.tryBallast r2).s
/-- The event DISTRIBUTOR_ROUND. -/
def execDistributorRound (s : State) : Host.Outcome State Fault Refusal :=
  if s.dev.stage != 3 then .next s else .next s.acceptAll.placeRound

/-- The event GANG_PROMOTION: 16 rounds without a place. -/
def execGangPromotion (l g : Nat) (s : State) : Host.Outcome State Fault Refusal :=
  let y := s.gang l g
  if (y.st == .waiting || y.st == .preempted) && y.waited ≥ 16 && !y.promoted then .next (s.modGang l g fun y => { y with promoted := true }) else .next s

/-! ### Completion (R177) -/

/-- R177: nothing of a launch is on its way any more. -/
def State.launchQuiet (s : State) (l : Nat) : Bool :=
  let mine := fun b => (s.block b).launch == l
  !s.atomReqs.any (fun r => mine r.b) && !s.sumac.any (fun j => match j.who with | some w => mine w.1 | none => false) &&
  s.cores.all fun c => c.2.copies.all (fun y => !mine y.b) && c.2.arb.all fun y => !mine y.b

/-- The event LAUNCH_COMPLETE. -/
def execLaunchComplete (l : Nat) (s : State) : Host.Outcome State Fault Refusal :=
  let n := s.launch l
  if l < s.launches.length && !n.done && n.gangs.all (fun g => g.st == .done) && s.launchQuiet l then
    let t := ({ s with peerReqs := s.peerReqs.filter fun r => !(r.silent && (s.block r.b).launch == l) }).completionAdd n.ctx n.queue n.seq n.caddr n.cinc
    let t1 := t.modLaunch l fun n => { n with done := true }
    .next (match n.graph with
      | some g => t1.modGraph g fun h => if h.bound == some l then { h with bound := none } else h
      | none => t1)
  else .next s

/-! ### Ending launches (R383, R407) -/

/-- R407: the copies of a pre-empted block are discarded, with their counters advanced. -/
def State.discardCopies (s : State) (b : Nat) : State :=
  let k := s.block b
  (k.saved.getD {}).copies.foldl (fun t c =>
    match c.block with
    | none => t
    | some p =>
      let m := tensorOf p
      if m.caddr == 0 || m.caddr.toNat % 8 != 0 then t
      else match t.copyAdd k.core c m with
        | .ok u => u
        | .error e => t.report b c.w { cause := e.1, sub := e.2, info := m.caddr, site := c.site, seq := (t.launch k.launch).seq }) s

/-- R383, R407: a block of an ended launch. -/
def State.endOneBlock (s : State) (b : Nat) : State :=
  let k := s.block b
  if k.st == .done then s.modBlock b fun k => { k with save := none }
  else
    let away := k.saved.isSome || k.st == .preempted
    let s1 := if away then (s.discardCopies b).modBlock b fun k => { k with savedArb := [], saved := k.saved.map fun x => { x with copies := [] } } else s
    let s2 := (List.range k.waves.length).foldl (fun t w => if (t.wave b w).done then t else
      (t.modWave b w fun v => { v with exited := lowMask (t.launch k.launch).lanes, halted := false, stack := [], b := none, a := { v.a with mask := 0, st := .ready } }).endWave b w) s1
    (s2.modBlock b fun k => { k with save := none, savedArb := [], restoring := false, coming := false }).endBlock b

/-- R383: END_LAUNCH: as if every lane had exited; gangs that were never placed do not start. -/
def State.endLaunch (s : State) (l : Nat) : State :=
  let t := s.modLaunch l fun n =>
    { n with ended := true, gangs := n.gangs.map fun g => if g.st == .waiting then { g with st := .done } else { g with stopReq := false, places := [] } }
  (((List.range t.blocks.length).filter fun b => (t.block b).launch == l)).foldl State.endOneBlock t

/-! ### Wave commands (R383) -/

/-- R383: the launch that a command names: the latest of its number and queue that has a block placed. -/
def State.launchNamed (s : State) (x : Nat) (seq : Word) (queue : Nat) : Option Nat :=
  ((List.range s.launches.length).reverse.find? fun l => (s.launch l).ctx == x && (s.launch l).seq == seq && (s.launch l).queue == queue &&
    s.blocks.any fun k => k.launch == l)
/-- The wave that a command names, once placed. -/
def State.waveNamed (s : State) (l gang block wave : Nat) : Option (Nat × Nat) :=
  match (List.range s.blocks.length).find? fun b =>
      (s.block b).launch == l && (s.gang l (s.block b).gang).number == gang && (s.block b).index == block with
  | none => none
  | some b => if wave < (s.block b).waves.length then some (b, wave) else none

/-- R383: a halted wave goes on; at: the arm and address of RESUME_AT. -/
def State.resumeWave (s : State) (b w : Nat) (at' : Option (Bool × DWord)) : State :=
  let t := if at'.isSome then s.dropSend { b := b, w := w, armB := (at'.map (·.1)).getD false } else s
  t.modWave b w fun v =>
    let u : Wave := { v with halted := false, a := { v.a with reason := 0 }, b := v.b.map fun a => { a with reason := 0 } }
    match at' with
    | none => u
    | some (armB, pc) => u.modArm armB fun a => { a with pc := pc, dmask := 0, st := .ready, skipBp := false, skipAt := none, waited := 0 }

/-- R383: the command in the block, carried out where its OP is accepted; its RESULT. -/
def State.command (s : State) (x : Nat) (l : List Byte) : State × Nat :=
  let op := field l 30 1
  match s.launchNamed x (BitVec.ofNat 32 (field l 16 4)) (field l 20 1) with
  | none => (s, 1)
  | some n =>
    if op == 3 then (s.endLaunch n, 0)
    else
      match s.waveNamed n (field l 24 4) (field l 28 1) (field l 29 1) with
      | none => (s, 1)
      | some (b, w) =>
        let v := s.wave b w
        if v.done || !v.halted then (s, 2)
        else if op == 1 then (s.resumeWave b w none, 0)
        else if v.divided && field l 31 1 > 1 then (s, 1)
        else (s.resumeWave b w (some (v.divided && field l 31 1 == 1, BitVec.ofNat 64 (field l 32 8))), 0)

/-- R383: a command whose SEQ is above DONE and whose OP is one of ops: RESULT, then DONE := SEQ. -/
def State.serveCommand (s : State) (x : Nat) (ops : Nat → Bool) : State :=
  let c := s.ctx x
  if !c.live then s
  else
    let s := s.ctxFix c (c.ccb + 128) 64
    match s.ctxLoad c (c.ccb + 128) 64 with
    | .error _ => s
    | .ok l =>
      if field l 0 8 == field l 8 8 || !ops (field l 30 1) then s
      else
        let r := if field l 30 1 == 0 || field l 30 1 > 3 then (s, 3) else s.command x l
        match r.1.ctxStore c (c.ccb + 168) (leBytes 4 r.2) with
        | .error _ => r.1
        | .ok t => match t.ctxStore c (c.ccb + 136) (leBytes 8 (field l 0 8)) with
          | .error _ => t
          | .ok u => u

def execResume (x : Nat) (s : State) : Host.Outcome State Fault Refusal := .next (s.serveCommand x fun n => n != 2 && n != 3)
def execResumeAt (x : Nat) (s : State) : Host.Outcome State Fault Refusal := .next (s.serveCommand x fun n => n == 2)
def execEndLaunch (x : Nat) (s : State) : Host.Outcome State Fault Refusal := .next (s.serveCommand x fun n => n == 3)

/-! ### Shootdown and notifications (R385, R395 to R397) -/

/-- R396: translations and pointers of a context that overlap a range go; pages 0 names all. -/
def State.dropTlb (s : State) (asid : Nat) (va pages : Nat) : State :=
  { s with
    tlb := s.tlb.filter fun t => t.asid != asid || !(pages == 0 || (t.va < va + pages * 4096 && va < t.va + t.size))
    walks := s.walks.filter fun p => p.asid != asid ||
      !(pages == 0 || (p.page * 2 ^ (12 + 9 * p.lvl) < va + pages * 4096 && va < (p.page + 1) * 2 ^ (12 + 9 * p.lvl)))
    cores := s.cores.map fun c => (c.1, { c.2 with pcache := c.2.pcache.filter fun y => y.1 / 2 ^ 57 != asid }) }

/-- R397: DONE := SEQ; the agents read their lines again, by the new tables. -/
def State.shootAnswer (s : State) (x : Nat) (seq : DWord) : State :=
  let c := s.ctx x
  let t := { s.modCtx x fun c => { c with shootPending := false } with agentMons := [] }
  match t.ctxStore c (c.ccb + 72) (leBytes 8 seq.toNat) with
  | .ok u => u
  | .error _ => t

/-- The event SHOOTDOWN. -/
def execShootdown (x : Nat) (s : State) : Host.Outcome State Fault Refusal :=
  let c := s.ctx x
  if !c.live || c.shootPending then .next s
  else
    let s := s.ctxFix c (c.ccb + 64) 64
    match s.ctxLoad c (c.ccb + 64) 64 with
    | .error _ => .next s
    | .ok l =>
      let seq : DWord := BitVec.ofNat 64 (field l 0 8)
      if field l 0 8 == field l 8 8 then .next s
      else if !zeroAt l 32 32 || field l 16 8 % 4096 != 0 || !canonical (BitVec.ofNat 64 (field l 16 8)) then
        .next ((s.post x { cause := 3, sub := 5, nowave := true, info := BitVec.ofNat 64 (field l 16 8) }).shootAnswer x seq)
      else
        .next ((s.dropTlb c.asid (field l 16 8) (field l 24 8)).modCtx x fun c => { c with shootPending := true, shootSeq := seq })

/-- The arms of the waves of a context's blocks that have the given state. -/
def State.armsIn (s : State) (x : Nat) (p : Block → Bool) : List Cursor :=
  ((List.range s.blocks.length).map fun b =>
    if (s.launch (s.block b).launch).ctx == x && p (s.block b) then
      ((List.range (s.block b).waves.length).map fun w => [{ b := b, w := w, armB := false }, { b := b, w := w, armB := true }]).flatten
    else []).flatten

/-- The arm waits in a `rehome` (R418), which has found its granules. -/
def State.rehoming (s : State) (u : Cursor) : Bool := match (s.arm u).st with | .rehome _ => true | _ => false
/-- The event SHOOTDOWN_DONE: accesses that may have used a removed translation are performed, reads of peers bound, writes to them
acknowledged, also those of completed blocks, and no `rehome` is on its way; waits go on with the new tables. -/
def execShootdownDone (x : Nat) (s : State) : Host.Outcome State Fault Refusal :=
  let mine := fun b => (s.launch (s.block b).launch).ctx == x
  if (s.ctx x).shootPending && !s.atomReqs.any (fun r => mine r.b) && !s.peerReqs.any (fun q => mine q.b && !q.silent) &&
      !s.sumac.any (fun j => match j.who with | some w => mine w.1 | none => false) &&
      !(s.armsIn x fun k => k.st != .done).any s.rehoming then
    let t := ((s.armsIn x fun _ => true).filter fun u => !u.armB).foldl (fun t u => t.peerWritesDone u.b u.w) s
    .next (((t.armsIn x fun k => (k.st == .resident && !k.restoring) || k.st == .swapped).foldl State.rewait t).shootAnswer x (s.ctx x).shootSeq)
  else .next s

/-- The event NOTIFICATION_HOLDOFF: the 10 µs are over, and later postings are covered by one write. -/
def execNotificationHoldoff (x : Nat) (s : State) : Host.Outcome State Fault Refusal :=
  let c := s.ctx x
  let t := s.modCtx x fun c => { c with notifyHeld := false, notifyDue := false }
  if !c.notifyDue then .next t
  else
    match s.ctxLoad c c.ccb 64 with
    | .error _ => .next t
    | .ok d => .next ((t.ctxFix c c.ccb 64).notify x d)

/-! ### Contexts (R207, R393, R400, R401, R414) -/

/-- R414: a virtual-die table is legal. -/
def vdiesOk (dieEn : BitVec 8) (l : List Byte) : Bool :=
  let valid := l.filter fun b => b.getLsbD 7
  l.length == 8 && l.all (fun b => b.extractLsb' 3 4 == 0) && valid.all (fun b => dieEn.getLsbD (b.extractLsb' 0 3).toNat) &&
  (valid.map fun b => (b.extractLsb' 0 3).toNat).Nodup

/-- The event CONTEXT_CREATE: refused, with no effect, where an argument breaks a limit; a threshold, hang time or slice table that is not
given has its default (R220, R400, R408). -/
def execContextCreate (number asid root : Nat) (rootHost : Bool) (ccb : DWord) (vdies : List Byte) (saveBase saveSize : Nat)
    (swapUs hang : Option Nat) (slices : Option (List Nat)) (s : State) : Host.Outcome State Fault Refusal :=
  let c : Context :=
    { number := number, asid := asid, root := root, rootHost := rootHost, ccb := ccb, vdies := vdies, saveBase := saveBase, saveSize := saveSize }
  let c1 : Context := { c with swapUs := swapUs.getD c.swapUs, hang := hang.getD c.hang, slices := slices.getD c.slices }
  s.setup (number < 2 ^ 32 && asid < 4096 && !(s.ctxs.any fun c => c.live && (c.asid == asid || c.number == number)) &&
      ccb.toNat % 4096 == 0 && canonical ccb && root % 4096 == 0 && vdiesOk s.dev.dieEn vdies && saveBase % 4096 == 0 &&
      saveSize % 4096 == 0 && saveBase + saveSize ≤ s.memSize && c1.swapUs ≤ 1000000 && c1.hang ≤ 65535 && c1.slices.length == 7 &&
      c1.slices.all (· ≤ 65535))
    { s with ctxs := s.ctxs ++ [c1] }

/-- The event CONTEXT_DESTROY: its launches end, its translations go on every die, its ASID is free. -/
def execContextDestroy (x : Nat) (s : State) : Host.Outcome State Fault Refusal :=
  let ls := (List.range s.launches.length).filter fun l => (s.launch l).ctx == x && !(s.launch l).done
  s.setup (s.ctx x).live (((ls.foldl State.endLaunch s).dropTlb (s.ctx x).asid 0 0).modCtx x fun c => { c with live := false })

/-- The event VIRTUAL_DIE_TABLE_SET: only while no accepted launch of the context is uncompleted. -/
def execVirtualDieTableSet (x : Nat) (vdies : List Byte) (s : State) : Host.Outcome State Fault Refusal :=
  s.setup ((s.ctx x).live && vdiesOk s.dev.dieEn vdies && s.launches.all fun n => n.ctx != x || n.done)
    (s.modCtx x fun c => { c with vdies := vdies })

/-- The event TIME_SLICE_SET. -/
def execTimeSliceSet (x : Nat) (slices : List Nat) (s : State) : Host.Outcome State Fault Refusal :=
  s.setup ((s.ctx x).live && slices.length == 7 && slices.all (· ≤ 65535))
    (s.modCtx x fun c => { c with slices := slices })

end Sys2Proof.Machine
end

