-- ==== Sys2Proof/Machine/Dies.lean ====
section
/-! DEFINITION. Many dies and devices: `hops`, `gtime`, `rehome`, the home directory, time registers, die resets, the host's direct
window, the aperture from outside, the device fabric, and its set-up (R228, R257, R413 to R430). -/
namespace Sys2Proof.Machine

/-! ### hops and gtime (R415, R421) -/

/-- R415. -/
def hopsValue (c : Context) (a b : Word) : Word :=
  match if a.toNat < 8 then c.pdie a.toNat else none, if b.toNat < 8 then c.pdie b.toNat else none with
  | some x, some y => BitVec.ofNat 32 (hopDistance x y)
  | _, _ => 0xFFFFFFFF#32

def execHops (sw : Bool) (d a b : VReg) (s : State) : Host.Outcome State Fault Refusal :=
  issue sw 4 (fun _ => { vs := [oneDst d, one a, one b], guarded := true })
    (fun e t => .next (e.write (laneEff e.lanes false d.toNat fun i => ((hopsValue e.cx (e.word a i) (e.word b i)).setWidth 64, 0)) t)) s

/-- R421: the least raw count that converts to a time. -/
def unconv (x ofs : DWord) (rate : Word) : DWord :=
  BitVec.ofNat 64 (ofs.toNat + (x.toNat * 2 ^ 30 + rate.toNat - 1) / rate.toNat)

/-- R421: OFS and RATE of a die as `gtime` finds them in its own die's copy: for 1 µs after a write, the pair before or after it, at a free
choice. -/
def State.pairOf (s : State) (d : Nat) : DWord × Word :=
  match sget none s.dev.steered d with
  | some x => if s.raw < x.2.2 + 100 && s.pick (40960 + d) % 2 == 1 then (x.1, x.2.1) else (s.ofsOf d, s.rateOf d)
  | none => (s.ofsOf d, s.rateOf d)
/-- R421. -/
def gtimeValue (c : Context) (s : State) (x y : DWord) : DWord :=
  if y &&& ~~~0x107#64 != 0 then NONE
  else
    match c.pdie (y.extractLsb' 0 3).toNat with
    | none => NONE
    | some d =>
      let z := s.pairOf d
      if !y.getLsbD 8 then conv x z.1 z.2 else if z.2 == 0 then NONE else unconv x z.1 z.2

def execGtime (sw : Bool) (kd ka kb : KReg) (s : State) : Host.Outcome State Fault Refusal :=
  issue sw 4 (kForm [kd, ka, kb]) (fun e t => .next (e.write { k := [(kd.toNat, gtimeValue e.cx t (e.k ka) (e.k kb))] } t)) s

/-! ### The home directory (R416 to R419) -/

/-- Granules of device memory that a physical range touches. -/
def granulesOf (pa len : Nat) : List Nat := if len == 0 then [] else span (pa / 65536) ((pa + len - 1) / 65536 - pa / 65536 + 1)

/-- R419: one granule with effective home die old moves to die d: its byte is written; where the die changes, ownerships are recalled and
its uncorrectable words stay so; predictor states and monitors go along. -/
def State.moveGranule (s : State) (g : Nat) (byte : Byte) (old d : Nat) : State :=
  let inside := fun (line : Nat) => line / 512 == g
  let bad := if s.memGood || old == d then [] else (span (g * 16384) 16384).filter fun w => !s.memBad.contains w && (span (4 * w) 4).any s.l2Bad
  { s.modDev fun x => { x with homeDir := sset 0 x.homeDir g byte } with
    memBad := s.memBad ++ bad
    preds := s.preds.map fun p =>
      if inside p.line then { p with home := 16 * d + sliceOf (p.line * 128), st := if old != d && p.st == 1 then 0 else p.st } else p
    monitors := s.monitors.map fun m => if inside m.line then { m with home := 16 * d + sliceOf (m.line * 128) } else m }

/-- R418: OVR and DIE, with ENCG kept. -/
def overByte (old : Byte) (d : Nat) : Byte := 0x80#8 ||| (old &&& 0x40#8) ||| BitVec.ofNat 8 (d % 8)

/-- R418 check 3, which a page in host memory passes whatever its W, and the granules with the HOME of their leaves: by page, in increasing address order. -/
def State.rehomePages (s : State) (e : Env) (va : DWord) : Nat → Except Trap (List (Nat × Nat))
  | 0 => .ok []
  | n + 1 =>
    match (match s.translate (dataSide e.core) e.cx va false false with
      | .ok x => if x.host then Except.ok x else s.translate (dataSide e.core) e.cx va true false
      | r => r) with
    | .error x => .error { cause := x.1, sub := x.2, info := va }
    | .ok x =>
      match s.rehomePages e (va + 4096) n with
      | .error t => .error t
      | .ok l => .ok (if x.host then l else match s.place x.pa false with
        | .mem k => if (l.head?.map (·.1)) == some (k / 65536) then l else (k / 65536, x.leafHome) :: l
        | _ => l)

/-- R418: every earlier access of the arm is complete. -/
def State.quietArm (s : State) (e : Env) : Bool :=
  let b := e.u.b
  let w := e.u.w
  let armB := e.u.armB
  !s.lsBusy b w armB && !s.cpBusy b w armB && !s.mxBusy b w armB && !s.sending b w armB && !e.wv.receiving armB &&
  ((e.wv.mine e.u.armB).all fun r => r.kind.bound)

/-- R418, R419: the granules move to the wave's die. -/
def State.rehomeMove (s : State) (u : Cursor) (l : List (Nat × Nat)) : State :=
  let die := (s.block u.b).die
  l.foldl (fun s g => s.moveGranule g.1 (overByte (s.dirByte (g.1 * 65536)) die) (s.homeDie (g.1 * 65536) g.2) die) (s.peerWritesDone u.b u.w)
/-- R418: the arm's earlier accesses are complete, and no block write holds a lock in the granules. -/
def State.rehomeReady (s : State) (u : Cursor) (l : List (Nat × Nat)) : Bool :=
  s.quietArm (s.env u) && !s.sumac.any fun j => j.write && j.out.isSome && (l.map (·.1)).contains (j.key / 65536)
/-- R162, R418: a waiting `rehome` completes. -/
def State.rehomeWake (s : State) (u : Cursor) : State :=
  match (s.arm u).st with
  | .rehome l => if s.rehomeReady u l then (s.rehomeMove u l).modArm u fun a => { a with st := .ready, reason := 0 } else s
  | _ => s

/-- R418: the checks, then the move; while earlier accesses are on their way, the arm waits (R162). -/
def rehomeBody (ka kb : KReg) (e : Env) (t : State) : Out :=
  let a := e.k ka
  let n := e.k kb
  if a.toNat % 65536 != 0 then .trap { cause := 2, info := a }
  else if n.toNat % 65536 != 0 || n.toNat > 2 ^ 30 then .trap { cause := 2, info := n }
  else
    match t.rehomePages e a (n.toNat / 4096) with
    | .error x => .trap x
    | .ok l =>
      if t.rehomeReady e.u l then .next (t.rehomeMove e.u l)
      else .placed ((t.advance e.u (e.pc + 8)).modArm e.u fun a => { a with st := .rehome l, reason := 21 })

def execRehome (sw : Bool) (ka kb : KReg) (s : State) : Host.Outcome State Fault Refusal :=
  issue sw 8 (fun _ => { ks := [ka.toNat, kb.toNat], mem := true }) (rehomeBody ka kb) s

/-- R416: the HOME of the leaf of context x that maps a line, where one is cached; else that of another leaf of it (log 16). -/
def State.leafHomeIn (s : State) (x key : Nat) : Nat :=
  match s.tlb.find? fun t => t.asid == (s.ctx x).asid && !t.attr.getLsbD 8 && t.pa ≤ key && key < t.pa + t.size with
  | some t => (t.attr.extractLsb' 9 3).toNat
  | none => s.leafHomeOf key
/-- The event HOME_OVERRIDE_CLEAR: granules go back to the HOME of their leaf in context x, at whose host's request firmware does it (R416). -/
def execHomeOverrideClear (pa len x : Nat) (s : State) : Host.Outcome State Fault Refusal :=
  s.setup (pa + len ≤ s.memSize)
    ((granulesOf pa len).foldl (fun s g =>
      if (s.dirByte (g * 65536)).getLsbD 7 then s.moveGranule g (s.dirByte (g * 65536) &&& 0x40#8) (s.lineHome (g * 65536)) (s.leafHomeIn x (g * 65536)) else s) s)

/-- The event ENCG_SET (R417). -/
def execEncgSet (pa len : Nat) (on : Bool) (s : State) : Host.Outcome State Fault Refusal :=
  s.setup (pa + len ≤ s.memSize)
    (s.modDev fun d => { d with homeDir := (granulesOf pa len).foldl (fun m g =>
      sset 0 m g (if on then sget 0 m g ||| 0x40#8 else sget 0 m g &&& ~~~0x40#8)) d.homeDir })

/-! ### Time and die resets (R154, R257, R321, R420) -/

/-- R420: two converted times are within 4 units of each other. -/
def nearTime (a b : DWord) : Bool := (a - b).toNat ≤ 4 || (b - a).toNat ≤ 4
/-- R420: OFS and RATE that firmware chooses for a die: RATE within 0.001 of 1, converted time does not decrease, and it is within 4 units
of that of every other die; a die that is itself away from the control die, which a reset left so, does not count (log 17). -/
def State.steerOk (s : State) (die : Nat) (ofs : DWord) (rate : Word) : Bool :=
  let now := conv (s.rawOf die) ofs rate
  die ≤ 8 && 0x3FEF9DB2 ≤ rate.toNat && rate.toNat ≤ 0x4010624E && (now - s.timeOf die).toNat < 2 ^ 63 &&
  (List.range 9).all fun d => d == die || (d < 8 && !s.dev.dieEn.getLsbD d) || nearTime now (s.timeOf d) || !nearTime (s.timeOf d) (s.timeOf 8)
/-- The event TIME_STEER: firmware writes OFS and RATE of a die at one raw tick. -/
def execTimeSteer (die : Nat) (ofs : DWord) (rate : Word) (s : State) : Host.Outcome State Fault Refusal :=
  if !s.steerOk die ofs rate then .next s
  else .next (s.modDev fun d =>
    { d with ofs := sset 0 d.ofs die ofs, rate := sset 0x40000000 d.rate die rate
             steered := sset none d.steered die (some (s.ofsOf die, s.rateOf die, s.raw)) })

/-- R154, R231, R257, R321, R420: a compute die's reset: its cores lose what they hold, RES and the counters start again, and an
unsent block write leaves its block unchanged; a write whose request was sent, at a free choice, is still applied. -/
def State.resetDie (s : State) (die : Nat) : State :=
  let on := fun (core : Nat) => core / 64 == die
  { s.modDev fun d =>
      { d with clkZero := sset 0 d.clkZero die s.clk, rawZero := sset 0 d.rawZero die s.raw
               ofs := sset 0 d.ofs die 0, rate := sset 0x40000000 d.rate die 0x40000000, steered := sset none d.steered die none } with
    cores := s.cores.filter fun c => !on c.1
    blocks := s.blocks.map fun k => if k.die == die && k.st != .done then { k with waves := k.waves.map fun v => { v with done := true } } else k
    tlb := s.tlb.filter fun t => dieOf t.holder != die
    l2Fail := s.l2Fail.filter fun x => x / 2 ^ 40 / 144 != die
    l2Lost := s.l2Lost.filter fun x => x / 144 != die
    sumac := s.sumac.filter fun j => !on j.core || (j.out.isSome && s.pick (20480 + j.id) % 2 == 0)
    atomReqs := s.atomReqs.filter fun r => !on r.core
    openBatches := s.openBatches.filter fun b => !on b.core }

/-- The event COMPUTE_DIE_RESET. -/
def execComputeDieReset (die : Nat) (s : State) : Host.Outcome State Fault Refusal :=
  if die ≥ 8 then .next s else .next (s.resetDie die)

/-! ### The host's windows (R228, R423, R424) -/

/-- R423: an access from outside to n bytes of device memory may be served. -/
def State.outsideOk (s : State) (pa n : Nat) : Bool :=
  pa + n ≤ s.memSize && !s.badIn pa n && (granulesOf pa n).all fun g => !(s.dirByte (g * 65536)).getLsbD 6

/-- R322, R325: an outside access of n bytes at a key, with the bytes it writes. -/
def State.outsideAt (s : State) (key n : Nat) (l : Option (List Byte)) : State :=
  let s1 := ((granules key n).foldl (fun s g => s.predOther 0xFFFF g) (s.memCorrect key n)).clearSyncAt (span key n)
  match l with
  | none => s1
  | some l => (s1.agentWrite (cellsAt key l)).clearRaceAt (span key n)

/-- R423: an error response to the host is logged. -/
def State.hostError (s : State) (pa kind : Nat) : State :=
  s.collect { type := 5, die := 8, place := 0, time := s.timeOf 8, payload := leBytes 8 pa ++ leBytes 1 kind }

/-- The event HOST_DIRECT_ACCESS: kind 0 read, 1 write, 2 add, 3 exch, 4 compare-exchange; any other atomic is an error. -/
def execHostDirectAccess (pa : Nat) (kind : BitVec 3) (wide : Bool) (data : List Byte) (cmp : DWord) (s : State) : Host.Outcome State Fault Refusal :=
  let n := if kind.toNat ≤ 1 then data.length else if wide then 8 else 4
  if s.dev.stage != 3 then .next s
  else if kind.toNat > 4 || !s.outsideOk pa n || (kind.toNat ≥ 2 && pa % n != 0) then .next (s.hostError pa kind.toNat)
  else if kind == 0 then .next (s.outsideAt pa n none)
  else if kind == 1 then .next (s.outsideAt pa n (some data))
  else
    let op := if kind == 2 then 0 else if kind == 3 then 6 else 8
    let et := if wide then 3 else 1
    let x : DWord := BitVec.ofNat 64 (leNat (data.take n))
    let m : DWord := BitVec.ofNat 64 (leNat (s.bytesAt pa n))
    .next (s.outsideAt pa n (some (leBytes n (atomNew op et 0 false m (if op == 8 then elemMask et cmp else x) x).toNat)))

/-- The event APERTURE_ACCESS of the host or a peer: reads leave nothing; writes go block by block. -/
def execApertureAccess (_host : Bool) (win off : Nat) (write : Bool) (len : Nat) (data : List Byte) (s : State) : Host.Outcome State Fault Refusal :=
  let n := if write then data.length else len
  if s.dev.stage != 3 || !s.windowOk win off n || s.windowBusy win (span off n) then .next s
  else if write then .next ((s.windowWrite none win (cellsAt off data)).1.clearRaceAt (span (windowPa win off) n))
  else .next ((span (off / 8) ((off + n + 7) / 8 - off / 8)).foldl (fun s p => s.windowFix win (8 * p)) s)

/-- The event HOST_LINE_INVALIDATION: the companion processor writes host memory, and no device copy stays (R228); a host write
clears the writers of race records (R322). -/
def execHostLineInvalidation (pa : Nat) (data : List Byte) (s : State) : Host.Outcome State Fault Refusal :=
  let key := hostBit + pa
  let lines := granules key data.length
  let t := (s.agentWrite (cellsAt key data)).clearRaceAt (span key data.length)
  .next { t with cores := t.cores.map fun c =>
    (c.1, { c.2 with l1 := c.2.l1.filter fun g => !lines.contains g, l1Old := c.2.l1Old.filter fun o => !lines.contains (o.1 / 128) }) }

/-! ### The fabric (R425, R427) -/

/-- R300, R427: the log entry of a peer's atomic whose response is lost: the requester's own fields are the peer's to know (log 21). -/
def State.peerLog (s : State) (op et : Nat) (m new : DWord) : List Byte :=
  leBytes 8 (s.free 0).toNat ++ leBytes 8 (s.free 1).toNat ++ leBytes 4 (s.free 2).toNat ++ leBytes 4 (s.free 3).toNat ++ leBytes 2 (s.free 4).toNat ++
  leBytes 1 (s.free 5).toNat ++ leBytes 1 op ++ leBytes 1 et ++ leBytes 3 0 ++ leBytes 8 m.toNat ++ leBytes 8 new.toNat

/-- The event PEER_REQUEST: kind 0 read, 1 write, 2 to 10 the atomics of R294 with operation kind − 2, 11 a `waitge` for the target cmp: it
takes a monitor where one is free, and where none is its device asks again (R303).  An atomic's response may be lost, at a free choice. -/
def execPeerRequest (pa : Nat) (kind : BitVec 4) (mode : Word) (data : List Byte) (cmp : DWord) (s : State) : Host.Outcome State Fault Refusal :=
  let k := kind.toNat
  let et := modeET mode
  let n := if k ≤ 1 then data.length else if k == 11 then 8 else etBytes et
  if s.dev.stage != 3 || !s.outsideOk pa n || k > 11 || (k ≥ 2 && pa % n != 0) || (2 ≤ k && k ≤ 10 && !atomType (k - 2) et) then .next s
  else if k == 0 then .next (s.outsideAt pa n none)
  else if k == 11 then
    let t := s.outsideAt pa n none
    let m : Monitor := { b := 0, w := 0, armB := false, key := pa, line := pa / 128, home := t.lineSlice pa, peer := some cmp }
    .next (if t.monitorHolds m || t.monitorsFull m.home then t else { t with monitors := t.monitors ++ [m] })
  else if k == 1 then .next (s.outsideAt pa n (some data))
  else
    let x : DWord := BitVec.ofNat 64 (leNat (data.take n))
    let m : DWord := BitVec.ofNat 64 (leNat (s.bytesAt pa n))
    let new := atomNew (k - 2) et (modeRM mode) (modeFZ mode) m (if k == 10 then elemMask et cmp else x) x
    let t := s.outsideAt pa n (some (leBytes n new.toNat))
    .next (if s.pick 45 % 2 == 0 then t else t.logAtom (t.lineSlice pa) (t.peerLog (k - 2) et m new))

/-- R427: a request to a peer fails: the lane's result stays as it is, and the wave gets its report. -/
def State.failPeer (s : State) (q : PeerReq) : State :=
  let t := { s with peerReqs := s.peerReqs.filter fun r => r.id != q.id }
  let more := t.peerReqs.any fun r => r.res == q.res
  let t1 := if q.kind == 1 then t else t.modResult q.b q.w q.res fun r =>
    { r with eff := { r.eff with v := r.eff.v.filter (fun x => x.1 % 1024 != q.lane), k := [] }
             kind := if more then r.kind else (match r.kind with | .peer _ => .plain | k => k) }
  t1.peerFailed q (if q.kind == 2 then 24 else 21, 0)

/-- The event PEER_RESPONSE_TIMEOUT of the i-th request. -/
def execPeerResponseTimeout (i : Nat) (s : State) : Host.Outcome State Fault Refusal :=
  match s.peerReqs[i]? with
  | none => .next s
  | some q => .next (s.failPeer q)

/-- R425, R427: the arms that wait in a `waitge` on a line of a peer behind a port. -/
def State.waitsOver (s : State) (port : Nat) : List Cursor :=
  (s.monitors.filter fun m => m.peer.isNone && decide (m.key ≥ peerBit) && Config.fabricPort (m.key / peerBit - 1) == port).map fun m =>
    { b := m.b, w := m.w, armB := m.armB }
/-- R427: such a wait fails without a response: the arm goes on with a deferred fault (log 21). -/
def State.failWait (s : State) (u : Cursor) : State :=
  ({ s with monitors := s.monitors.filter fun m => !m.waits u }.modArm u fun a => { a with st := .ready, reason := 0, waited := 0 }).reportAt
    u.b u.w 21 0 (s.waitVa u) ((s.arm u).pc - 8)
/-- The event FABRIC_LINK_DOWN: contexts with a request or a wait over the port get a record, whose cause R425 leaves open; these fail. -/
def execFabricLinkDown (port : Nat) (s : State) : Host.Outcome State Fault Refusal :=
  if port ≥ 16 then .next s else
  let overs := s.peerReqs.filter fun q => Config.fabricPort q.dev == port
  let waits := s.waitsOver port
  let xs := (overs.map (·.b) ++ waits.map (·.b)).map (fun b => (s.launch (s.block b).launch).ctx) |>.foldl (fun l x => if l.contains x then l else l ++ [x]) []
  let t := (s.modDev fun d => { d with linksDown := if d.linksDown.contains port then d.linksDown else port :: d.linksDown }).collect
    { type := 6, die := 8, place := port, time := s.timeOf 8, payload := [] }
  .next (waits.foldl State.failWait (overs.foldl State.failPeer (xs.foldl (fun t x => t.post x { cause := (s.free 0).toNat % 32, nowave := true }) t)))

/-! ### Set-up (R424 to R428) -/

/-- R424: a window's descriptor is legal. -/
def windowLegal (w0 w1 w2 w3 : DWord) : Bool :=
  w0 >>> 56 == 0 && w1 &&& 0x7FEC000000000000#64 == 0 && w2 >>> 52 == 0 && w3 >>> 56 == 0 &&
  2 ≤ (w1.extractLsb' 48 2).toNat && (w1.extractLsb' 0 48).toNat ≤ 2 ^ 40 &&
  bufOk [w0, w1 &&& 0x0013FFFFFFFFFFFF#64, ((w2.extractLsb' 48 4).setWidth 64 <<< 24) ||| 0x909#64, w3, w2 &&& 0xFFFFFFFFFFFF#64]

/-- The event APERTURE_WINDOW_SET; a window is taken out of use by VALID = 0. -/
def execApertureWindowSet (win : Nat) (w0 w1 w2 w3 : DWord) (s : State) : Host.Outcome State Fault Refusal :=
  s.setup (win < 64 && (windowLegal w0 w1 w2 w3 || [w0, w1, w2, w3].all (· == 0)))
    (s.modDev fun d => { d with windows := sset [] d.windows win (if w1.getLsbD 63 then [w0, w1, w2, w3] else []) })

/-- The event DEVICE_NUMBER_SET. -/
def execDeviceNumberSet (n : Nat) (s : State) : Host.Outcome State Fault Refusal :=
  s.setup (n < 2 ^ 20)
    (s.modDev fun d => { d with number := n })

/-- The event DEVICE_GROUP_REGISTER. -/
def execDeviceGroupRegister (group : Nat) (members : List Nat) (s : State) : Host.Outcome State Fault Refusal :=
  s.setup (group < 2 ^ 32 && 1 ≤ members.length && members.length ≤ 1048576 && members.all (· < 2 ^ 20) && members.contains s.dev.number &&
      (s.dev.groups.length < 64 || shas s.dev.groups group))
    (s.modDev fun d => { d with groups := sset [] d.groups group members })

/-- The event IMPORT_WINDOW_SET. -/
def execImportWindowSet (i size dev peerPa : Nat) (s : State) : Host.Outcome State Fault Refusal :=
  s.setup (i < 64 && size ≤ 2 ^ 40 && dev < 2 ^ 20)
    (s.modDev fun d => { d with imports := sset { size := 0, dev := 0, peerPa := 0 } d.imports i { size := size, dev := dev, peerPa := peerPa } })

/-- R428: a collective's descriptor, from its eight words. -/
def collOf (w : List DWord) : Coll :=
  { result := w.getD 0 0, nblk := ((w.getD 1 0).extractLsb' 0 32).toNat, fmt := ((w.getD 1 0).extractLsb' 32 8).toNat
    group := ((w.getD 2 0).extractLsb' 0 32).toNat, expect := ((w.getD 2 0).extractLsb' 32 32).toNat, caddr := w.getD 3 0, cinc := w.getD 4 0 }

/-- The event COLLECTIVE_REGISTER. -/
def execCollectiveRegister (x coll : Nat) (words : List DWord) (s : State) : Host.Outcome State Fault Refusal :=
  let c := collOf words
  s.setup ((s.ctx x).live && coll < 256 && words.length == 8 && (words.getD 1 0) >>> 40 == 0 && (words.drop 5).all (· == 0) &&
      canonical c.result && (c.fmt == 8 || c.fmt == 10 || c.fmt == 11) && c.result.toNat % etBytes c.fmt == 0 &&
      1 ≤ c.nblk && c.nblk ≤ 2 ^ 24 && shas s.dev.groups c.group && 1 ≤ c.expect && canonical c.caddr && c.caddr.toNat % 8 == 0)
    (s.modCtx x fun k => { k with colls := sset { result := 0, nblk := 0, fmt := 0, group := 0, expect := 0, caddr := 0, cinc := 0 } k.colls coll c })

end Sys2Proof.Machine
end

