-- ==== Sys2Proof/Machine/Power.lean ====
section
/-! DEFINITION. Bring-up, the management mailbox and registers, temperature, operating points, package power, and fatal errors with
their dump (R436 to R448, R463, R464). -/
namespace Sys2Proof.Machine

/-! ### Host memory and the mailbox (R436, R441) -/

/-- Host memory bytes that firmware reads; none beyond the 56-bit host physical space. -/
def State.hostGet (s : State) (pa n : Nat) : Option (List Byte) := if pa + n ≤ 2 ^ 56 then some (s.bytesAt (hostBit + pa) n) else none
/-- Bytes that firmware writes into host memory. -/
def State.hostPut (s : State) (pa : Nat) (l : List Byte) : Option State :=
  if pa + l.length ≤ 2 ^ 56 then some ((s.putBytes none (cellsAt (hostBit + pa) l)).clearSyncAt (span (hostBit + pa) l.length)) else none

/-- R441: the command with this number waits for its turn; one in progress is not it. -/
def State.waits (s : State) (cmd : Nat) : Bool :=
  s.dev.powered && s.dev.mbSeq != s.dev.mbDone && s.dev.mbCmd.toNat == cmd && (s.dev.job.map (·.seq)) != some s.dev.mbSeq
/-- R438, R441: the waiting mailbox command where it is the one with this number and none is in progress: BUSY in a stage that does not serve
it, 1 where its argument block cannot be read or an argument is refused, else what serve answers. -/
def State.mailbox (s : State) (cmd : Nat) (stages : List Nat) (serve : List Byte → Option State) : State :=
  if !s.waits cmd || s.dev.job.isSome then s
  else if !stages.contains s.dev.stage then s.answer 2
  else
    match (s.hostGet s.dev.mbArg.toNat 64).bind serve with
    | some t => t.answer 0
    | none => s.answer 1

/-- R441: the assigned mailbox commands. -/
def mailboxAssigned (n : Nat) : Bool := (1 ≤ n && n ≤ 5) || (16 ≤ n && n ≤ 31)

/-- The event STATUS: it changes nothing but the mailbox; a command whose number is unassigned gets MBRESULT 3 here. -/
def execStatus (s : State) : Host.Outcome State Fault Refusal :=
  if !s.dev.powered || s.dev.mbSeq == s.dev.mbDone || s.dev.job.isSome then .next s
  else if !mailboxAssigned s.dev.mbCmd.toNat then .next (s.answer 3)
  else if s.dev.mbCmd == 1 then .next (s.answer 0)
  else .next s

/-- R446: a PCTL value that is not refused; its reserved bits are ignored (R8). -/
def pctlLegal (v : DWord) : Bool :=
  let cap := (v.extractLsb' 0 16).toNat
  let tgt := (v.extractLsb' 16 16).toNat
  1000 ≤ cap && cap ≤ 4000 && (tgt == 0 || (1000 ≤ tgt && tgt ≤ cap))

/-- R446: the fields of PCTL that can be written. -/
def pctlMask : DWord := 0x00000001FFFFFFFF#64
/-- R443: a THR value that is not refused. -/
def thrLegal (v : DWord) : Bool :=
  (v.extractLsb' 0 16).toInt < (v.extractLsb' 16 16).toInt && (v.extractLsb' 16 16).toInt < (v.extractLsb' 32 16).toInt &&
  (v.extractLsb' 32 16).toInt ≤ 0x1F4

/-- R7, R437: a host write to DEVSTAT: DUMP is W1C, the rest is read-only. -/
def State.devstatWrite (s : State) (v : DWord) : State := if v.getLsbD 27 then s.modDev fun d => { d with dump := false } else s
/-- R7, R443: a host write to THR of a die: WARNED and THROTTLED are W1C, the thresholds take a value that SET_THR would, those of
a die that is fused off too (log 40). -/
def State.thrWrite (s : State) (die : Nat) (v : DWord) : State :=
  let kept := s.thrOf die &&& ~~~(v &&& 0x0003000000000000#64)
  let new := if thrLegal v then (kept &&& 0x0003000000000000#64) ||| (v &&& 0xFFFFFFFFFFFF#64) else kept
  s.modDev fun d => { d with thr := sset thrReset d.thr die new }

/-- R7, R436: the event MANAGEMENT_REGISTER_WRITE: MBSEQ, MBCMD and MBARG hold what is written, PCTL takes a value that SET_POWER would
(log 40), DEVSTAT and THR follow their own rules; every other offset ignores it. -/
def execManagementRegisterWrite (off : Nat) (v : DWord) (s : State) : Host.Outcome State Fault Refusal :=
  .next (if !s.dev.powered then s
    else if off == 0 then s.devstatWrite v
    else if off == 0x100 then s.modDev fun d => { d with mbSeq := v }
    else if off == 0x110 then s.modDev fun d => { d with mbCmd := v }
    else if off == 0x118 then s.modDev fun d => { d with mbArg := v }
    else if 0x2000 ≤ off && off < 0x2240 && off % 64 == 0 then s.thrWrite ((off - 0x2000) / 64) v
    else if off == 0x3000 && pctlLegal v then s.modDev fun d => { d with pctl := v &&& pctlMask }
    else s)

/-- The event of a host write to DEVSTAT. -/
def execDevstatWrite (v : DWord) (s : State) : Host.Outcome State Fault Refusal := .next (if s.dev.powered then s.devstatWrite v else s)

/-- The event of a host write to THR of a die. -/
def execThrWrite (die : Nat) (v : DWord) (s : State) : Host.Outcome State Fault Refusal :=
  .next (if s.dev.powered && die ≤ 8 then s.thrWrite die v else s)

/-- R437: what DEVSTAT reads. -/
def State.devstat (s : State) : DWord :=
  BitVec.ofNat 64 (bit s.dev.dump 27 + s.hostDie % 8 * 2 ^ 24 + s.dev.dieEn.toNat * 2 ^ 16 + s.dev.failCode.toNat * 256 + s.dev.stage % 4)

/-- R442: what a sensor register reads. -/
def State.sensorReg (s : State) (unit i : Nat) : DWord :=
  let x := sget (false, (0 : Half)) s.dev.sensors (unit * 32 + i)
  BitVec.ofNat 64 (bit x.1 16 + x.2.toNat)

/-- R436: what a management register reads.  The THR of a die that is fused off (R3) reads as any other, and its Tj counts as CRIT in the dump:
the spec gives neither (log 40). -/
def State.mgmtRead (s : State) (off : Nat) : DWord :=
  if off % 8 != 0 then 0
  else if off == 0 then s.devstat
  else if off == 0x100 then s.dev.mbSeq
  else if off == 0x108 then s.dev.mbDone
  else if off == 0x110 then s.dev.mbCmd
  else if off == 0x118 then s.dev.mbArg
  else if off == 0x120 then s.dev.mbResult
  else if 0x1000 ≤ off && off < 0x1800 && off % 256 < 128 then s.sensorReg ((off - 0x1000) / 256) (off % 256 / 8)
  else if 0x1800 ≤ off && off < 0x1820 then s.sensorReg 8 (off % 256 / 8)
  else if 0x1900 ≤ off && off < 0x1980 then s.sensorReg 9 (off % 256 / 8)
  else if 0x2000 ≤ off && off < 0x2240 && off % 64 == 0 then s.thrOf ((off - 0x2000) / 64)
  else if off == 0x3000 then s.dev.pctl
  else if off == 0x3008 then s.dev.pmeas
  else if 0x3100 ≤ off && off < 0x3180 then
    BitVec.ofNat 64 ((600 + 25 * ((off - 0x3100) / 8)) * 65536 + (400 + 80 * ((off - 0x3100) / 8)))
  else 0

/-! ### Stages (R438 to R440) -/

/-- What a stop of the dies and stacks leaves: host memory, the control die, time, and the model's own fields. -/
def State.stopAll (s : State) : State :=
  { State.reset with
    mem := s.mem.filter fun x => hostBit ≤ x.1, dev := { s.dev with homeDir := [], point := [], granted := [], unstable := [], capped := [] }
    clk := s.clk, raw := s.raw, ticks := s.ticks, nextId := s.nextId, freeCount := s.freeCount, agenda := s.agenda }

/-- R438: a start stops: every compute die and every stack, with what a dump left there, is powered down, STAGE is 0 (log 29). -/
def State.failStart (s : State) (code : Nat) : State :=
  s.stopAll.modDev fun d => { d with stage := 0, failCode := BitVec.ofNat 8 code, dumpMem := [] }

/-- R439: a byte of the image slot. -/
def State.imageByte (s : State) (i : Nat) : Byte := sget 0 s.dev.slot i
def State.imageBytes (s : State) (o n : Nat) : List Byte := (span o n).map s.imageByte

/-- R439 step 1: the header's magic, BODYLEN and reserved bytes. -/
def State.imageHeaderOk (s : State) : Bool :=
  let n := leNat (s.imageBytes 8 8)
  s.imageBytes 0 4 == [0x49#8, 0x4B#8, 0x46#8, 0x57#8] && 1 ≤ n && n ≤ 2 ^ 26 - 256 &&
  s.dev.slot.all fun x => !(144 ≤ x.1 && x.1 < 256) && x.1 < 256 + n

/-- R439: what ROM makes of the slot: 0, or the FAILCODE. -/
def State.imageCode (s : State) : Nat :=
  if s.dev.slot.isEmpty then 1
  else if !s.imageHeaderOk then 2
  else if sm3 (s.imageBytes 16 64) != Config.keyHash then 3
  else if !sm2Valid (s.imageBytes 16 64) (s.imageBytes 80 64) (s.imageBytes 0 80 ++ s.imageBytes 256 (leNat (s.imageBytes 8 8))) then 4
  else 0

/-- R438: ROM looks at the slot in stage 0, and begins stage 1 where it finds an image. -/
def State.romStart (s : State) : State :=
  if s.dev.slot.isEmpty then s.failStart 1 else s.modDev fun d => { d with stage := 1, failCode := 0 }
/-- R438, R439: ROM's authentication in stage 1 ends: an image that passes runs in stage 2. -/
def State.authenticate (s : State) : State :=
  if s.dev.stage != 1 then s
  else if s.imageCode == 0 then s.modDev fun d => { d with stage := 2 }
  else s.failStart s.imageCode

/-- R438, R463: without power only fuses, flash and the host's memory stay. -/
def State.unpower (s : State) : State :=
  { s.stopAll with dev := { dieEn := s.dev.dieEn, slot := s.dev.slot, powered := false }, clk := 0, raw := 0 }

/-- The event POWER_GOOD. -/
def execPowerGood (s : State) : Host.Outcome State Fault Refusal :=
  .next (s.unpower.modDev fun d => { d with powered := true }).romStart

/-- The event POWER_REMOVAL. -/
def execPowerRemoval (s : State) : Host.Outcome State Fault Refusal := .next s.unpower

/-- R277, R438: every array bank of a die is calibrated. -/
def State.calibrateDie (s : State) (die : Nat) : State :=
  (List.range 64).foldl (fun t c => (List.range 8).foldl (fun t i => t.calibrate (die * 64 + c) i) t) s

/-- The event STAGE3_ENTRY: the compute dies come up in increasing number, their banks are calibrated, and stage 3 begins. -/
def execStage3Entry (s : State) : Host.Outcome State Fault Refusal :=
  if s.dev.powered && s.dev.stage == 2 then
    .next ((s.dies.foldl (fun t d => (t.resetDie d).calibrateDie d) s).modDev fun d => { d with stage := 3 })
  else .next s

/-- The event STAGE2_FAILURE: FAILCODE 5, 6 or 7; MBRESULT names the stacks or the dies. -/
def execStage2Failure (code mask : Nat) (s : State) : Host.Outcome State Fault Refusal :=
  if s.dev.stage == 2 && 5 ≤ code && code ≤ 7 then
    let t := s.failStart code
    .next (if code == 5 then t.modDev fun d => { d with mbResult := BitVec.ofNat 64 (d.mbResult.toNat / 2 ^ 16 * 2 ^ 16 + mask % 2 ^ 16) }
      else if code == 6 then t.modDev fun d => { d with mbResult := BitVec.ofNat 64 (d.mbResult.toNat / 2 ^ 8 * 2 ^ 8 + mask % 2 ^ 8) }
      else t)
  else .next s

/-- R440: IMAGE_WRITE in stage 0: source address, slot offset, length.  Where the start had stopped at an empty slot, ROM looks again. -/
def State.imageWrite (s : State) (a : List Byte) : Option State :=
  if field a 8 8 + field a 16 8 ≤ 2 ^ 26 then
    (s.hostGet (field a 0 8) (field a 16 8)).map fun l =>
      let t := s.modDev fun d => { d with slot := ssetAll (0 : Byte) d.slot (cellsAt (field a 8 8) l) }
      if !t.dev.hold && t.dev.failCode == 1 then t.romStart else t
  else none

/-- R440, R441: the command in progress is done: its answer, where no later command has been answered since. -/
def State.answerJob (s : State) (j : Job) : State :=
  s.modDev fun d => if d.mbDone == d.mbSeq then { d with job := none } else { d with job := none, mbResult := 0, mbDone := j.seq }
/-- R440, R441: a command that takes its time begins where its arguments are good; else it is refused. -/
def State.begin (s : State) (cmd : Nat) (good : List Byte → Bool) : State :=
  match s.hostGet s.dev.mbArg.toNat 64 with
  | some a => if good a then s.modDev fun d => { d with job := some { cmd := cmd, seq := d.mbSeq, args := a } } else s.answer 1
  | none => s.answer 1
/-- The event IMAGE_WRITE: one that waits is BUSY in stages 1 to 3 and while another command is in progress, and begins otherwise; the one in
progress is then done (R440). -/
def execImageWrite (s : State) : Host.Outcome State Fault Refusal :=
  .next (if s.waits 2 then
      (if s.dev.stage != 0 || s.dev.job.isSome then s.answer 2 else s.begin 2 fun a => (s.imageWrite a).isSome)
    else match s.dev.job with
      | some j => if j.cmd == 2 then ((s.imageWrite j.args).getD s).answerJob j else s
      | none => s)

/-- R440: the launches that have not completed. -/
def State.openLaunches (s : State) : List Nat := (List.range s.launches.length).filter fun l => !(s.launch l).done

/-- R440: a RESTART's argument block without a reserved bit. -/
def restartOk (a : List Byte) : Bool := field a 0 1 / 2 == 0 && (a.drop 1).all (· == 0)
/-- R440: RESTART returns the device to stage 0. -/
def State.restart (s : State) (j : Job) : State :=
  s.stopAll.modDev fun d =>
    { d with stage := 0, failCode := 0, hold := field j.args 0 1 == 1, dumpMem := if s.dev.dump then d.dumpMem else [], job := some { j with stopped := true } }
/-- R440: the next step of a RESTART in progress: in stage 3 every launch ends first, as END_LAUNCH would end it, and once they have completed
the device goes to stage 0; there, unless HOLD, ROM looks at the slot, and the command is done. -/
def State.goRestart (s : State) (j : Job) : State :=
  if j.stopped then (if s.dev.hold then s else s.romStart).answerJob j
  else if s.dev.stage == 3 && !s.openLaunches.isEmpty then s.openLaunches.foldl (fun u l => if (u.launch l).ended then u else u.endLaunch l) s
  else s.restart j

/-- The event RESTART: one that waits begins where no command is in progress; one in progress goes on. -/
def execRestart (s : State) : Host.Outcome State Fault Refusal :=
  let t := if s.waits 3 && s.dev.job.isNone then s.begin 3 restartOk else s
  .next (match t.dev.job with
    | some j => if j.cmd == 3 then t.goRestart j else t
    | none => t)

/-- R443: SET_THR: the die, then the value; the flags stay. -/
def State.setThr (s : State) (a : List Byte) : Option State :=
  let v : DWord := BitVec.ofNat 64 (field a 8 8)
  let die := field a 0 8
  if die ≤ 8 && (die == 8 || s.dev.dieEn.getLsbD die) && thrLegal v then
    some (s.modDev fun d => { d with thr := sset thrReset d.thr die ((s.thrOf die &&& 0x0003000000000000#64) ||| (v &&& 0xFFFFFFFFFFFF#64)) })
  else none

def execSetThr (s : State) : Host.Outcome State Fault Refusal := .next (s.mailbox 4 [0, 1, 2, 3] s.setThr)

def State.setPower (s : State) (a : List Byte) : Option State :=
  if pctlLegal (BitVec.ofNat 64 (field a 0 8)) then some (s.modDev fun d => { d with pctl := BitVec.ofNat 64 (field a 0 8) &&& pctlMask }) else none

def execSetPower (s : State) : Host.Outcome State Fault Refusal := .next (s.mailbox 5 [3] s.setPower)

/-! ### The dump (R459, R464) -/

/-- R459: a collector record's 64 bytes. -/
def CollRec.bytes (r : CollRec) : List Byte :=
  padTo 64 (leBytes 2 r.type ++ leBytes 1 r.die ++ leBytes 1 0 ++ leBytes 4 r.place ++ leBytes 8 r.time.toNat ++ r.payload)
/-- R459: the records, oldest first; dropped events are counted in one TYPE 7 record at the end. -/
def State.collectorAll (s : State) : List CollRec :=
  s.dev.collector ++ (if s.dev.dropped == 0 then [] else [{ type := 7, die := 8, place := 0, time := s.timeOf 8, payload := leBytes 8 s.dev.dropped }])

/-- A field of n bytes in a context's memory; 0 where it cannot be read. -/
def State.peek (s : State) (c : Context) (va : DWord) (n : Nat) : Nat := match s.ctxLoad c va n with | .ok l => leNat l | .error _ => 0

/-- R464: a context summary. -/
def State.ctxSummary (s : State) (c : Context) : List Byte :=
  padTo 128 (leBytes 4 c.number ++ leBytes 4 (s.peek c (c.ccb + 16) 8) ++ leBytes 4 (s.peek c (c.ccb + 24) 8) ++ leBytes 4 0 ++
    ((List.range 16).map fun q =>
      leBytes 2 (s.peek c (c.ccb + BitVec.ofNat 64 (1040 + 64 * q)) 8) ++ leBytes 2 (s.peek c (c.ccb + BitVec.ofNat 64 (1048 + 64 * q)) 8)).flatten)

/-- R464: a wave summary. -/
def State.waveSummary (s : State) (b w : Nat) : List Byte :=
  let k := s.block b
  let v := s.wave b w
  padTo 64 (leBytes 4 (s.ctx (s.launch k.launch).ctx).number ++ leBytes 4 (s.launch k.launch).seq.toNat ++
    leBytes 4 (s.gang k.launch k.gang).number ++ leBytes 1 k.index ++ leBytes 1 w ++ leBytes 1 v.stateCode ++ leBytes 1 0 ++
    leBytes 8 (v.a.nextPc.toNat % 2 ^ 57) ++ leBytes 8 v.fault0.toNat ++ leBytes 8 v.fault1.toNat ++ leBytes 4 (s.idOf b w))

/-- R464: Tj, flags and point of a die. -/
def State.dieSummary (s : State) (die : Nat) : List Byte :=
  padTo 8 (leBytes 2 (BitVec.ofInt 16 (s.tj die)).toNat ++ leBytes 1 ((s.thrOf die).extractLsb' 48 2).toNat ++
    leBytes 1 (if die < 8 then s.pointOf die else 0))

/-- R464: the dump. -/
def State.dumpBytes (s : State) (cause die : Nat) : List Byte :=
  let coll := s.collectorAll.map CollRec.bytes
  let ctxs := (s.ctxs.filter fun c => c.live).map s.ctxSummary
  let waves := ((List.range s.blocks.length).map fun b =>
    if (s.block b).st == .done then [] else (List.range (s.block b).waves.length).map (s.waveSummary b)).flatten
  let logs := s.atomLog.map fun x => padTo 48 x.bytes
  let secs := [coll, ctxs, waves, logs]
  let sized := secs.map fun x => (x.length, section128 x.flatten)
  let entries := (sized.foldl (fun (a : Nat × List Byte) x =>
    (a.1 + x.2.length, a.2 ++ leBytes 8 (if x.1 == 0 then 0 else a.1 + x.1 * 2 ^ 32))) (4096, [])).2
  let body := (sized.map fun x => x.2).flatten
  padTo 4096 ([0x49#8, 0x4B#8, 0x44#8, 0x4D#8] ++ leBytes 4 1 ++ leBytes 8 (4096 + body.length) ++ leBytes 4 cause ++ leBytes 1 die ++
    leBytes 1 s.dev.stage ++ leBytes 1 s.dev.dieEn.toNat ++ leBytes 1 0 ++ leBytes 8 (s.timeOf 8).toNat ++
    ((List.range 9).map s.dieSummary).flatten ++ entries) ++ body

/-! ### Fatal errors (R443, R463) -/

/-- The reading of an HBM stack, where it is valid. -/
def State.stackTemp (s : State) (k : Nat) : Option Int :=
  let x := sget (false, (0 : Half)) s.dev.sensors (9 * 32 + k)
  if x.1 then some x.2.toInt else none
def State.critOf (s : State) (die : Nat) : Int := ((s.thrOf die).extractLsb' 32 16).toInt
/-- R443: a stack has reached its own die's CRIT. -/
def State.stackHot (s : State) (k : Nat) : Bool := match s.stackTemp k with | some t => decide (t ≥ s.critOf (k / 2)) | none => false

/-- R443, R463: a fatal error; cause 1 CRIT, 2 control-die state, 3 firmware. -/
def State.fatal (s : State) (cause die : Nat) : State :=
  let code := if cause == 1 then 8 else 0
  let kept := s.dev.stage != 3 || !s.stackHot (2 * s.hostDie)
  let new := s.dev.stage == 3 && kept
  s.stopAll.modDev fun d =>
    { d with stage := 0, failCode := BitVec.ofNat 8 code, dump := s.dev.dump || new
             dumpMem := if new then s.dumpBytes cause die else if kept && s.dev.dump then d.dumpMem else [] }

/-- R3: a die that the part has; 8 is the control die. -/
def State.managed (s : State) (die : Nat) : Bool := die == 8 || (die < 8 && s.dev.dieEn.getLsbD die)
/-- R443: a die, or a stack of it, is at its CRIT. -/
def State.dieHot (s : State) (die : Nat) : Bool :=
  s.tj die ≥ s.critOf die || (die < 8 && (s.stackHot (2 * die) || s.stackHot (2 * die + 1)))

/-- The event FATAL_ERROR. -/
def execFatalError (cause die : Nat) (s : State) : Host.Outcome State Fault Refusal :=
  if s.dev.powered && s.managed die && (cause == 2 || cause == 3 || (cause == 1 && s.dieHot die)) then .next (s.fatal cause die) else .next s

/-! ### Temperature (R442 to R444) -/

/-- R442: a sensor that the part has: dies 0 to 7, the control die 8, the stacks 9. -/
def State.sensorThere (s : State) (unit i : Nat) : Bool :=
  if unit < 8 then s.dev.dieEn.getLsbD unit && i < 16 else if unit == 8 then i < 4 else unit == 9 && i < 16 && s.dev.dieEn.getLsbD (i / 2)

/-- R444: the lower bounds of the bands 1, 2 and 3, in 0.25 °C. -/
def bandBound (n : Nat) : Int := [0, 340, 380, 420].getD n 0
/-- R444: the refresh band of a stack after a reading. -/
def nextBand (old : Nat) (t : Int) : Nat :=
  let up := (List.range 4).foldl (fun a n => if n > a && t ≥ bandBound n - 4 then n else a) old
  if up > old then up else (List.range 3).foldl (fun a n => if a == 3 - n && t ≤ bandBound a - 12 then a - 1 else a) old

/-- R443: WARNED and THROTTLED of a die by its Tj. -/
def State.warn (s : State) (die : Nat) : State :=
  let v := s.thrOf die
  let w := bit (s.tj die ≥ (v.extractLsb' 0 16).toInt) 48 + bit (s.tj die ≥ (v.extractLsb' 16 16).toInt) 49
  s.modDev fun d => { d with thr := sset thrReset d.thr die (v ||| BitVec.ofNat 64 w) }

/-- R443: a control die that has cooled to THROTTLE − 8 holds no die down any more. -/
def State.cooled (s : State) (die : Nat) : State := if die == 8 && !s.warm 8 then s.modDev fun d => { d with ctlThrottled := false } else s
/-- R443: the responses to a die's Tj. -/
def State.thermal (s : State) (die : Nat) : State :=
  let t := (s.warn die).cooled die
  if t.dieHot die then t.fatal 1 die else t

/-- R275: the highest temperature reported during each granted array entry of a die. -/
def State.arbHeat (s : State) (die : Nat) : State :=
  { s with cores := s.cores.map fun c =>
      if c.1 / 64 == die then (c.1, { c.2 with arb := c.2.arb.map fun x => { x with hot := max x.hot (s.tj die) } }) else c }
/-- The event SENSOR_READING. -/
def execSensorReading (unit i : Nat) (temp : Half) (s : State) : Host.Outcome State Fault Refusal :=
  if !s.dev.powered || !s.sensorThere unit i then .next s
  else
    let t := s.modDev fun d => { d with sensors := sset (false, (0 : Half)) d.sensors (unit * 32 + i) (true, temp) }
    if unit == 9 then
      let t1 := (t.feedTo (fun _ => true) 4 (16 + i) [temp.toInt]).modDev fun d => { d with refresh := sset 0 d.refresh i (nextBand (sget 0 d.refresh i) temp.toInt) }
      .next (if t1.stackHot i then t1.fatal 1 (i / 2) else t1)
    else .next (((t.feed unit 4 i [temp.toInt]).arbHeat unit).thermal unit)

/-- The event SENSOR_READING_STALE: VALID clears; a die without a valid sensor counts as being at its CRIT. -/
def execSensorReadingStale (unit i : Nat) (s : State) : Host.Outcome State Fault Refusal :=
  let x := sget (false, (0 : Half)) s.dev.sensors (unit * 32 + i)
  if !x.1 then .next s
  else
    let t := s.modDev fun d => { d with sensors := sset (false, (0 : Half)) d.sensors (unit * 32 + i) (false, x.2) }
    .next (if unit == 9 then t else t.thermal unit)

/-- The compute dies that a throttle of a die reaches (R443). -/
def State.throttled (s : State) (die : Nat) : List Nat := if die == 8 then s.dies else [die]
/-- One index down, not below 1. -/
def State.pointDown (s : State) (die : Nat) : State := if s.pointOf die ≤ 1 then s else s.setPoint die (s.pointOf die - 1)
/-- One index up, not above the granted point, where the die is cool enough (R443). -/
def State.pointUp (s : State) (die : Nat) : State :=
  if s.pointOf die < s.grantedOf die && !s.keptDown die then s.setPoint die (s.pointOf die + 1) else s

/-- R443: a die is throttled: one index down, and THROTTLED is set. -/
def State.throttleDie (s : State) (die : Nat) : State :=
  (s.pointDown die).modDev fun d => { d with thr := sset thrReset d.thr die (s.thrOf die ||| 0x0002000000000000#64) }
/-- The event THROTTLE_STEP: 20 µs with Tj ≥ THROTTLE; of the control die, it throttles every compute die. -/
def execThrottleStep (die : Nat) (s : State) : Host.Outcome State Fault Refusal :=
  if s.managed die && s.tj die ≥ ((s.thrOf die).extractLsb' 16 16).toInt then
    let t := ((s.throttled die).foldl State.throttleDie s).breakBand
    .next (if die == 8 then t.modDev fun d => { d with ctlThrottled := true } else t)
  else .next s

/-- The event THROTTLE_RISE: 100 µs with Tj ≤ THROTTLE − 8; dies that the power cap lowered wait for R447. -/
def execThrottleRise (die : Nat) (s : State) : Host.Outcome State Fault Refusal :=
  if s.managed die then .next (((s.throttled die).filter fun d => !s.dev.capped.contains d).foldl State.pointUp s) else .next s

/-! ### Power (R446 to R448) -/

def State.pcap (s : State) : Nat := (s.dev.pctl.extractLsb' 0 16).toNat
def State.ptarget (s : State) : Nat := (s.dev.pctl.extractLsb' 16 16).toNat
def State.balancing (s : State) : Bool := s.dev.pctl.getLsbD 32 && s.ptarget != 0
/-- The placed gangs of level 0. -/
def State.ballastGangs (s : State) : List (Nat × Nat) :=
  ((List.range s.launches.length).map fun l =>
    if (s.launch l).priority != 0 then [] else ((List.range (s.launch l).gangs.length).filter fun g => (s.gang l g).st == .placed).map fun g => (l, g)).flatten
/-- R213, R446: Annatto has no ballast block placed, and a round, in which closed cores and what other candidates need count, would place none. -/
def State.ballastShort (s : State) : Bool := s.ballastGangs.isEmpty && s.placeRound.ballastGangs.isEmpty

/-- R447: the die that draws the most, by its sixteen rails. -/
def hungriest (dies : List Nat) (rails : List Int) : Nat :=
  let draw := fun d => ((rails.drop (16 * d)).take 16).foldl (· + ·) (0 : Int)
  dies.foldl (fun a d => if draw d > draw a then d else a) (dies.headD 0)

/-- R447: a ballast gang that is withdrawn, or can be: its stop is under way, or its record has room. -/
def State.leaving (s : State) (x : Nat × Nat) : Bool := (s.gang x.1 x.2).stopReq || (s.gangPlaces x.1 x.2).isSome

/-- The event POWER_MEASUREMENT, each 10 µs: package power of the sample and of the last 1 ms, the ballast's share, and the rails
(sixteen of each die in turn).  Ballast issues in the next 10 µs only while the 1 ms average is below PTARGET (R448, log 27). -/
def execPowerMeasurement (sample average ballast : Nat) (rails : List Int) (s : State) : Host.Outcome State Fault Refusal :=
  if !s.dev.powered then .next s
  else
    let tooMuch := average > s.pcap || sample > 4000
    let s1 := ((List.range rails.length).zip rails).foldl (fun t x => t.feed (x.1 / 16) 5 (x.1 % 16) [x.2]) s
    let s2 := if tooMuch then s1.ballastGangs.foldl (fun t x => t.requestStop x.1 x.2 false) s1 else s1
    let lapse := s.ballastShort || (tooMuch && !s.ballastGangs.isEmpty) || (s.balancing && sample > ballast + s.ptarget)
    let left := if lapse then 100 else s.dev.outOfBand
    let inBand := left == 0 && absDiff average s.ptarget * 50 ≤ s.ptarget
    .next (s2.modDev fun d =>
      { d with pmeas := BitVec.ofNat 64 (average % 65536 + ballast % 65536 * 65536 + bit inBand 32 + bit s.ballastShort 33)
               overCap := tooMuch, ballastStop := tooMuch, ballastGated := s.balancing && average ≥ s.ptarget, underCap := average * 100 ≤ s.pcap * 95, drawMost := hungriest s.dies rails
               outOfBand := left - 1 })

/-- The event POWER_CAP_STEP: the excess remains once all ballast that can be withdrawn is. -/
def execPowerCapStep (s : State) : Host.Outcome State Fault Refusal :=
  if s.dev.overCap && !s.ballastGangs.any s.leaving then
    let d := s.dev.drawMost
    .next ((s.pointDown d).modDev fun x => { x with capped := if x.capped.contains d then x.capped else d :: x.capped }).breakBand
  else .next s

/-- The event POWER_CAP_RESTORE. -/
def execPowerCapRestore (s : State) : Host.Outcome State Fault Refusal :=
  if s.dev.underCap then
    let t := s.dev.capped.foldl State.pointUp s
    .next (t.modDev fun d => { d with capped := d.capped.filter fun x => t.pointOf x < t.grantedOf x })
  else .next s

end Sys2Proof.Machine
end

