-- ==== Sys2Proof/Machine/Debug.lean ====
section
/-! DEFINITION. Breakpoints, the PC sampler, monitor units, the error collector, dump reads, and the recording and replay of atomics
(R449 to R464). -/
namespace Sys2Proof.Machine

/-! ### Breakpoints (R456) -/

/-- R456: a breakpoint word without reserved bits. -/
def bpOk (x : DWord) : Bool := x &&& 0xFE00000000000002#64 == 0
/-- R456: a breakpoint word is enabled and names the instruction at pc. -/
def bpHit (x pc : DWord) : Bool := x.getLsbD 0 && x.extractLsb' 2 55 == pc.extractLsb' 2 55
/-- R456: the breakpoint that stops an arm before it issues. -/
def State.breakpoint (s : State) (u : Cursor) : Option Nat :=
  let c := s.ctx (s.launch (s.block u.b).launch).ctx
  if c.debug && !(s.arm u).skipBp then (List.range c.bps.length).find? fun i => bpHit (c.bps.getD i 0) (s.arm u).pc else none

/-- The event BREAKPOINT_MATCH of the issuing arm: the wave halts before the instruction, which a RESUME issues without a match. -/
def execBreakpointMatch (s : State) : Host.Outcome State Fault Refusal :=
  match s.cur with
  | none => .next s
  | some u =>
    match s.breakpoint u with
    | none => .next s
    | some i =>
      let pc := (s.arm u).pc
      .next ((s.modArm u fun a => { a with skipBp := true }).enterTrap u
        { cause := 29, sub := 0, deferred := false, halts := true, pc := pc, info := BitVec.ofNat 64 (0x100 + i), atWord := 0, site := pc, seq := none })

/-- The live context with this number. -/
def State.ctxNumbered (s : State) (n : Nat) : Option Nat :=
  (List.range s.ctxs.length).find? fun x => (s.ctx x).live && (s.ctx x).number == n

/-- R450, R456: DEBUGSET. -/
def State.debugSet (s : State) (a : List Byte) : Option State :=
  let ws := dwordsAt a 8 4
  match s.ctxNumbered (field a 0 4) with
  | some x => if ws.all bpOk then some (s.modCtx x fun c => { c with debug := field a 4 1 % 2 == 1, bps := ws }) else none
  | none => none

def execDebugset (s : State) : Host.Outcome State Fault Refusal := .next (s.mailbox 27 [3] s.debugSet)

/-! ### The PC sampler (R451 to R454) -/

/-- R454: the codes that an arm's state gives. -/
def Wave.waitReason (v : Wave) (armB : Bool) : List Nat :=
  match (v.arm armB).st with
  | .ready => []
  | .parked => [if (v.arm armB).reason == 24 then 24 else if (v.recvPort armB).isSome then 16 else 4]
  | .stopped => [5]
  | .waitge _ _ _ _ => [14]
  | .fwait _ _ _ _ => [15]
  | .barw _ _ => [17]
  | .claim _ _ => [18]
  | .warp _ => [19]
  | .amode _ => [20]
  | .yield _ => [22]
  | .rehome _ => [21]
  | .trap _ => [24]

/-- R216, R454: a ballast arm that may be chosen is passed over: for a candidate of level 1 or above, or by Annatto's gate. -/
def State.suppressed (s : State) (u : Cursor) : Bool :=
  s.levelOf u == 0 && s.eligible u &&
  (s.dev.ballastGated || ((s.armsOf (s.block u.b).core).any fun x => s.eligible x && s.levelOf x ≥ 1))

/-- R454: REASON of an arm that has not issued: the lowest code that applies (log 28). -/
def State.reasonOf (s : State) (b w : Nat) (armB : Bool) : Nat :=
  let v := s.wave b w
  let more := (if (v.arm armB).reason == 0 then [] else [(v.arm armB).reason]) ++ (if v.halted then [29] else []) ++
    (if (s.block b).restoring then [30] else []) ++ (if s.suppressed { b := b, w := w, armB := armB } then [26] else []) ++
    (if (s.gang (s.block b).launch (s.block b).gang).stopReq then [31] else []) ++ (if v.hnd && v.handlerArm && v.divided && v.handlerB != armB then [25] else [])
  (least (v.waitReason armB ++ more)).getD 1

/-- R452: the wave that a block samples next. -/
def Block.nextSample (k : Block) : Option Nat :=
  let n := k.waves.length
  ((List.range n).map fun i => (k.sampleNext + i) % n).find? fun w => !(k.waves.getD w {}).done

/-- The event PC_SAMPLE; the sampled clk is the last step (log 28). -/
def execPcSample (b : Nat) (s : State) : Host.Outcome State Fault Refusal :=
  let k := s.block b
  if !k.resident || !k.sampctl.getLsbD 0 || k.sampbuf == 0 then .next s
  else
    match k.nextSample with
    | none => .next s
    | some w =>
      let v := s.wave b w
      let armB := v.b.isSome && v.a.st == .stopped
      let a := v.arm armB
      let issued := s.ran == some { b := b, w := w, armB := armB } && a.lastIssue + 1 == s.ticks
      let w0 := bit issued 62 + (if issued then 0 else s.reasonOf b w armB) * 2 ^ 57 + (if issued then s.ranPc else a.nextPc).toNat % 2 ^ 57
      let w1 := (s.timeOf k.die).toNat % 2 ^ 24 * 2 ^ 40 + bit armB 36 + v.idx * 2 ^ 32 + (s.launch k.launch).seq.toNat
      .next ((s.sampleFirst b s.ranClk (BitVec.ofNat 64 w0) (BitVec.ofNat 64 w1)).modBlock b fun k => { k with sampleNext := w + 1 })

/-! ### Monitor units (R457, R458) -/

/-- R457: SEL of a source; a stack of a fused-off die is in no monitor list (R3). -/
def selOk (dieEn : BitVec 8) (src sel : Nat) : Bool :=
  match src with
  | 0 => true
  | 1 => sel < 64
  | 2 => sel < 16
  | 3 => sel % 256 < 64 && sel / 256 < 8
  | 4 => sel < 16 || (sel < 32 && dieEn.getLsbD ((sel - 16) / 2))
  | 5 => sel < 16
  | _ => false

/-- R457: an argument block of MONSET within its limits. -/
def monOk (dieEn : BitVec 8) (a : List Byte) : Bool :=
  let die := field a 0 1
  let src := field a 2 1
  (die == 8 || (die < 8 && dieEn.getLsbD die)) && field a 1 1 < 64 && selOk dieEn src (field a 6 2) && (die != 8 || src == 0 || src == 4 || src == 5) &&
  field a 3 1 ≤ 1 && field a 4 1 ≤ 31 && field a 5 1 ≤ 3

/-- R457, R458: MONSET: SRC 0 turns the unit off, CLEAR empties it. -/
def State.monSet (s : State) (a : List Byte) : Option State :=
  if monOk s.dev.dieEn a then
    let key := field a 0 1 * 64 + field a 1 1
    let old : MonUnit := sget {} s.dev.units key
    let kept : MonUnit := if field a 5 1 ≥ 2 then {} else old
    let u : MonUnit :=
      { kept with src := field a 2 1, log2 := field a 3 1 == 1, shift := field a 4 1, en := field a 5 1 % 2 == 1 && field a 2 1 != 0
                  sel := field a 6 2, base := (BitVec.ofNat 32 (field a 8 4)).toInt }
    some (s.modDev fun d => { d with units := sset {} d.units key u })
  else none

def execMonset (s : State) : Host.Outcome State Fault Refusal := .next (s.mailbox 30 [3] s.monSet)

/-- R458: the 144 bytes of a unit. -/
def MonUnit.bytes (u : MonUnit) : List Byte :=
  leBytes 4 (BitVec.ofInt 32 u.lo).toNat ++ leBytes 4 (BitVec.ofInt 32 u.hi).toNat ++ leBytes 8 u.count ++
  ((List.range 32).map fun i => leBytes 4 (sget 0 u.bins i)).flatten

def State.monRead (s : State) (a : List Byte) : Option State :=
  let die := field a 0 1
  if (die == 8 || (die < 8 && s.dev.dieEn.getLsbD die)) && field a 1 1 < 64 then
    s.hostPut (field a 8 8) (MonUnit.bytes (sget {} s.dev.units (die * 64 + field a 1 1)))
  else none

def execMonread (s : State) : Host.Outcome State Fault Refusal := .next (s.mailbox 31 [3] s.monRead)

/-- The event L2_QUEUE_DEPTH_SAMPLE of a monitor unit with SRC 2. -/
def execL2QueueDepthSample (die unit : Nat) (depth : Int) (s : State) : Host.Outcome State Fault Refusal :=
  let u : MonUnit := sget {} s.dev.units (die * 64 + unit)
  if u.src == 2 && u.en && unit < 64 then .next (s.modDev fun d => { d with units := sset {} d.units (die * 64 + unit) (u.sample depth) })
  else .next s

/-! ### The error collector and the dump (R450, R459, R463) -/

/-- R450, R459: LOGREAD: host address, most records; the number moved goes to offset 16 of the argument block. -/
def State.logRead (s : State) (a : List Byte) : Option State :=
  let all := s.collectorAll
  let n := min all.length (field a 8 8)
  match s.hostPut (field a 0 8) ((all.take n).map CollRec.bytes).flatten with
  | none => none
  | some t =>
    (t.hostPut (s.dev.mbArg.toNat + 16) (leBytes 8 n)).map fun u => u.modDev fun d =>
      { d with collector := d.collector.drop n, dropped := if n > d.collector.length then 0 else d.dropped }

def execLogread (s : State) : Host.Outcome State Fault Refusal := .next (s.mailbox 28 [3] s.logRead)

/-- R450, R463: DUMPREAD: host address, offset, length, within the 64 MiB region; refused while DUMP = 0. -/
def State.dumpRead (s : State) (a : List Byte) : Option State :=
  if s.dev.dump && field a 8 8 + field a 16 8 ≤ 2 ^ 26 then s.hostPut (field a 0 8) (slice s.dev.dumpMem (field a 8 8) (field a 16 8)) else none

def execDumpread (s : State) : Host.Outcome State Fault Refusal := .next (s.mailbox 26 [3] s.dumpRead)

/-- The event ATOMIC_LOG_DRAIN of a slice: its entries, then its overflow count, move into the collector. -/
def execAtomicLogDrain (slice : Nat) (s : State) : Host.Outcome State Fault Refusal :=
  let rec' := fun (type : Nat) (l : List Byte) => ({ type := type, die := slice / 16, place := slice % 16, time := s.timeOf 8, payload := l } : CollRec)
  let t := (s.atomLog.filter fun x => x.slice == slice).foldl (fun t x => t.collect (rec' 3 x.bytes)) s
  let n := sget 0 s.logOver slice
  let u := if n == 0 then t else t.collect (rec' 4 (leBytes 8 n))
  .next { u with atomLog := s.atomLog.filter fun x => x.slice != slice, logOver := sset 0 s.logOver slice 0 }

/-! ### Recording and replay (R460 to R462) -/

/-- The slices of the enabled dies. -/
def State.slicesOn (s : State) : List Nat := (s.dies.map fun d => span (16 * d) 16).flatten
/-- R461: segment s of a context's log. -/
def Context.segment (c : Context) (slice : Nat) : DWord := c.replayVa + BitVec.ofNat 64 (slice * (c.replayBytes / 128))

/-- R461: leaving MODE 1 ends every open run. -/
def State.endRuns (s : State) (x : Nat) : State :=
  let mine := s.replaySegs.filter fun g => g.ctx == x
  let t := mine.foldl (fun t g => g.openRuns.foldl (fun t r => t.appendRun x g.slice r) t) s
  { t with replaySegs := t.replaySegs.filter fun g => g.ctx != x }

/-- R461: the entries of a segment: line, ordinal, gang, block, wave, run. -/
def State.segmentRuns (s : State) (c : Context) (slice : Nat) : List (Nat × Nat × Nat × Nat × Nat × Nat) :=
  let n := min (s.peek c (c.segment slice) 8) ((c.replayBytes / 128 - 16) / 16)
  (List.range n).map fun i =>
    let w0 := s.peek c (c.segment slice + BitVec.ofNat 64 (16 + 16 * i)) 8
    let w1 := s.peek c (c.segment slice + BitVec.ofNat 64 (24 + 16 * i)) 8
    (w0 / 128 % 2 ^ 49, w1 / 2 ^ 32, w1 / 256 % 2 ^ 24, w1 / 16 % 16, w1 % 16, w0 % 128 + 1)

/-- R462: an entry behind the others of its line. -/
def addRun (x : Nat) (l : List ReplayLine) (r : Nat × Nat × Nat × Nat × Nat × Nat) : List ReplayLine :=
  match r with
  | (line, o, g, b, w, n) =>
    if l.any fun z => z.ctx == x && z.line == line then
      l.map fun z => if z.ctx == x && z.line == line then { z with runs := z.runs ++ [(o, g, b, w, n)] } else z
    else l ++ [{ ctx := x, line := line, runs := [(o, g, b, w, n)] }]

/-- R460, R461: the mode begins: empty segments in MODE 1, each line's entries in MODE 2. -/
def State.beginReplay (s : State) (x : Nat) : State :=
  let c := s.ctx x
  if c.replayMode == 1 then
    s.slicesOn.foldl (fun t i => match t.ctxStore c (c.segment i) (leBytes 16 0) with | .ok u => u | .error _ => t) s
  else if c.replayMode == 2 then
    { s with replayLines := (s.slicesOn.map (s.segmentRuns c)).flatten.foldl (addRun x) s.replayLines }
  else s

/-- R450, R460: REPLAY. -/
def State.replaySet (s : State) (a : List Byte) : Option State :=
  match s.ctxNumbered (field a 0 4) with
  | some x =>
    if field a 4 1 ≤ 2 then
      let t := s.endRuns x
      let u := { t with replayLines := t.replayLines.filter fun l => l.ctx != x
                        atomReqs := t.atomReqs.map fun r => if t.reqCtx r == x then { r with held := false, arrived := 0 } else r }
      some ((u.modCtx x fun c =>
        { c with replayMode := field a 4 1, replayVa := BitVec.ofNat 64 (field a 8 8), replayBytes := field a 16 8, ordinals := 0 }).beginReplay x)
    else none
  | none => none

def execReplay (s : State) : Host.Outcome State Fault Refusal := .next (s.mailbox 29 [3] s.replaySet)

end Sys2Proof.Machine
end

