-- ==== Sys2Proof/Machine/Warp.lean ====
section
/-! DEFINITION. Warp-wide instructions (R190 to R198): the checks of an arriving arm, its wait for the sibling arm's, and what
the two write together. -/
namespace Sys2Proof.Machine

/-- What a warp-wide instruction names beside its descriptor. -/
structure WarpOp where
  /-- The key of R191 check 4 without the kC value: opcode, F, X. -/
  key : List Nat
  kc : KReg
  dest : Nat
  /-- The vector source whose value lanes exchange. -/
  src : Option VReg := none
  /-- The lane index of a lane: vB, an immediate, or kB. -/
  idx : Env → Nat → DWord := fun _ _ => 0
  q : Option QPred := none

/-- A lane's value as an operand of its element type (R64, R113). -/
def laneValue (et : Nat) (x : DWord) : DWord :=
  if clsI et then intReg et (intVal et x) else if et == 10 || et == 11 then x &&& 0xFFFF#64 else x

/-- What the issuing arm brings (R193). -/
def WarpOp.wait (o : WarpOp) (e : Env) (clk : Nat) : WarpWait :=
  { key := o.key ++ [(e.k o.kc).toNat], desc := e.k o.kc, exec := e.act
    src := match o.src with
      | some r => e.lanes.foldl (fun m i => sset 0 m i (e.get r i)) []
      | none => []
    idx := e.lanes.foldl (fun m i => sset 0 m i (o.idx e i)) []
    pq := match o.q with | some q => e.q q | none => 0
    mode := e.arm.mode, dest := o.dest, pc := e.pc, clk := clk }

/-- R196: the source lane of a lane; the index arithmetic is that of integers. -/
def shuffleLane (how lane : Nat) (c : DWord) : Option Nat :=
  match how with
  | 0 => some c.toNat
  | 1 => if c.toNat ≤ lane then some (lane - c.toNat) else none
  | 2 => some (lane + c.toNat)
  | _ => some (lane ^^^ c.toNat)

/-- A lane's source value among the instances that take part. -/
def sourceOf (l : List WarpWait) (lane : Nat) : DWord :=
  match l.find? fun x => x.exec.getLsbD lane with
  | some x => sget 0 x.src lane
  | none => 0
/-- The predicate bits over the members. -/
def votesOf (l : List WarpWait) : LaneMask := l.foldl (fun m x => m ||| (x.pq &&& x.exec)) 0

/-- R195: the ballot of the members whose bit is set. -/
def ballotOf (m : LaneMask) : DWord :=
  (List.range 32).foldl (fun (a : DWord) w =>
    let x := maskWord m w
    (a ||| x.setWidth 64) ||| (if x != 0 then 1#64 <<< (32 + w) else 0)) 0

/-- What one instance writes when the instances l, of which the first issued first, complete over members m. -/
def warpEff (lanes : Nat) (m : LaneMask) (l : List WarpWait) (first : Word) (x : WarpWait) : Eff :=
  let pair := isPair (modeET x.mode)
  let mine := lanesOf lanes x.exec
  let arg := x.key.getD 2 0
  let et := modeET first
  let value := fun (i : Nat) => laneValue et (sourceOf l i)
  match x.key.getD 1 0 with
  | 0 =>
    let v := votesOf l &&& m
    let r := if arg == 0 then v == m else if arg == 1 then v != 0 else v == m || v == 0
    { p := [(x.dest, x.exec, if r then x.exec else 0)] }
  | 1 => { k := [(x.dest, ballotOf (votesOf l &&& m))] }
  | 4 =>
    let r := waveReduce et (modeRM first) (modeFZ first) arg lanes m value
    laneEff mine pair x.dest fun _ => r
  | 5 => laneEff mine pair x.dest fun i =>
      waveScan et (modeRM first) (modeFZ first) (decide (arg ≥ 8)) (arg % 8) lanes m value i
  | f =>
    laneEff mine pair x.dest fun i =>
      let c := sget 0 x.idx i
      let from' := if f == 6 then some c.toNat else shuffleLane arg i c
      match from' with
      | some j => (if j < 1024 && m.getLsbD j then sourceOf l j else sourceOf l i, 0)
      | none => (sourceOf l i, 0)

/-- R191: the first three checks, in their order. -/
def warpTrap (e : Env) (x : WarpWait) : Option Trap :=
  let m := memberSet x.desc
  let missing := m &&& (~~~(lowMask e.ln.lanes) ||| e.wv.exited)
  let lost := m &&& ~~~(e.act ||| e.wv.siblingLanes e.u.armB)
  let self := e.act &&& ~~~m
  if missing != 0 then some { cause := 6, info := BitVec.ofNat 64 (lowestLane missing) }
  else if lost != 0 then some { cause := 6, info := BitVec.ofNat 64 (lowestLane lost) }
  else if self != 0 then some { cause := 7, info := BitVec.ofNat 64 (lowestLane self) }
  else none

/-- The instance that the sibling arm waits with. -/
def Env.siblingWarp (e : Env) : Option WarpWait :=
  match (e.wv.arm (!e.u.armB)).st with
  | .warp y => if e.wv.divided then some y else none
  | _ => none
/-- R191 check 4: the sibling's waiting instance, where it needs an executing lane of this one and differs from it. -/
def Env.mismatch (e : Env) (x : WarpWait) : Option WarpWait :=
  e.siblingWarp.filter fun y => (memberSet y.desc &&& e.act) != 0 && y.key != x.key

/-- R192: an instance that has passed its checks completes alone, joins the sibling's, or waits.  It joins an equal waiting instance even
where one of the two has every member (log 33). -/
def warpRun (e : Env) (x : WarpWait) (t : State) : Out :=
  let m := memberSet x.desc
  let n := e.ln.lanes
  match e.siblingWarp.filter fun y => y.key == x.key with
  | some y =>
    if (x.exec ||| y.exec) != m then .trap { cause := 6, info := BitVec.ofNat 64 (lowestLane (m &&& ~~~(x.exec ||| y.exec))) }
    else
      let fx := warpEff n m [y, x] y.mode x
      let fy := warpEff n m [y, x] y.mode y
      let o' : Cursor := { e.u with armB := !e.u.armB }
      .next ((e.done fy (e.done fx t)).modArm o' fun a => { a with st := .ready, pc := y.pc + 8, reason := 0, waited := 0 })
  | none =>
    if m &&& ~~~e.act == 0 then .next (e.done (warpEff n m [x] x.mode x) t)
    else .placed (t.modArm e.u fun a => { a with st := .warp x, lastIssue := t.ticks, reason := 19, skipBp := false })

/-- R191, R192, R387: the checks of an instance, its sources, then its work.  Of two mismatched instances that issue in the same clk, arm A's
takes check 4: where it came first, arm B's takes its place. -/
def warpBody (form : Env → Form) (o : WarpOp) (e : Env) (t : State) : Out :=
  let x := o.wait e t.clk
  match warpTrap e x with
  | some y => .trap y
  | none =>
    match e.mismatch x, (form e).badSource e with
    | some y, bad =>
      if e.u.armB && y.clk == t.clk then
        (match bad with
         | some z => .trap z
         | none => warpRun { e with wv := { e.wv with a := { e.wv.a with st := .ready } } } x
             ((t.modArm { e.u with armB := false } fun a => { a with st := .ready }).takeTrap { e.u with armB := false } 8 { cause := 8 }))
      else .trap { cause := 8 }
    | none, some z => .trap z
    | none, none => warpRun e x t

/-- The form of a warp-wide instruction: blocking (R25), its sources read after the checks of R191. -/
def warpForm (f : Env → Form) (e : Env) : Form := { f e with mem := true, late := true }
/-- A warp-wide instruction. -/
def warpIssue (sw : Bool) (form : Env → Form) (o : WarpOp) (s : State) : Host.Outcome State Fault Refusal :=
  issue sw 8 (warpForm form) (warpBody form o) s

def execVote (sw : Bool) (op : BitVec 4) (pd : PReg) (q : QPred) (kc : KReg) (s : State) : Host.Outcome State Fault Refusal :=
  warpIssue sw (fun _ => { ks := [kc.toNat], ps := [pd.toNat, q.p.toNat], guarded := true })
    { key := [0x65, 0, op.toNat], kc := kc, dest := pd.toNat, q := some q } s
def execBallot (sw : Bool) (kd : KReg) (q : QPred) (kc : KReg) (s : State) : Host.Outcome State Fault Refusal :=
  warpIssue sw (fun _ => { ks := [kd.toNat, kc.toNat], ps := [q.p.toNat], guarded := true })
    { key := [0x65, 1, 0], kc := kc, dest := kd.toNat, q := some q } s
def execShfl (sw : Bool) (how : BitVec 2) (d a b : VReg) (kc : KReg) (s : State) : Host.Outcome State Fault Refusal :=
  warpIssue sw (fun e => let f := vForm clsW d [a] e; { f with vs := f.vs ++ [one b], ks := [kc.toNat] })
    { key := [0x65, 2, how.toNat], kc := kc, dest := d.toNat, src := some a, idx := fun e i => (e.word b i).setWidth 64 } s
def execShfli (sw : Bool) (how : BitVec 2) (d a : VReg) (i : BitVec 8) (kc : KReg) (s : State) : Host.Outcome State Fault Refusal :=
  warpIssue sw (fun e => { vForm clsW d [a] e with ks := [kc.toNat] })
    { key := [0x65, 3, how.toNat], kc := kc, dest := d.toNat, src := some a, idx := fun _ _ => i.setWidth 64 } s
/-- The types and operations of `wred` and `wscan`. -/
def redLegal (op et : Nat) : Bool := et ≤ 7 || (et ≤ 11 && op ≤ 2)
def execWred (sw : Bool) (op : BitVec 4) (d a : VReg) (kc : KReg) (s : State) : Host.Outcome State Fault Refusal :=
  warpIssue sw (fun e => { vForm (redLegal op.toNat) d [a] e with ks := [kc.toNat] })
    { key := [0x65, 4, op.toNat], kc := kc, dest := d.toNat, src := some a } s
def execWscan (sw : Bool) (excl : Bool) (op : BitVec 3) (d a : VReg) (kc : KReg) (s : State) : Host.Outcome State Fault Refusal :=
  warpIssue sw (fun e => { vForm (redLegal op.toNat) d [a] e with ks := [kc.toNat] })
    { key := [0x65, 5, op.toNat + (if excl then 8 else 0)], kc := kc, dest := d.toNat, src := some a } s
def execBcast (sw : Bool) (d a : VReg) (kb kc : KReg) (s : State) : Host.Outcome State Fault Refusal :=
  warpIssue sw (fun e => { vForm clsW d [a] e with ks := [kb.toNat, kc.toNat] })
    { key := [0x65, 6, 0], kc := kc, dest := d.toNat, src := some a, idx := fun e _ => e.k kb } s

end Sys2Proof.Machine
end

