-- ==== Sys2Proof/Machine/Dispatch.lean ====
section
/-! DEFINITION. The dispatch: one arm per instruction and event, each a direct call of its meaning. -/
namespace Sys2Proof.Machine

def exec (i : Instr) (s : State) : Host.Outcome State Fault Refusal :=
  match i with
  | .add sw d a b => Sys2Proof.Machine.execAdd sw d a b s
  | .sub sw d a b => Sys2Proof.Machine.execSub sw d a b s
  | .mul sw d a b => Sys2Proof.Machine.execMul sw d a b s
  | .mulhi sw d a b => Sys2Proof.Machine.execMulhi sw d a b s
  | .mad sw d a b => Sys2Proof.Machine.execMad sw d a b s
  | .div sw d a b => Sys2Proof.Machine.execDiv sw d a b s
  | .rem sw d a b => Sys2Proof.Machine.execRem sw d a b s
  | .min sw d a b => Sys2Proof.Machine.execMin sw d a b s
  | .max sw d a b => Sys2Proof.Machine.execMax sw d a b s
  | .abs sw d a => Sys2Proof.Machine.execAbs sw d a s
  | .neg sw d a => Sys2Proof.Machine.execNeg sw d a s
  | .and sw d a b => Sys2Proof.Machine.execAnd sw d a b s
  | .or sw d a b => Sys2Proof.Machine.execOr sw d a b s
  | .xor sw d a b => Sys2Proof.Machine.execXor sw d a b s
  | .andn sw d a b => Sys2Proof.Machine.execAndn sw d a b s
  | .not sw d a => Sys2Proof.Machine.execNot sw d a s
  | .shl sw d a b => Sys2Proof.Machine.execShl sw d a b s
  | .shr sw d a b => Sys2Proof.Machine.execShr sw d a b s
  | .sar sw d a b => Sys2Proof.Machine.execSar sw d a b s
  | .rol sw d a b => Sys2Proof.Machine.execRol sw d a b s
  | .ror sw d a b => Sys2Proof.Machine.execRor sw d a b s
  | .shli sw d a n => Sys2Proof.Machine.execShli sw d a n s
  | .shri sw d a n => Sys2Proof.Machine.execShri sw d a n s
  | .sari sw d a n => Sys2Proof.Machine.execSari sw d a n s
  | .popc sw d a => Sys2Proof.Machine.execPopc sw d a s
  | .clz sw d a => Sys2Proof.Machine.execClz sw d a s
  | .ctz sw d a => Sys2Proof.Machine.execCtz sw d a s
  | .brev sw d a => Sys2Proof.Machine.execBrev sw d a s
  | .cmp sw cc pd a b => Sys2Proof.Machine.execCmp sw cc pd a b s
  | .mov sw d a => Sys2Proof.Machine.execMov sw d a s
  | .movk sw d ka => Sys2Proof.Machine.execMovk sw d ka s
  | .addk sw kd ka kb => Sys2Proof.Machine.execAddk sw kd ka kb s
  | .sext sw d a n => Sys2Proof.Machine.execSext sw d a n s
  | .zext sw d a n => Sys2Proof.Machine.execZext sw d a n s
  | .lea sw d ka b => Sys2Proof.Machine.execLea sw d ka b s
  | .gtime sw kd ka kb => Sys2Proof.Machine.execGtime sw kd ka kb s
  | .fadd sw d a b => Sys2Proof.Machine.execFadd sw d a b s
  | .fsub sw d a b => Sys2Proof.Machine.execFsub sw d a b s
  | .fmul sw d a b => Sys2Proof.Machine.execFmul sw d a b s
  | .fma sw d a b => Sys2Proof.Machine.execFma sw d a b s
  | .fms sw d a b => Sys2Proof.Machine.execFms sw d a b s
  | .fnma sw d a b => Sys2Proof.Machine.execFnma sw d a b s
  | .fnms sw d a b => Sys2Proof.Machine.execFnms sw d a b s
  | .fmin sw d a b => Sys2Proof.Machine.execFmin sw d a b s
  | .fmax sw d a b => Sys2Proof.Machine.execFmax sw d a b s
  | .fabs sw d a => Sys2Proof.Machine.execFabs sw d a s
  | .fneg sw d a => Sys2Proof.Machine.execFneg sw d a s
  | .fsgn sw d a b => Sys2Proof.Machine.execFsgn sw d a b s
  | .fcmp sw cc pd a b => Sys2Proof.Machine.execFcmp sw cc pd a b s
  | .fclass sw d a => Sys2Proof.Machine.execFclass sw d a s
  | .frcp sw d a => Sys2Proof.Machine.execFrcp sw d a s
  | .frsq sw d a => Sys2Proof.Machine.execFrsq sw d a s
  | .fsqrt sw d a => Sys2Proof.Machine.execFsqrt sw d a s
  | .fdiv sw d a b => Sys2Proof.Machine.execFdiv sw d a b s
  | .fex2 sw d a => Sys2Proof.Machine.execFex2 sw d a s
  | .flg2 sw d a => Sys2Proof.Machine.execFlg2 sw d a s
  | .fsin sw d a => Sys2Proof.Machine.execFsin sw d a s
  | .fcos sw d a => Sys2Proof.Machine.execFcos sw d a s
  | .frnd sw d a => Sys2Proof.Machine.execFrnd sw d a s
  | .cvt sw d a slot => Sys2Proof.Machine.execCvt sw d a slot s
  | .cvtn sw d a slot => Sys2Proof.Machine.execCvtn sw d a slot s
  | .cvtw sw d a slot => Sys2Proof.Machine.execCvtw sw d a slot s
  | .bpack sw d a slot => Sys2Proof.Machine.execBpack sw d a slot s
  | .bunpk sw d a slot => Sys2Proof.Machine.execBunpk sw d a slot s
  | .mxsc sw d a slot => Sys2Proof.Machine.execMxsc sw d a slot s
  | .ld sw d ka b => Sys2Proof.Machine.execLd sw d ka b s
  | .st sw ka b d => Sys2Proof.Machine.execSt sw ka b d s
  | .ldk sw kd ka off => Sys2Proof.Machine.execLdk sw kd ka off s
  | .stk sw ka off kd => Sys2Proof.Machine.execStk sw ka off kd s
  | .lds sw d a off => Sys2Proof.Machine.execLds sw d a off s
  | .sts sw a off d => Sys2Proof.Machine.execSts sw a off d s
  | .ldp sw d ka b => Sys2Proof.Machine.execLdp sw d ka b s
  | .stp sw ka b d => Sys2Proof.Machine.execStp sw ka b d s
  | .ldb sw d a buf => Sys2Proof.Machine.execLdb sw d a buf s
  | .stb sw buf a d => Sys2Proof.Machine.execStb sw buf a d s
  | .fence sw kind scope paths => Sys2Proof.Machine.execFence sw kind scope paths s
  | .pref sw lvl ka b => Sys2Proof.Machine.execPref sw lvl ka b s
  | .zinv sw buf ka kb => Sys2Proof.Machine.execZinv sw buf ka kb s
  | .zwb sw buf ka kb => Sys2Proof.Machine.execZwb sw buf ka kb s
  | .zpack sw buf ka kb => Sys2Proof.Machine.execZpack sw buf ka kb s
  | .nop sw => Sys2Proof.Machine.execNop sw s
  | .halt sw => Sys2Proof.Machine.execHalt sw s
  | .ret sw ka => Sys2Proof.Machine.execRet sw ka s
  | .jmpi sw ka => Sys2Proof.Machine.execJmpi sw ka s
  | .rdsrK sw kd n => Sys2Proof.Machine.execRdsrK sw kd n s
  | .rdsrV sw d n => Sys2Proof.Machine.execRdsrV sw d n s
  | .wrsrStatus sw ka => Sys2Proof.Machine.execWrsrStatus sw ka s
  | .wrsrMode sw ka => Sys2Proof.Machine.execWrsrMode sw ka s
  | .wrsrFault0 sw ka => Sys2Proof.Machine.execWrsrFault0 sw ka s
  | .wrsrFault1 sw ka => Sys2Proof.Machine.execWrsrFault1 sw ka s
  | .wrsrSampctl sw ka => Sys2Proof.Machine.execWrsrSampctl sw ka s
  | .wrsrSampbuf sw ka => Sys2Proof.Machine.execWrsrSampbuf sw ka s
  | .clock sw kd => Sys2Proof.Machine.execClock sw kd s
  | .trap sw code => Sys2Proof.Machine.execTrap sw code s
  | .brk sw code => Sys2Proof.Machine.execBrk sw code s
  | .tret sw => Sys2Proof.Machine.execTret sw s
  | .exit sw => Sys2Proof.Machine.execExit sw s
  | .yield sw => Sys2Proof.Machine.execYield sw s
  | .give sw n => Sys2Proof.Machine.execGive sw n s
  | .claim sw pd n => Sys2Proof.Machine.execClaim sw pd n s
  | .mark sw v => Sys2Proof.Machine.execMark sw v s
  | .hops sw d a b => Sys2Proof.Machine.execHops sw d a b s
  | .addi sw d a imm => Sys2Proof.Machine.execAddi sw d a imm s
  | .subi sw d a imm => Sys2Proof.Machine.execSubi sw d a imm s
  | .cmpi sw cc pd a imm => Sys2Proof.Machine.execCmpi sw cc pd a imm s
  | .bfx sw d a pos len => Sys2Proof.Machine.execBfx sw d a pos len s
  | .bfi sw d a pos len => Sys2Proof.Machine.execBfi sw d a pos len s
  | .movImm sw d imm => Sys2Proof.Machine.execMovImm sw d imm s
  | .addc sw d a b p => Sys2Proof.Machine.execAddc sw d a b p s
  | .subb sw d a b p => Sys2Proof.Machine.execSubb sw d a b p s
  | .sel sw d a b q => Sys2Proof.Machine.execSel sw d a b q s
  | .br sw cond q off => Sys2Proof.Machine.execBr sw cond q off s
  | .bra sw off => Sys2Proof.Machine.execBra sw off s
  | .call sw kd off => Sys2Proof.Machine.execCall sw kd off s
  | .mode sw sel img => Sys2Proof.Machine.execMode sw sel img s
  | .bdiv sw q target rejoin => Sys2Proof.Machine.execBdiv sw q target rejoin s
  | .vote sw op pd q kc => Sys2Proof.Machine.execVote sw op pd q kc s
  | .ballot sw kd q kc => Sys2Proof.Machine.execBallot sw kd q kc s
  | .shfl sw how d a b kc => Sys2Proof.Machine.execShfl sw how d a b kc s
  | .shfli sw how d a idx kc => Sys2Proof.Machine.execShfli sw how d a idx kc s
  | .wred sw op d a kc => Sys2Proof.Machine.execWred sw op d a kc s
  | .wscan sw excl op d a kc => Sys2Proof.Machine.execWscan sw excl op d a kc s
  | .bcast sw d a kb kc => Sys2Proof.Machine.execBcast sw d a kb kc s
  | .mget sw kd n => Sys2Proof.Machine.execMget sw kd n s
  | .mset sw n ka => Sys2Proof.Machine.execMset sw n ka s
  | .bar sw ka kb => Sys2Proof.Machine.execBar sw ka kb s
  | .bara sw ka kb => Sys2Proof.Machine.execBara sw ka kb s
  | .barw sw ka => Sys2Proof.Machine.execBarw sw ka s
  | .waitge sw ka kd => Sys2Proof.Machine.execWaitge sw ka kd s
  | .waitgeCont sw ka kd off => Sys2Proof.Machine.execWaitgeCont sw ka kd off s
  | .atomFlat sw op d ka b c => Sys2Proof.Machine.execAtomFlat sw op d ka b c s
  | .atomScr sw op d b c => Sys2Proof.Machine.execAtomScr sw op d b c s
  | .atomPeer sw op d ka b c => Sys2Proof.Machine.execAtomPeer sw op d ka b c s
  | .atomcFlat sw d ka b c => Sys2Proof.Machine.execAtomcFlat sw d ka b c s
  | .atomcScr sw d b c => Sys2Proof.Machine.execAtomcScr sw d b c s
  | .atomcPeer sw d ka b c => Sys2Proof.Machine.execAtomcPeer sw d ka b c s
  | .redFlat sw op ka b c => Sys2Proof.Machine.execRedFlat sw op ka b c s
  | .redScr sw op b c => Sys2Proof.Machine.execRedScr sw op b c s
  | .redPeer sw op ka b c => Sys2Proof.Machine.execRedPeer sw op ka b c s
  | .amode sw banks toC ww expofs => Sys2Proof.Machine.execAmode sw banks toC ww expofs s
  | .mmac sw t ka bank gain rep => Sys2Proof.Machine.execMmac sw t ka bank gain rep s
  | .mzero sw t => Sys2Proof.Machine.execMzero sw t s
  | .mdrain sw d t cntm1 col zero tgt slot => Sys2Proof.Machine.execMdrain sw d t cntm1 col zero tgt slot s
  | .mpack sw ka bank => Sys2Proof.Machine.execMpack sw ka bank s
  | .mcal sw banks => Sys2Proof.Machine.execMcal sw banks s
  | .mstat sw kd bank => Sys2Proof.Machine.execMstat sw kd bank s
  | .copy sw ka => Sys2Proof.Machine.execCopy sw ka s
  | .cstat sw kd ka => Sys2Proof.Machine.execCstat sw kd ka s
  | .tsend sw ka b kc => Sys2Proof.Machine.execTsend sw ka b kc s
  | .trecv sw kd ka => Sys2Proof.Machine.execTrecv sw kd ka s
  | .tpoll sw kd ka => Sys2Proof.Machine.execTpoll sw kd ka s
  | .tsteal sw kd ka => Sys2Proof.Machine.execTsteal sw kd ka s
  | .tcap sw ka kb => Sys2Proof.Machine.execTcap sw ka kb s
  | .tdrop sw ka kb => Sys2Proof.Machine.execTdrop sw ka kb s
  | .tadv sw kd ka op d ctr n => Sys2Proof.Machine.execTadv sw kd ka op d ctr n s
  | .tsum sw kd ka kb => Sys2Proof.Machine.execTsum sw kd ka kb s
  | .fwait sw ka kb => Sys2Proof.Machine.execFwait sw ka kb s
  | .fread sw kd ka => Sys2Proof.Machine.execFread sw kd ka s
  | .rehome sw ka kb => Sys2Proof.Machine.execRehome sw ka kb s
  | .movkk sw kd imm => Sys2Proof.Machine.execMovkk sw kd imm s
  | .resultWrite b w idx => Sys2Proof.Machine.execResultWrite b w idx s
  | .deferredFaultReport idx => Sys2Proof.Machine.execDeferredFaultReport idx s
  | .takeDeferredFault => Sys2Proof.Machine.execTakeDeferredFault s
  | .notificationHoldoff x => Sys2Proof.Machine.execNotificationHoldoff x s
  | .breakpointMatch => Sys2Proof.Machine.execBreakpointMatch s
  | .rejoin => Sys2Proof.Machine.execRejoin s
  | .launchComplete l => Sys2Proof.Machine.execLaunchComplete l s
  | .distributorRound => Sys2Proof.Machine.execDistributorRound s
  | .gangPromotion l g => Sys2Proof.Machine.execGangPromotion l g s
  | .dieStable die => Sys2Proof.Machine.execDieStable die s
  | .operatingPointIdleLower die => Sys2Proof.Machine.execOperatingPointIdleLower die s
  | .swapOut b => Sys2Proof.Machine.execSwapOut b s
  | .timeSliceExpiry l g => Sys2Proof.Machine.execTimeSliceExpiry l g s
  | .gangStopComplete l g => Sys2Proof.Machine.execGangStopComplete l g s
  | .hangWatchdog b w armB => Sys2Proof.Machine.execHangWatchdog b w armB s
  | .arbiterGrant core => Sys2Proof.Machine.execArbiterGrant core s
  | .arrayEntryComplete core idx => Sys2Proof.Machine.execArrayEntryComplete core idx s
  | .calibrationLapse core bank => Sys2Proof.Machine.execCalibrationLapse core bank s
  | .bankLoss unit bank => Sys2Proof.Machine.execBankLoss unit bank s
  | .patrolScrub unit off => Sys2Proof.Machine.execPatrolScrub unit off s
  | .atomicAtTarget idx => Sys2Proof.Machine.execAtomicAtTarget idx s
  | .atomicResponseLost idx => Sys2Proof.Machine.execAtomicResponseLost idx s
  | .homeSliceWrite line => Sys2Proof.Machine.execHomeSliceWrite line s
  | .waitgeRetry b w armB => Sys2Proof.Machine.execWaitgeRetry b w armB s
  | .fenceComplete b w armB => Sys2Proof.Machine.execFenceComplete b w armB s
  | .sumacBlockWrite idx => Sys2Proof.Machine.execSumacBlockWrite idx s
  | .blockWriteApply idx => Sys2Proof.Machine.execBlockWriteApply idx s
  | .sumacBlockRead idx => Sys2Proof.Machine.execSumacBlockRead idx s
  | .copyCapture core idx => Sys2Proof.Machine.execCopyCapture core idx s
  | .copyComplete core idx => Sys2Proof.Machine.execCopyComplete core idx s
  | .batchFull core g => Sys2Proof.Machine.execBatchFull core g s
  | .batchTimer core g => Sys2Proof.Machine.execBatchTimer core g s
  | .batchApply core => Sys2Proof.Machine.execBatchApply core s
  | .inboxDelivery idx => Sys2Proof.Machine.execInboxDelivery idx s
  | .frontierWordWrite g q => Sys2Proof.Machine.execFrontierWordWrite g q s
  | .creditGrant req => Sys2Proof.Machine.execCreditGrant req s
  | .externalRecordTake g => Sys2Proof.Machine.execExternalRecordTake g s
  | .remoteEntryArrival g chan ts sender payload => Sys2Proof.Machine.execRemoteEntryArrival g chan ts sender payload s
  | .sendAcknowledge g idx => Sys2Proof.Machine.execSendAcknowledge g idx s
  | .frontierToken g round black chains => Sys2Proof.Machine.execFrontierToken g round black chains s
  | .frontierDeclare g chains => Sys2Proof.Machine.execFrontierDeclare g chains s
  | .hostDirectAccess pa kind wide data cmp => Sys2Proof.Machine.execHostDirectAccess pa kind wide data cmp s
  | .apertureAccess host win off write len data => Sys2Proof.Machine.execApertureAccess host win off write len data s
  | .peerRequest pa kind mode data cmp => Sys2Proof.Machine.execPeerRequest pa kind mode data cmp s
  | .peerResponseTimeout idx => Sys2Proof.Machine.execPeerResponseTimeout idx s
  | .fabricLinkDown port => Sys2Proof.Machine.execFabricLinkDown port s
  | .collectiveContribution x coll memb off row => Sys2Proof.Machine.execCollectiveContribution x coll memb off row s
  | .shootdown x => Sys2Proof.Machine.execShootdown x s
  | .shootdownDone x => Sys2Proof.Machine.execShootdownDone x s
  | .resume x => Sys2Proof.Machine.execResume x s
  | .resumeAt x => Sys2Proof.Machine.execResumeAt x s
  | .endLaunch x => Sys2Proof.Machine.execEndLaunch x s
  | .computeDieReset die => Sys2Proof.Machine.execComputeDieReset die s
  | .timeSteer die ofs rate => Sys2Proof.Machine.execTimeSteer die ofs rate s
  | .powerGood => Sys2Proof.Machine.execPowerGood s
  | .stage3Entry => Sys2Proof.Machine.execStage3Entry s
  | .status => Sys2Proof.Machine.execStatus s
  | .imageWrite => Sys2Proof.Machine.execImageWrite s
  | .restart => Sys2Proof.Machine.execRestart s
  | .setThr => Sys2Proof.Machine.execSetThr s
  | .setPower => Sys2Proof.Machine.execSetPower s
  | .contextCreate number asid root rootHost ccb vdies saveBase saveSize swapUs hang slices => Sys2Proof.Machine.execContextCreate number asid root rootHost ccb vdies saveBase saveSize swapUs hang slices s
  | .graphRegister x image group place => Sys2Proof.Machine.execGraphRegister x image group place s
  | .timeSliceSet x slices => Sys2Proof.Machine.execTimeSliceSet x slices s
  | .apertureWindowSet win w0 w1 w2 w3 => Sys2Proof.Machine.execApertureWindowSet win w0 w1 w2 w3 s
  | .deviceNumberSet n => Sys2Proof.Machine.execDeviceNumberSet n s
  | .deviceGroupRegister group members => Sys2Proof.Machine.execDeviceGroupRegister group members s
  | .importWindowSet idx size dev peerPa => Sys2Proof.Machine.execImportWindowSet idx size dev peerPa s
  | .collectiveRegister x coll words => Sys2Proof.Machine.execCollectiveRegister x coll words s
  | .homeOverrideClear pa len x => Sys2Proof.Machine.execHomeOverrideClear pa len x s
  | .encgSet pa len on => Sys2Proof.Machine.execEncgSet pa len on s
  | .dumpread => Sys2Proof.Machine.execDumpread s
  | .debugset => Sys2Proof.Machine.execDebugset s
  | .logread => Sys2Proof.Machine.execLogread s
  | .replay => Sys2Proof.Machine.execReplay s
  | .monset => Sys2Proof.Machine.execMonset s
  | .monread => Sys2Proof.Machine.execMonread s
  | .devstatWrite v => Sys2Proof.Machine.execDevstatWrite v s
  | .thrWrite die v => Sys2Proof.Machine.execThrWrite die v s
  | .managementRegisterWrite off v => Sys2Proof.Machine.execManagementRegisterWrite off v s
  | .sensorReading unit n temp => Sys2Proof.Machine.execSensorReading unit n temp s
  | .throttleStep die => Sys2Proof.Machine.execThrottleStep die s
  | .throttleRise die => Sys2Proof.Machine.execThrottleRise die s
  | .fatalError cause die => Sys2Proof.Machine.execFatalError cause die s
  | .powerMeasurement sample average ballast rails => Sys2Proof.Machine.execPowerMeasurement sample average ballast rails s
  | .powerCapStep => Sys2Proof.Machine.execPowerCapStep s
  | .pcSample b => Sys2Proof.Machine.execPcSample b s
  | .atomicLogDrain slice => Sys2Proof.Machine.execAtomicLogDrain slice s
  | .replayHoldTimeout line => Sys2Proof.Machine.execReplayHoldTimeout line s
  | .illegalInstructionWord => Sys2Proof.Machine.execIllegalInstructionWord s
  | .stage2Failure code mask => Sys2Proof.Machine.execStage2Failure code mask s
  | .powerRemoval => Sys2Proof.Machine.execPowerRemoval s
  | .sensorReadingStale unit n => Sys2Proof.Machine.execSensorReadingStale unit n s
  | .powerCapRestore => Sys2Proof.Machine.execPowerCapRestore s
  | .hostLineInvalidation pa data => Sys2Proof.Machine.execHostLineInvalidation pa data s
  | .gangRestoreComplete l g => Sys2Proof.Machine.execGangRestoreComplete l g s
  | .contextDestroy x => Sys2Proof.Machine.execContextDestroy x s
  | .virtualDieTableSet x vdies => Sys2Proof.Machine.execVirtualDieTableSet x vdies s
  | .l2QueueDepthSample die unit depth => Sys2Proof.Machine.execL2QueueDepthSample die unit depth s

end Sys2Proof.Machine
end

