-- ==== Sys2Proof/Machine/Fetch.lean ====
section
/-! DEFINITION. Fetching an instruction, one arm's turn, and the choice of a core's next arm (R20 to R23, R186, R206, R215, R216,
R379, R456). -/
namespace Sys2Proof.Machine

/-! ### Fetch (R20 to R23) -/

/-- R23: one word of instruction memory: as it is now, or, at a free choice, any value it had before a store since the core's instruction
cache was last invalidated: the cache may hold it whether or not an instruction of its line has been fetched. -/
def State.codeWord (s : State) (core key : Nat) : Word :=
  let now : Word := BitVec.ofNat 32 (leNat (s.bytesAt key 4))
  let old := (s.core core).icOld.filterMap fun x => if x.1 == key / 4 then some x.2 else none
  if old.isEmpty then now else (now :: old).getD (s.pick (24576 + key / 4 % 1024) % (old.length + 1)) now

/-- R21, R22: the word i words after pc, or the trap of its fetch. -/
def State.fetchWord (s : State) (u : Cursor) (i : Nat) : Except Trap Word :=
  let k := s.block u.b
  let va := (s.arm u).pc + BitVec.ofNat 64 (4 * i)
  match s.translate (codeSide k.core) (s.ctx (s.launch k.launch).ctx) va false true with
  | .error e => .error { cause := e.1, sub := e.2, info := va, atWord := va }
  | .ok x =>
    match flatPage x with
    | some e => .error { cause := e.1, sub := e.2, info := va, atWord := va }
    | none =>
      match s.place x.pa x.host with
      | .mem key => if s.badIn key 4 then .error { cause := 21, info := va, atWord := va } else .ok (s.codeWord k.core key)
      | .peer w o =>
        match s.peerFate (s.importKey w o) with
        | some e => .error { cause := e.1, sub := e.2, info := va, atWord := va }
        | none => .ok (BitVec.ofNat 32 (leNat ((span (s.importKey w o) 4).map s.peerByte)))
      | _ => .error { cause := 3, sub := 1, info := va, atWord := va }

/-- The literal words 1 to n of the instruction at pc. -/
def State.fetchLits (s : State) (u : Cursor) : Nat → Nat → Except Trap (List Word)
  | 0, _ => .ok []
  | n + 1, i =>
    match s.fetchWord u i with
    | .error t => .error t
    | .ok w => match s.fetchLits u n (i + 1) with
      | .error t => .error t
      | .ok l => .ok (w :: l)

/-- R20, R21: the words of the instruction at the arm's pc. -/
def State.fetch (s : State) (u : Cursor) : Except Trap (List Word) :=
  let pc := (s.arm u).pc
  if pc.extractLsb' 0 2 != 0 then .error { cause := 2, info := pc, atWord := pc }
  else
    match s.fetchWord u 0 with
    | .error t => .error t
    | .ok w => match s.fetchLits u (opcodeLength (Base.ofWord w).op / 4 - 1) 1 with
      | .error t => .error t
      | .ok l => .ok (w :: l)

/-- R230, R297, R394: what the fetch of a word leaves: its leaf in the TLBs, the word corrected, an ownership recalled, and what is now known of
a peer's bytes. -/
def State.noteWord (s : State) (u : Cursor) (i : Nat) : State :=
  let k := s.block u.b
  let c := s.ctx (s.launch k.launch).ctx
  let va := (s.arm u).pc + BitVec.ofNat 64 (4 * i)
  let t := s.fillTlb (codeSide k.core) c va
  match s.translate (codeSide k.core) c va false true with
  | .error _ => t
  | .ok x =>
    match s.place x.pa x.host with
    | .mem key => (t.memCorrect key 4).recall [key / 128]
    | .peer w o => (t.peerRead (s.importKey w o) 4).2
    | _ => t
/-- What the fetch of an instruction of n words leaves. -/
def State.noteFetch (s : State) (u : Cursor) (n : Nat) : State :=
  let line := fun (i : Nat) => ((s.arm u).pc.toNat + 4 * i) / 128
  ((List.range n).filter fun i => i == 0 || !s.memGood || line i != line (i - 1)).foldl (fun s i => s.noteWord u i) s

/-! ### One arm's turn -/

/-- R202: an arm whose barrier is done goes on. -/
def State.barWake (s : State) (u : Cursor) : State :=
  match (s.arm u).st with
  | .barw ka _ =>
    if s.barDone u then (s.barRead u ka).modArm u fun a => { a with st := .ready, arrival := none, reason := 0, waited := 0 } else s
  | _ => s
/-- R206: an arm whose `yield` waits for no other wave goes on. -/
def State.yieldWake (s : State) (u : Cursor) : State :=
  match (s.arm u).st with
  | .yield [] => s.modArm u fun a => { a with st := .ready, reason := 0 }
  | _ => s
/-- R162, R206: a wave has issued since a `yield`, or has left the ready state or its core. -/
def State.yieldOver (s : State) (since : Nat) (o : Nat × Nat) : Bool :=
  let k := s.block o.1
  let v := s.wave o.1 o.2
  !k.resident || k.restoring || !v.ready || v.a.lastIssue > since || (v.b.any fun x => x.lastIssue > since)
def State.pruneYield (s : State) (a : Arm) : Arm :=
  match a.st with
  | .yield l => { a with st := .yield (l.filter fun o => !s.yieldOver a.lastIssue o) }
  | _ => a
/-- R206: after a step, each `yield` waits for those waves no more that have issued or are ready no more. -/
def State.pruneYields (s : State) : State :=
  { s with blocks := s.blocks.map fun k => { k with waves := k.waves.map fun v => { v with a := s.pruneYield v.a, b := v.b.map s.pruneYield } } }

/-- R29: an arm that takes a trap does so once its wave's results are written. -/
def State.trapWake (s : State) (u : Cursor) : State :=
  match (s.arm u).st with
  | .trap x => if (s.wave u.b u.w).drained && !(s.wave u.b u.w).halted then s.trapNow u x else s
  | _ => s

/-- R21 and the checks before it (R186, R379, R456): what the arm does at its instruction boundary. -/
def armStep (u : Cursor) (s0 : State) : Host.Outcome State Fault Refusal :=
  let s := { s0.modArm u fun a => { a with reason := 0 } with cur := some u, ranPc := (s0.arm u).pc }
  let v := s.wave u.b u.w
  if v.atRejoin u.armB then exec .rejoin s
  else if !v.pend.isEmpty then exec .takeDeferredFault s
  else if (s.breakpoint u).isSome then exec .breakpointMatch s
  else
    match s.fetch u with
    | .error t => .next (s.takeTrap u 4 t)
    | .ok ws =>
      let t := s.noteFetch u ws.length
      match decode ws with
      | .ok i => exec i t
      | .error _ => exec .illegalInstructionWord t

/-! ### Which arm issues (R216) -/

/-- R216: smallest last-issue time; ties: higher level, lower slot, arm A. -/
def State.issuesBefore (s : State) (x y : Cursor) : Bool :=
  let a := (s.arm x).lastIssue
  let b := (s.arm y).lastIssue
  if a != b then a < b
  else if s.levelOf x != s.levelOf y then s.levelOf x > s.levelOf y
  else if (s.wave x.b x.w).slot != (s.wave y.b y.w).slot then (s.wave x.b x.w).slot < (s.wave y.b y.w).slot
  else !x.armB

/-- R216, R448: the candidates of a core in the order of the choice: ballast only where nothing else is eligible, and only while Annatto's gate
lets it issue. -/
def State.candidates (s : State) (core : Nat) : List Cursor :=
  let l := (s.armsOf core).filter s.eligible
  sortBy s.issuesBefore (l.filter fun u => s.levelOf u ≥ 1) ++
    sortBy s.issuesBefore (l.filter fun u => s.levelOf u == 0 && !s.dev.ballastGated)

/-- The arm has not moved: its instruction is not eligible (R215), for the reason it now carries. -/
def heldBack (u : Cursor) (s t : State) : Bool :=
  (t.arm u).reason != 0 && (t.arm u).pc == (s.arm u).pc && (t.arm u).st == .ready && !(t.wave u.b u.w).halted && !(t.wave u.b u.w).done

/-- R216: the first candidate whose instruction is eligible issues; with none, the core does nothing. -/
def tryArms : List Cursor → State → Bool × Host.Outcome State Fault Refusal
  | [], s => (false, .next s)
  | u :: l, s =>
    match armStep u s with
    | .next t => if heldBack u s t then tryArms l t else (true, .next t)
    | o => (true, o)

/-- R202, R206: barriers and yields that are complete, then the choice. -/
def coreStep (core : Nat) (s : State) : Bool × Host.Outcome State Fault Refusal :=
  if s.dev.stage != 3 then (false, .next s)
  else
    let l := s.armsOf core
    let t := l.foldl State.rehomeWake (l.foldl State.yieldWake (l.foldl State.barWake (l.foldl State.trapWake s)))
    tryArms (t.candidates core) t

end Sys2Proof.Machine
end

