-- ==== Sys2Proof/Machine/Sched.lean ====
section
/-! DEFINITION. What happens next when the agenda does not say (a schedule of the model's own, log 6), the passing of time, and the
loading of one instruction as a program. -/
namespace Sys2Proof.Machine

/-! ### Pending events, in one fixed order (log 6) -/

/-- Events of the waves: results, fences, retries. -/
def State.waveEvents (s : State) : List Instr :=
  ((List.range s.blocks.length).map fun b =>
    if (s.block b).st == .done then [] else
    ((List.range (s.block b).waves.length).map fun w =>
      ((s.wave b w).outst.map fun r => Instr.resultWrite b w r.id) ++
      (if (s.wave b w).a.fence.isSome then [.fenceComplete b w false] else []) ++
      (if (s.wave b w).divided then [.fenceComplete b w true] else [])).flatten).flatten ++
  (s.monitors.filter fun m => m.retry).map fun m => .waitgeRetry m.b m.w m.armB

/-- Events of the memory paths: reports, atomics, Sumac, copies, arrays. -/
def State.pathEvents (s : State) : List Instr :=
  (if s.reports.isEmpty then [] else [.deferredFaultReport 0]) ++
  ((List.range s.atomReqs.length).map Instr.atomicAtTarget) ++
  ((s.sumac.map fun j => if !j.write then [Instr.sumacBlockRead j.id] else [.sumacBlockWrite j.id, .blockWriteApply j.id]).flatten) ++
  ((s.cores.map fun c =>
    ((c.2.copies.map fun y => if y.block.isNone then Instr.copyCapture c.1 y.id else .copyComplete c.1 y.id)) ++
    (c.2.arb.map fun x => if x.granted then Instr.arrayEntryComplete c.1 x.id else .arbiterGrant c.1)).flatten) ++
  ((s.monitors.filter fun m => m.fired).map fun m => .homeSliceWrite m.line)

/-- Events of the channels. -/
def State.channelEvents (s : State) : List Instr :=
  (s.entries.filter fun e => !e.arrived).map (fun e => Instr.inboxDelivery e.id) ++
  s.closedBatches.map (fun y => .batchApply y.core) ++ s.openBatches.map (fun y => .batchTimer y.core y.graph) ++
  (List.range s.sendReqs.length).map (fun i => Instr.creditGrant (.inl i)) ++
  ((List.range s.graphs.length).map fun g => (s.graph g).dirty.map fun q => Instr.frontierWordWrite g q).flatten

/-- Events of the distributor and of firmware. -/
def State.firmEvents (s : State) : List Instr :=
  ((List.range s.launches.length).map fun l =>
    if (s.launch l).done then [] else
    .launchComplete l :: ((List.range (s.launch l).gangs.length).map fun g => [Instr.gangStopComplete l g, .gangRestoreComplete l g]).flatten).flatten ++
  s.dev.unstable.map Instr.dieStable ++
  ((List.range s.ctxs.length).map fun x => if (s.ctx x).live then [Instr.shootdown x, .shootdownDone x, .resume x, .resumeAt x, .endLaunch x] else []).flatten ++
  (s.atomLog.map fun y => .atomicLogDrain y.slice) ++
  (if s.dev.mbSeq == s.dev.mbDone && s.dev.job.isNone then [] else
    [.status, .imageWrite, .restart, .setThr, .setPower, .dumpread, .debugset, .logread, .replay, .monset, .monread]) ++
  (if s.dev.stage == 2 then [.stage3Entry] else [])

/-- The first event of a list that changes anything. -/
def firstEvent : List Instr → State → Option (Host.Outcome State Fault Refusal)
  | [], _ => none
  | i :: l, s =>
    match exec i s with
    | .next t => if t = s then firstEvent l s else some (.next t)
    | o => some o

/-- The cores with resident blocks, turned by the number of steps. -/
def State.busyCores (s : State) : List Nat :=
  let l := (s.blocks.filter fun k => k.resident).foldl (fun a k => if a.contains k.core then a else a ++ [k.core]) []
  l.drop (s.ticks % (l.length + 1)) ++ l.take (s.ticks % (l.length + 1))

/-- The first core with an instruction to issue; what held arms did meanwhile (a request registered, a reason noted) stays. -/
def firstCore (s0 : State) : List Nat → State → Option (Host.Outcome State Fault Refusal)
  | [], s => let t := { s with cur := s0.cur }; if t = s0 then none else some (.next t)
  | c :: l, s =>
    match coreStep c s with
    | (false, .next t) => firstCore s0 l t
    | (_, o) => some o

/-- The model's own schedule: now and then a distributor round; then pending events; then a core; then a round. -/
def State.auto (s : State) : Host.Outcome State Fault Refusal :=
  let round := fun (_ : Unit) => firstEvent ((List.range s.ctxs.length).map Instr.notificationHoldoff ++
    (List.range s.graphs.length).map Instr.externalRecordTake ++ [.distributorRound]) s
  let work := fun (_ : Unit) =>
    match firstEvent (s.pathEvents ++ s.waveEvents ++ s.channelEvents ++ s.firmEvents) s with
    | some o => some o
    | none => firstCore s s.busyCores s
  let first := if s.ticks % 64 == 63 then round () else none
  match first with
  | some o => o
  | none => match work () with
    | some o => o
    | none => (round ()).getD (.next s)

/-! ### Time and the agenda (logs 6 and 9) -/

/-- A step takes time: core clocks and 100 MHz ticks pass by amounts that the model leaves open, flags are raised with their results
(R92), the claims of a clk are served when it ends (R168), waits are counted (R408), each `yield` waits for fewer waves (R206), ROM's authentication may end (R439), and race records may go with their evicted lines (R320). -/
def State.tick (s0 : State) : State :=
  let s := if s0.dev.stage == 1 && s0.pick 4200 % 2 == 1 then s0.authenticate else s0
  let t := (s.evictRaces.countWaits (Config.rawAdvance s.freeCount)).ripen (s.clk + Config.clkAdvance s.freeCount)
  { (t.pruneYields.endClk (Config.clkAdvance s.freeCount)) with
      clk := s.clk + Config.clkAdvance s.freeCount, raw := s.raw + Config.rawAdvance s.freeCount,
      ticks := s.ticks + 1, freeCount := s.freeCount + 1, cur := none, ran := s.cur, ranClk := s.clk }

/-- What the agenda asks for next, or the model's own schedule. -/
def State.turn (s : State) : Host.Outcome State Fault Refusal :=
  match s.agenda with
  | [] => s.auto
  | .event i :: rest => exec i { s with agenda := rest }
  | .core c :: rest => (coreStep c { s with agenda := rest }).2

/-! ### One instruction as a program (log 13) -/

/-- Physical addresses of the three tables and of the instruction. -/
def loadTable : Nat := 0x1000
def loadCode : Nat := 0x10000

/-- R389, R390: a table entry: the next table. -/
def tableEntry (pa : Nat) : List Byte := leBytes 8 (pa + 1)
/-- A 1 GiB leaf at physical address 0 with W and X, homed on a die. -/
def leafEntry (die : Nat) : List Byte := leBytes 8 (0xF + die * 512)

/-- The bytes that make an instruction reachable at virtual address 0x10000: the tables, then the instruction. -/
def loadCells (die : Nat) (code : List Byte) : List (Nat × Byte) :=
  cellsAt loadTable (tableEntry 0x2000) ++ cellsAt 0x2000 (tableEntry 0x3000) ++ cellsAt 0x3000 (leafEntry die) ++ cellsAt loadCode code

/-- The context, launch, gang, block and one-lane wave that run it. -/
def State.loadLaunch (s : State) (die : Nat) : Launch :=
  { ctx := s.ctxs.length, queue := 0, seq := 0, entry := BitVec.ofNat 64 loadCode, waves := 1, lanes := 1, octets := 32, granules := 128
    arrays := true
    gangs := [{ number := 0, vdie := 0, die := die, x0 := 0, y0 := 0, st := .placed, blocks := [s.blocks.length] }] }
def State.loadBlock (s : State) (die : Nat) (n : Launch) : Block :=
  { launch := s.launches.length, gang := 0, index := 0, die := die, core := 64 * die, vdie := 0, base := 0
    waves := [startWave n 0 0 (nextRes (sget 0 (s.core (64 * die)).res 0)) s.ticks], placed := s.ticks }
/-- An ASID that no live context has. -/
def State.loadAsid (s : State) : Nat := ((List.range (s.ctxs.length + 1)).find? fun a => !s.ctxs.any fun c => c.live && c.asid == a).getD 0
def State.loadCtx (s : State) (die : Nat) : Context :=
  { number := s.ctxs.length, asid := s.loadAsid, root := loadTable, rootHost := false, ccb := 0
    vdies := [BitVec.ofNat 8 (128 + die)], saveBase := 0, saveSize := 0, swapUs := 0, hang := 0, slices := [] }

/-- A program of one instruction, placed and about to issue on the first enabled die's core 0; every other block leaves its core. -/
def State.loadProgram (s : State) (code : List Byte) : State :=
  let die := s.dies.headD 0
  let n := s.loadLaunch die
  { (s.dropTlb s.loadAsid 0 0).putBytes none (loadCells die code) with
    ctxs := s.ctxs ++ [s.loadCtx die]
    launches := s.launches ++ [n]
    blocks := (s.blocks.map fun k => if k.core == 64 * die then { k with st := .done } else k) ++ [s.loadBlock die n]
    dev := { s.dev with stage := 3 }
    agenda := [.core (64 * die)] }

end Sys2Proof.Machine
end

