-- ==== Sys2Proof/Machine/Step.lean ====
section
/-! DEFINITION. One step of the device: time passes, then what the agenda or the model's own schedule says happens. -/
namespace Sys2Proof.Machine

/-- One step (R21, R216; logs 6 and 9). -/
def step (s : State) : Host.Outcome State Fault Refusal := s.tick.turn

/-- s with the instruction of table bits w as the program that the very next step runs (log 13). -/
def State.withFetchWord (s : State) (nbits w : Nat) : State := s.loadProgram (tableBytes nbits w)

end Sys2Proof.Machine
end

