-- ==== Sys2Proof/Safety.lean ====
section
/-! DEFINITION. What claims say: runs, the parts of the state that every step keeps in form, when an instruction issues, and
what a result leaves unchanged. -/
namespace Sys2Proof.Machine

/-! ### Runs -/

/-- The state after k steps, where none of them stops. -/
def after : Nat → State → Option State
  | 0, s => some s
  | k + 1, s => match step s with | .next t => after k t | _ => none

/-- A state from which k steps run without a stop. -/
def safeFor (k : Nat) (s : State) : Prop := (after k s).isSome

/-- R31, R222: memory lists each address once, in rising order, and nothing that an unlisted address reads as. -/
def State.memWf (s : State) : Bool := Memory.wf s.mem

/-! ### When an instruction issues -/

/-- R21, R27, R44, R301: arm u issues an instruction with switch marker sw that names what f says: the arm is there, its marker waits
for nothing, no incomplete fence stops it, none of the checks of R44 fails, and no source word has an error (R387). -/
structure MayIssue (s : State) (u : Cursor) (sw : Bool) (f : Env → Form) : Prop where
  cur : s.cur = some u
  block : u.b < s.blocks.length
  wave : u.w < (s.block u.b).waves.length
  arm : u.armB = true → (s.wave u.b u.w).b.isSome = true
  free : s.mustPark u sw = false
  fence : (f ((s.beginSegment u sw).env u)).mem = true → (s.arm u).fence = none
  ok : (f ((s.beginSegment u sw).env u)).check ((s.beginSegment u sw).env u) = none
  clean : (f ((s.beginSegment u sw).env u)).badSource ((s.beginSegment u sw).env u) = none
  soft : (f ((s.beginSegment u sw).env u)).softSources ((s.beginSegment u sw).env u) = []
/-- The same, where no register that the instruction names belongs to a result whose flags are still due (R26, R92; LateFlagsRaised
reduces every other case to this one). -/
structure Issues (s : State) (u : Cursor) (sw : Bool) (f : Env → Form) : Prop extends MayIssue s u sw f where
  ready : ∀ x ∈ (s.wave u.b u.w).late, ∀ q ∈ x.regs, q ∉ (f ((s.beginSegment u sw).env u)).regs (modeGP (s.arm u).mode)

/-! ### The order of floating values (R116, R118) -/

/-- One value is less than another, as numbers: −∞ below every finite value, those below +∞, zeros equal, and a NaN related to nothing. -/
def Num.below : Num → Num → Prop
  | .nan _ _ _, _ => False
  | _, .nan _ _ _ => False
  | .inf s, .inf t => s = true ∧ t = false
  | .inf s, .fin _ _ _ => s = true
  | .fin _ _ _, .inf t => t = false
  | .fin s m p, .fin t n q =>
    let at' := fun (neg : Bool) (k : Nat) (x : Int) => (if neg then -1 else 1) * ((k * 2 ^ (x - min p q).toNat : Nat) : Int)
    at' s m p < at' t n q

/-! ### What an instruction leaves unchanged -/

/-- No other wave or block changes. -/
structure BlocksKept (s t : State) (u : Cursor) : Prop where
  blocks : ∀ b, b ≠ u.b → t.block b = s.block b
  block : { t.block u.b with waves := (s.block u.b).waves } = s.block u.b
  waves : ∀ w, w ≠ u.w → t.wave u.b w = s.wave u.b w
/-- No other wave or block changes, and no byte of memory. -/
structure PlacesKept (s t : State) (u : Cursor) : Prop extends BlocksKept s t u where
  memory : ∀ a, t.byteAt a = s.byteAt a
/-- Nothing changes outside the wave of arm u: no other wave or block, no byte of memory, no other field of the device. -/
structure OthersKept (s t : State) (u : Cursor) : Prop extends PlacesKept s t u where
  fields : { t with blocks := s.blocks } = s

/-- The arm of u goes on at pc; S = 1 has emptied its destination mask (R27); of the wave only registers, status and arm have
changed, and the other arm not at all. -/
structure ArmWent (s t : State) (u : Cursor) (sw : Bool) (pc : DWord) : Prop where
  pc : (t.arm u).pc = pc
  dmask : (t.arm u).dmask = if sw then 0 else (s.arm u).dmask
  arm : { t.arm u with pc := (s.arm u).pc, dmask := (s.arm u).dmask, lastIssue := (s.arm u).lastIssue, reason := (s.arm u).reason,
                       skipBp := (s.arm u).skipBp } = s.arm u
  other : (t.wave u.b u.w).arm (!u.armB) = (s.wave u.b u.w).arm (!u.armB)
  wave : { t.wave u.b u.w with
             v := (s.wave u.b u.w).v, k := (s.wave u.b u.w).k, p := (s.wave u.b u.w).p, status := (s.wave u.b u.w).status
             late := (s.wave u.b u.w).late, softRegs := (s.wave u.b u.w).softRegs, badRegs := (s.wave u.b u.w).badRegs
             a := (s.wave u.b u.w).a, b := (s.wave u.b u.w).b } = s.wave u.b u.w

/-- Registers of the wave that are not named keep their values: vector registers but those of dv by register and lane, uniform
registers but dk, predicates but dp by register and lane. -/
structure RegsKept (s t : State) (u : Cursor) (dv : Nat → Nat → Prop) (dk : Nat → Prop) (dp : Nat → Nat → Prop) : Prop where
  v : ∀ r i, i < 1024 → ¬ dv r i → (t.wave u.b u.w).vreg r i = (s.wave u.b u.w).vreg r i
  k : ∀ n, ¬ dk n → (t.wave u.b u.w).kreg n = (s.wave u.b u.w).kreg n
  p : ∀ n i, i < 1024 → ¬ dp n i → ((t.wave u.b u.w).preg n).getLsbD i = ((s.wave u.b u.w).preg n).getLsbD i

/-- The registers of an operand of one register or a pair. -/
def regsOf (pair : Bool) (d : Nat) (r : Nat) : Prop := r = d ∨ (pair = true ∧ r = d + 1)
/-- What a register, or a pair, holds of a 64-bit value. -/
def heldIn (pair : Bool) (x : DWord) : DWord := if pair then x else (x.setWidth 32).setWidth 64
/-- The flags raised over lanes (R76). -/
def flagsOver (lanes : List Nat) (f : Nat → BitVec 8) : BitVec 8 := lanes.foldl (fun a i => a ||| f i) 0

/-- R26, R92: the flags of a fixed-latency result, where it has any, join those that are due: with the registers that it writes (as
LateFlags names them) and a later clk; status itself is as before. -/
structure FlagsDue (s t : State) (u : Cursor) (f : BitVec 8) (regs : Nat → Prop := fun _ => False) : Prop where
  status : (t.wave u.b u.w).status = (s.wave u.b u.w).status
  none : f = 0 → (t.wave u.b u.w).late = (s.wave u.b u.w).late
  due : f ≠ 0 → ∃ x : LateFlags, (t.wave u.b u.w).late = (s.wave u.b u.w).late ++ [x] ∧ x.flags = f ∧ s.clk < x.ready ∧ ∀ q, q ∈ x.regs ↔ regs q

/-- A fixed-latency result over the active lanes (R19, R26, R76): vD holds f of each active lane, the flags are due, the arm goes on len
bytes later, and nothing else changes. -/
structure LaneResult (s t : State) (u : Cursor) (sw : Bool) (len d : Nat) (pair : Bool) (f : Nat → DWord × BitVec 8) : Prop where
  others : OthersKept s t u
  went : ArmWent s t u sw ((s.arm u).pc + BitVec.ofNat 64 len)
  kept : RegsKept s t u (fun r i => i ∈ (s.env u).lanes ∧ regsOf pair d r) (fun _ => False) (fun _ _ => False)
  value : ∀ i ∈ (s.env u).lanes, (t.env u).elem pair d i = heldIn pair (f i).1
  flags : FlagsDue s t u (flagsOver (s.env u).lanes fun i => (f i).2) (regsOf pair d)

/-- R25, R92: the flags of a blocking result are raised when it completes; those on their way stay so. -/
structure FlagsRaised (s t : State) (u : Cursor) (f : BitVec 8) : Prop where
  status : (t.wave u.b u.w).status = (s.wave u.b u.w).status ||| f.setWidth 32
  late : (t.wave u.b u.w).late = (s.wave u.b u.w).late
/-- A blocking result over the active lanes (R25, R26, R76): as a fixed-latency one, but its flags are raised at once. -/
structure BlockingResult (s t : State) (u : Cursor) (sw : Bool) (len d : Nat) (pair : Bool) (f : Nat → DWord × BitVec 8) : Prop where
  others : OthersKept s t u
  went : ArmWent s t u sw ((s.arm u).pc + BitVec.ofNat 64 len)
  kept : RegsKept s t u (fun r i => i ∈ (s.env u).lanes ∧ regsOf pair d r) (fun _ => False) (fun _ _ => False)
  value : ∀ i ∈ (s.env u).lanes, (t.env u).elem pair d i = heldIn pair (f i).1
  flags : FlagsRaised s t u (flagsOver (s.env u).lanes fun i => (f i).2)

/-- A condition over the active lanes, into a predicate (R19; R13: a write to p0 is discarded). -/
structure CondResult (s t : State) (u : Cursor) (sw : Bool) (len pd : Nat) (f : Nat → Bool × BitVec 8) : Prop where
  others : OthersKept s t u
  went : ArmWent s t u sw ((s.arm u).pc + BitVec.ofNat 64 len)
  kept : RegsKept s t u (fun _ _ => False) (fun _ => False) (fun n i => i ∈ (s.env u).lanes ∧ n = pd ∧ pd ≠ 0)
  value : pd ≠ 0 → ∀ i ∈ (s.env u).lanes, ((t.wave u.b u.w).preg pd).getLsbD i = (f i).1
  flags : FlagsDue s t u (flagsOver (s.env u).lanes fun i => (f i).2) (fun q => q = 320 + pd)

/-- A uniform result, once for the wave. -/
structure UniformResult (s t : State) (u : Cursor) (sw : Bool) (pc : DWord) (kd : Nat) (x : DWord) : Prop where
  others : OthersKept s t u
  went : ArmWent s t u sw pc
  kept : RegsKept s t u (fun _ _ => False) (fun n => n = kd) (fun _ _ => False)
  value : (t.wave u.b u.w).kreg kd = x
  flags : FlagsDue s t u 0

/-- A variable-latency result (R25, R28): the arm goes on len bytes later, the result's mask bits enter its destination mask, the
result is outstanding with its values bound, and no register, flag or byte of memory has changed yet; nor has the rest of the arm (its lanes,
mode, scope, fence, arrival record and state), or the other arm. -/
structure ResultPending (s t : State) (u : Cursor) (sw : Bool) (len : Nat) (kind : ResKind) (f : Eff) (bits : List Nat) : Prop where
  places : PlacesKept s t u
  pc : (t.arm u).pc = (s.arm u).pc + BitVec.ofNat 64 len
  dmask : (t.arm u).dmask = (if sw then 0 else (s.arm u).dmask) ||| dmaskOf bits
  arm : { t.arm u with pc := (s.arm u).pc, dmask := (s.arm u).dmask, lastIssue := (s.arm u).lastIssue, reason := (s.arm u).reason,
                       skipBp := (s.arm u).skipBp } = s.arm u
  other : (t.wave u.b u.w).arm (!u.armB) = (s.wave u.b u.w).arm (!u.armB)
  result : ∃ r : OutRes, (t.wave u.b u.w).outst = (s.wave u.b u.w).outst ++ [r] ∧ r.kind = kind ∧ r.eff = f ∧ r.id = s.nextId ∧
    r.owner = if u.armB then 1 else 0
  wave : { t.wave u.b u.w with outst := (s.wave u.b u.w).outst, a := (s.wave u.b u.w).a, b := (s.wave u.b u.w).b } = s.wave u.b u.w
/-- The same, of an instruction that changes no other field of the device. -/
structure PendingResult (s t : State) (u : Cursor) (sw : Bool) (len : Nat) (kind : ResKind) (f : Eff) (bits : List Nat) : Prop
    extends ResultPending s t u sw len kind f bits where
  fields : { t with blocks := s.blocks, nextId := s.nextId } = s

/-- Control flow: the arm goes to pc and no register, flag or byte of memory changes. -/
structure PcResult (s t : State) (u : Cursor) (sw : Bool) (pc : DWord) : Prop where
  others : OthersKept s t u
  went : ArmWent s t u sw pc
  kept : RegsKept s t u (fun _ _ => False) (fun _ => False) (fun _ _ => False)
  flags : FlagsDue s t u 0

/-- R215: the instruction is not eligible yet: the arm stays at it, with a reason of R454, and only its switch marker has acted (R27). -/
structure StaysHeld (s t : State) (u : Cursor) (sw : Bool) (reason : Nat) : Prop where
  others : OthersKept s t u
  arm : t.arm u = { s.arm u with dmask := if sw then 0 else (s.arm u).dmask, reason := reason }
  other : (t.wave u.b u.w).arm (!u.armB) = (s.wave u.b u.w).arm (!u.armB)
  wave : { t.wave u.b u.w with a := (s.wave u.b u.w).a, b := (s.wave u.b u.w).b } = s.wave u.b u.w

/-- A store to memory (R144, R147): bytes outside every lane's size bytes keep their values; inside, the highest-numbered lane's byte
is there, bytes with an uncorrectable error apart (R146). -/
structure BytesStored (s t : State) (lanes : List Nat) (size : Nat) (key : Nat → Nat) (data : Nat → DWord) : Prop where
  kept : ∀ a, (∀ i ∈ lanes, a < key i ∨ key i + size ≤ a) → t.byteAt a = s.byteAt a
  stored : ∀ i ∈ lanes, ∀ j, j < size → (∀ i' ∈ lanes, i < i' → key i + j < key i' ∨ key i' + size ≤ key i + j) →
    s.badIn (key i + j) 1 = false → t.byteAt (key i + j) = (data i).extractLsb' (8 * j) 8
/-- The arm goes on at pc and neither a register nor a flag of its wave, nor another wave or block, changes. -/
structure WaveWent (s t : State) (u : Cursor) (sw : Bool) (pc : DWord) : Prop where
  blocks : BlocksKept s t u
  went : ArmWent s t u sw pc
  kept : RegsKept s t u (fun _ _ => False) (fun _ => False) (fun _ _ => False)
  flags : FlagsDue s t u 0

/-! ### Where accesses reach -/

/-- R145, R222: where an aligned access of size bytes reaches memory through a plain page without race checks. -/
def State.plainKey (s : State) (e : Env) (size : Nat) (write : Bool) (va : DWord) : Option Nat :=
  match s.translate (dataSide e.core) e.cx va write false with
  | .error _ => none
  | .ok x =>
    if va.toNat % size == 0 && !x.enc && !x.aper && !x.rc then
      (match s.place x.pa x.host with | .mem k => some k | _ => none)
    else none
/-- R223, R229, R230, R268 to R269: a range of a block's scratchpad that answers at once: aligned, allocated, in no bank that is changing its
mode, in a block without race checks, and correctable: of its codewords no bank but the one given has failed or is lost. -/
def State.plainScr (s : State) (e : Env) (b size bank o : Nat) : Bool :=
  o % size == 0 && o + size ≤ s.allocation (s.block b) && !e.ln.racing &&
  (span ((s.block b).base + o) size).all fun a => ((s.core (s.block b).core).failing a).all (· == bank) && !s.switching (s.block b).core [a]

/-- R391, R394: what is cached for the used addresses of a context agrees with its tables, and no table byte of their walks is among the changed
ones: every translation of theirs stays as it is. -/
structure TablesSettled (s : State) (c : Context) (used : DWord → Prop) (changed : Nat → Prop) : Prop where
  leaves : ∀ va, used va → ∀ e ∈ s.tlb, e.asid = c.asid → e.va ≤ va.toNat → va.toNat < e.va + e.size →
    ({ s with tlb := [], walks := [] } : State).walk c va = .ok { pa := e.pa + (va.toNat - e.va), size := e.size, attr := e.attr }
  pointers : ∀ va, used va → ∀ p ∈ s.walks, p.asid = c.asid → p.page = va.toNat / 2 ^ (12 + 9 * p.lvl) →
    p ∈ ({ s with tlb := [], walks := [] } : State).pointersFrom c.asid va [4, 3, 2, 1, 0] c.root c.rootHost
  tables : ∀ va, used va → ∀ k ∈ ({ s with tlb := [], walks := [] } : State).walkKeys c.asid va [4, 3, 2, 1, 0] c.root c.rootHost, ∀ j, j < 8 → ¬ changed (k + j)

/-- R310, R311: no block read or write of arm u stands in the way of an access to the block at a key: of a read, a write; of a write, any. -/
def State.jobFree (s : State) (u : Cursor) (write : Bool) (key : Nat) : Prop :=
  ∀ j ∈ s.sumac, j.key = key → write = true ∨ j.write = true → s.myJob u.b u.w u.armB j = false

/-- Bytes at a key are those of a list, and every other byte of memory is as before. -/
structure BytesPut (s t : State) (key : Nat) (l : List Byte) : Prop where
  kept : ∀ a, a < key ∨ key + l.length ≤ a → t.byteAt a = s.byteAt a
  put : ∀ j, j < l.length → t.byteAt (key + j) = l.getD j 0
/-- R233, R297, R303, R322: only memory, with what follows its writes (caches, monitors, the ownership of lines, records of races and errors),
has changed. -/
structure OnlyMemory (s t : State) : Prop where
  fields : { t with mem := s.mem, memFail := s.memFail, memBad := s.memBad, l2Fail := s.l2Fail, race := s.race, sync := s.sync, monitors := s.monitors,
                      preds := s.preds, cores := s.cores, agentMons := s.agentMons } = s
  cores : ∀ c, { t.core c with l1 := (s.core c).l1, l1Old := (s.core c).l1Old, icOld := (s.core c).icOld, pcache := (s.core c).pcache,
                               decoded := (s.core c).decoded } = s.core c

/-- R208, R230, R393: n bytes at an address of a context that an engine reaches together from a key of memory, and none of them at a peer; nothing
of memory has an error. -/
structure State.RangeAt (s : State) (c : Context) (va : DWord) (write : Bool) (n key : Nat) : Prop where
  keys : s.engineKeys 8 c va write (n / 4096 + 2) n = .ok (span key n)
  own : key + n ≤ peerBit
  good : s.memGood = true

/-! ### Deliveries -/

/-- R358: of the pending entries l, e may become visible: it and every one sent before it by its core on its channel to its inbox have arrived
at an inbox that stands, and their +1 is applied. -/
def State.mayShow (s : State) (l : List Entry) (e : Entry) : Bool :=
  l.all fun d => !(decide (d.id ≤ e.id) && d.graph == e.graph && d.core == e.core && d.chan == e.chan && d.cons == e.cons) ||
    (d.arrived && d.applied && (match d.cons with | some b => ((s.block b).inbox d.port).isSome && (s.block b).saved.isNone | none => false))
/-- R358, R362: those of l that may become visible do: the others stay pending, each inbox's TAIL counts those it shows, and its HEAD moves only
on; of the blocks only inboxes, held and reserved units and the results of waiting receives change. -/
structure EntriesShown (s t : State) (l : List Entry) : Prop where
  pending : ∀ e, e ∈ t.entries ↔ e ∈ l ∧ s.mayShow l e = false
  tails : ∀ b p x, b < s.blocks.length → (s.block b).inbox p = some x → ∃ y, (t.block b).inbox p = some y ∧ x.head ≤ y.head ∧
    y.tail = x.tail + (l.filter fun e => s.mayShow l e && e.cons == some b && e.port == p).length
  blocks : ∀ b, { t.block b with inboxes := (s.block b).inboxes, held := (s.block b).held, reserved := (s.block b).reserved, waves := (s.block b).waves } = s.block b
  waves : ∀ b w, { t.wave b w with outst := (s.wave b w).outst } = s.wave b w

/-! ### Traps and halts -/

/-- R29, R156: a trap of this wave would enter its handler at once: no result is outstanding and no report on its way, no handler runs, the
launch names one. -/
structure TakesTraps (s : State) (u : Cursor) : Prop where
  drained : (s.wave u.b u.w).outst = []
  quiet : ∀ r ∈ s.reports, ¬ (r.b = u.b ∧ r.w = u.w)
  running : (s.wave u.b u.w).status.getLsbD 8 = false
  handler : (s.launch (s.block u.b).launch).handler ≠ 0

/-- R151, R156: the handler is entered: fault0 holds CAUSE, DEF and the resume address, fault1 INFO, HND is set, the destination mask is
empty, every flag on its way is raised, the arm is at the handler and waits for no credits any more (R363); nothing else changes. -/
structure TrapEntered (s t : State) (u : Cursor) (cause : Nat) (deferred : Bool) (pc info : DWord) : Prop where
  others : OthersKept s { t with sendReqs := s.sendReqs } u
  asked : t.sendReqs = (s.dropSend u).sendReqs
  arm : t.arm u = { s.arm u with pc := (s.launch (s.block u.b).launch).handler, dmask := 0, st := .ready, skipBp := false,
                                 skipAt := if (s.arm u).skipBp then some (s.arm u).pc else (s.arm u).skipAt }
  other : (t.wave u.b u.w).arm (!u.armB) = (s.wave u.b u.w).arm (!u.armB)
  fault0 : (t.wave u.b u.w).fault0 = BitVec.ofNat 5 cause ++ BitVec.ofBool deferred ++ 0#1 ++ pc.setWidth 57
  fault1 : (t.wave u.b u.w).fault1 = info
  status : (t.wave u.b u.w).status = (s.wave u.b u.w).status ||| (s.wave u.b u.w).lateFlags.setWidth 32 ||| 0x100
  late : (t.wave u.b u.w).late = []
  owner : (t.wave u.b u.w).handlerB = u.armB ∧ (t.wave u.b u.w).handlerArm = (s.wave u.b u.w).b.isSome
  wave : { t.wave u.b u.w with
             fault0 := (s.wave u.b u.w).fault0, fault1 := (s.wave u.b u.w).fault1, status := (s.wave u.b u.w).status
             late := (s.wave u.b u.w).late, handlerB := (s.wave u.b u.w).handlerB, handlerArm := (s.wave u.b u.w).handlerArm, a := (s.wave u.b u.w).a, b := (s.wave u.b u.w).b } = s.wave u.b u.w

/-- R143, R381, R386: the wave halts with its arm at stop, and the record of the halt is posted; nothing else changes. -/
def HaltedWith (s : State) (u : Cursor) (cause sub : Nat) (stop info atWord : DWord) (o : Host.Outcome State Fault Refusal) : Prop :=
  ∃ m : State, OthersKept s { m with sendReqs := s.sendReqs } u ∧ m.sendReqs = (s.dropSend u).sendReqs ∧ (m.arm u).pc = stop ∧ (m.wave u.b u.w).halted = true ∧
    (m.wave u.b u.w).status = (s.wave u.b u.w).status ||| (s.wave u.b u.w).lateFlags.setWidth 32 ∧ (m.wave u.b u.w).late = [] ∧
    { m.wave u.b u.w with halted := (s.wave u.b u.w).halted, status := (s.wave u.b u.w).status, late := (s.wave u.b u.w).late, a := (s.wave u.b u.w).a, b := (s.wave u.b u.w).b } = s.wave u.b u.w ∧
    o = .next (m.post (s.launch (s.block u.b).launch).ctx
      { cause := cause, sub := sub, halted := true, site := (s.arm u).pc, seq := (s.launch (s.block u.b).launch).seq
        gid := waveId (s.block u.b).core (s.wave u.b u.w).slot (s.wave u.b u.w).res, queue := (s.launch (s.block u.b).launch).queue
        stop := stop, info := info, atWord := atWord, gang := (s.gang (s.block u.b).launch (s.block u.b).gang).number
        block := (s.block u.b).index, wave := u.w, die := (s.block u.b).die })

end Sys2Proof.Machine
end

