-- ==== Sys2Proof/Certificates/Slice0/Obligations.lean ====
section
/-! DEFINITION. The statements for the provers.  Each says what its docstring says of every state that meets its hypotheses. -/
open Sys2Proof Sys2Proof.Machine

/-- For every state in which the instruction issues, add, sub, mul, mad, abs, neg, addi and subi answer a next state in which vD holds, in each active lane, the exact integer result fitted once into the element type (R65), the flags of all active lanes are due (raised in status from then on, R92), the arm goes on after the instruction, and no other register, lane, flag, byte of memory or field of the device changes.
(04_number_formats.md, 05_integer_instructions.md, R96, R93) -/
def Obligations.IntegerSums : Prop :=
  ∀ (s : State) (u : Cursor) (sw : Bool) (d a b : VReg) (imm : Word),
    let e := s.env u
    ∀ x ∈ ([(.add sw d a b, 4, [a, b], fun i => e.int a i + e.int b i),
            (.sub sw d a b, 4, [a, b], fun i => e.int a i - e.int b i),
            (.mul sw d a b, 4, [a, b], fun i => e.int a i * e.int b i),
            (.mad sw d a b, 4, [a, b, d], fun i => e.int a i * e.int b i + e.int d i),
            (.abs sw d a, 4, [a], fun i => ((e.int a i).natAbs : Int)),
            (.neg sw d a, 4, [a], fun i => -(e.int a i)),
            (.addi sw d a imm, 8, [a], fun i => e.int a i + intVal e.et (imm.signExtend 64)),
            (.subi sw d a imm, 8, [a], fun i => e.int a i - intVal e.et (imm.signExtend 64))] :
           List (Instr × Nat × List VReg × (Nat → Int))),
      Issues s u sw (vForm clsI d x.2.2.1) →
      ∃ t, exec x.1 s = .next t ∧ LaneResult s t u sw x.2.1 d.toNat e.pair fun i => fitInt e.et e.sat (x.2.2.2 i)

/-- For every integer type, an exact result in range is stored unchanged without a flag; one out of range wraps modulo 2^w without a flag when SAT = 0, and becomes the nearest bound with SV when SAT = 1; and the value read back of the stored pattern is that number.
(R63, R65) -/
def Obligations.IntegerFit : Prop :=
  ∀ (et : Nat) (sat : Bool) (v : Int), et ≤ 7 →
    let lo := intMin et
    let hi := intMax et
    let r := fitInt et sat v
    (lo ≤ v ∧ v ≤ hi → intVal et r.1 = v ∧ r.2 = 0) ∧
    (v < lo → intVal et r.1 = (if sat then lo else (v - lo) % 2 ^ intBits et + lo) ∧ r.2 = if sat then fSV else 0) ∧
    (hi < v → intVal et r.1 = (if sat then hi else (v - lo) % 2 ^ intBits et + lo) ∧ r.2 = if sat then fSV else 0)

/-- For every state in which the instruction issues, mulhi, min, max, and, or, xor, andn, not, the shifts and rotates by a register or an immediate, popc, clz, ctz, brev, sext, zext, bfx and bfi answer a next state in which vD holds the stated value of each active lane, no flag is raised, the arm goes on after the instruction, and nothing else changes.
(R97, R101, R102, R103, R104, R105, R106) -/
def Obligations.IntegerBits : Prop :=
  ∀ (s : State) (u : Cursor) (sw : Bool) (d a b : VReg) (n pos len : BitVec 6) (m : BitVec 8),
    let e := s.env u
    let w := intBits e.et
    let cnt := fun i => (e.wv.vreg b.toNat i).toNat
    let shift := fun (f : Nat → Nat → Nat → Nat) i => ((f w (e.pat a i) (cnt i) : Nat) : Int)
    let shiftI := fun (f : Nat → Nat → Nat → Nat) i => ((f w (e.pat a i) n.toNat : Nat) : Int)
    (∀ x ∈ ([(.mulhi sw d a b, 4, [a, b], fun i => e.int a i * e.int b i / 2 ^ w),
             (.min sw d a b, 4, [a, b], fun i => if e.int a i ≤ e.int b i then e.int a i else e.int b i),
             (.max sw d a b, 4, [a, b], fun i => if e.int a i ≤ e.int b i then e.int b i else e.int a i),
             (.and sw d a b, 4, [a, b], fun i => (e.get a i &&& e.get b i).toNat),
             (.or sw d a b, 4, [a, b], fun i => (e.get a i ||| e.get b i).toNat),
             (.xor sw d a b, 4, [a, b], fun i => (e.get a i ^^^ e.get b i).toNat),
             (.andn sw d a b, 4, [a, b], fun i => (e.get a i &&& ~~~(e.get b i)).toNat),
             (.not sw d a, 4, [a], fun i => (~~~(e.get a i)).toNat),
             (.shli sw d a n, 4, [a], shiftI shiftL), (.shri sw d a n, 4, [a], shiftI shiftR), (.sari sw d a n, 4, [a], shiftI shiftA),
             (.popc sw d a, 4, [a], fun i => bitCount w (e.pat a i)), (.clz sw d a, 4, [a], fun i => leadZeros w (e.pat a i)),
             (.ctz sw d a, 4, [a], fun i => trailZeros w (e.pat a i)), (.brev sw d a, 4, [a], fun i => bitReverse w (e.pat a i)),
             (.sext sw d a m, 4, [a], fun i => if m.toNat ≥ w then (e.pat a i : Int) else sextInt m.toNat (e.pat a i % 2 ^ m.toNat)),
             (.zext sw d a m, 4, [a], fun i => if m.toNat ≥ w then (e.pat a i : Int) else (e.pat a i % 2 ^ m.toNat : Nat)),
             (.bfx sw d a pos len, 8, [a], fun i => bitExtract e.et (e.int a i) pos.toNat len.toNat),
             (.bfi sw d a pos len, 8, [a, d], fun i => bitInsert w (e.pat d i) (e.pat a i) pos.toNat len.toNat)] :
            List (Instr × Nat × List VReg × (Nat → Int))),
       Issues s u sw (vForm clsI d x.2.2.1) →
       ∃ t, exec x.1 s = .next t ∧ LaneResult s t u sw x.2.1 d.toNat e.pair fun i => (intReg e.et (x.2.2.2 i), 0)) ∧
    (∀ x ∈ ([(.shl sw d a b, shift shiftL), (.shr sw d a b, shift shiftR), (.sar sw d a b, shift shiftA),
             (.rol sw d a b, shift rotL), (.ror sw d a b, shift rotR)] : List (Instr × (Nat → Int))),
       Issues s u sw (fun e => let g := vForm clsI d [a] e; { g with vs := g.vs ++ [one b] }) →
       ∃ t, exec x.1 s = .next t ∧ LaneResult s t u sw 4 d.toNat e.pair fun i => (intReg e.et (x.2 i), 0))

/-- Bit j of a left shift by c is bit j − c of the source, and 0 below c; of a logical right shift bit j + c, and 0 beyond the width; of an arithmetic one the sign bit there; a count of the width or more leaves zeros, or copies of the sign; rotates by c take the bit c places away modulo the width; bit reversal takes bit w − 1 − j. The population count of a word is its lowest bit and the count of the rest; leading (trailing) zeros are as many zero bits as stand above the highest (below the lowest) one, all w where there is none. A field of len bits from pos reads 0 for len = 0, else bits pos to pos + len − 1 of the value: unsigned, or in two's complement of len bits under a signed type; sign extension of n bits is the number in two's complement with those bits; an inserted field holds the source's low bits, dropped at the width, and every other bit is the base's.
(R103, R104, R105, R106) -/
def Obligations.ShiftBits : Prop :=
  (∀ (w x c j : Nat), 0 < w → x < 2 ^ w → j < w →
    (shiftL w x c).testBit j = (decide (c ≤ j) && x.testBit (j - c)) ∧
    (shiftR w x c).testBit j = x.testBit (j + c) ∧
    (shiftA w x c).testBit j = (if j + c < w then x.testBit (j + c) else x.testBit (w - 1)) ∧
    (rotR w x c).testBit j = x.testBit ((j + c) % w) ∧
    (rotL w x c).testBit ((j + c) % w) = x.testBit j ∧
    (bitReverse w x).testBit j = x.testBit (w - 1 - j)) ∧
  (∀ (w x : Nat), bitCount 0 x = 0 ∧ bitCount (w + 1) x = x % 2 + bitCount w (x / 2)) ∧
  (∀ (w x : Nat), x < 2 ^ w →
    leadZeros w x ≤ w ∧ (leadZeros w x < w → x.testBit (w - 1 - leadZeros w x) = true) ∧ (∀ i, w - leadZeros w x ≤ i → x.testBit i = false) ∧
    trailZeros w x ≤ w ∧ (trailZeros w x < w → x.testBit (trailZeros w x) = true) ∧ ∀ i, i < trailZeros w x → x.testBit i = false) ∧
  (∀ (et pos len : Nat) (v : Int), et ≤ 7 →
    let r := bitExtract et v pos len
    let f := v / 2 ^ pos
    (len = 0 → r = 0) ∧ (intSigned et = false → r = f % 2 ^ len) ∧
    (intSigned et = true → 0 < len → r % 2 ^ len = f % 2 ^ len ∧ -2 ^ (len - 1) ≤ r ∧ r < 2 ^ (len - 1))) ∧
  (∀ (n x : Nat), 0 < n → x < 2 ^ n → sextInt n x % 2 ^ n = x ∧ -2 ^ (n - 1) ≤ sextInt n x ∧ sextInt n x < 2 ^ (n - 1)) ∧
  (∀ (w base x pos len j : Nat), base < 2 ^ w → bitInsert w base x pos len < 2 ^ w ∧
    (j < w → (bitInsert w base x pos len).testBit j = if pos ≤ j ∧ j < pos + len then x.testBit (j - pos) else base.testBit j))

/-- For every state in which div or rem issues, it answers a next state with one outstanding result of vD: in each active lane the quotient truncated towards zero, or the remainder with the sign of vA; division by zero gives all ones, or vA, with DZ (NV for 0 / 0). No register or byte of memory changes before the result is written, and vD enters the destination mask.
(R94, R99, R25, R28) -/
def Obligations.IntegerDivision : Prop :=
  ∀ (s : State) (u : Cursor) (sw : Bool) (d a b : VReg),
    let e := s.env u
    let zero := fun i => if e.int a i = 0 then fNV else fDZ
    let q := fun i => if e.int b i = 0 then (intReg e.et (-1), zero i) else fitInt e.et e.sat ((e.int a i).tdiv (e.int b i))
    let r := fun i => if e.int b i = 0 then (intReg e.et (e.int a i), zero i) else (intReg e.et ((e.int a i).tmod (e.int b i)), (0 : BitVec 8))
    ∀ x ∈ ([(.div sw d a b, q), (.rem sw d a b, r)] : List (Instr × (Nat → DWord × BitVec 8))),
      Issues s u sw (vForm clsI d [a, b]) →
      ∃ t, exec x.1 s = .next t ∧ PendingResult s t u sw 4 .plain (laneEff e.lanes e.pair d.toNat x.2) (vbits d.toNat e.pair 1)

/-- For every state in which addc or subb issues, it answers a next state in which vD holds, in each active lane, the w-bit sum or difference with the carry or borrow of p taken in, p holds the carry or borrow out in the active lanes (its other lanes kept; a write to p0 discarded), no flag is raised, and nothing else changes.
(R100, R13) -/
def Obligations.CarryChains : Prop :=
  ∀ (s : State) (u : Cursor) (sw : Bool) (d a b : VReg) (p : PReg),
    let e := s.env u
    let w := intBits e.et
    let cin := fun i => if (e.wv.preg p.toNat).getLsbD i then 1 else 0
    ∀ x ∈ ([(.addc sw d a b p, fun i => ((e.pat a i + e.pat b i + cin i : Int)), fun i => decide (2 ^ w ≤ e.pat a i + e.pat b i + cin i)),
            (.subb sw d a b p, fun i => ((e.pat a i - e.pat b i - cin i : Int)), fun i => decide (e.pat a i < e.pat b i + cin i))] :
           List (Instr × (Nat → Int) × (Nat → Bool))),
      Issues s u sw (fun e => { vForm clsI d [a, b] e with ps := [p.toNat] }) →
      ∃ t, exec x.1 s = .next t ∧ OthersKept s t u ∧ ArmWent s t u sw ((s.arm u).pc + 8) ∧
        RegsKept s t u (fun r i => i ∈ e.lanes ∧ regsOf e.pair d.toNat r) (fun _ => False) (fun n i => i ∈ e.lanes ∧ n = p.toNat ∧ p ≠ 0) ∧
        FlagsDue s t u 0 ∧
        ∀ i ∈ e.lanes, (t.env u).elem e.pair d.toNat i = heldIn e.pair (intReg e.et (x.2.1 i)) ∧
          (p ≠ 0 → ((t.wave u.b u.w).preg p.toNat).getLsbD i = x.2.2 i)

/-- For every state in which cmp, cmpi or fcmp issues, it answers a next state in which pD holds, in the active lanes, whether the condition holds of the lane's operands; its other lanes, every other register and memory are unchanged, p0 discards the write, and the flags of fcmp are due. Codes 0 to 5 are =, ≠, <, ≤, > and ≥ of the integers; of floating operands, as read, a NaN makes eq, lt, le, gt, ge and ord false and ne and uno true, otherwise the order of the values decides, zeros being equal; NV is due for a signalling NaN and, but for eq, ne, ord and uno, for any NaN.
Where an instruction issues that names a register of a result whose flags are still due, those flags are raised first, once, with those of every such result, and it does what it does in the state so made, where no register it names belongs to such a result any more: stated for one instruction that names vector registers (add), one that names a predicate (cmp) and one that names uniform registers (addk). And with each step's passing of time, outside ROM's work, the flags of every result that became ready before the new clk are raised, in every wave, and the others stay due.
(R13, R25, R26, R42, R92, R107, R118) -/
def Obligations.CompareResults : Prop :=
  (∀ (s : State) (u : Cursor) (sw : Bool) (cc : BitVec 5) (pd : PReg) (a b : VReg) (imm : Word),
     let e := s.env u
     (Issues s u sw (fun e => { pre := need (clsI e.et), vs := [e.src a, e.src b], ps := [pd.toNat], guarded := true }) →
       ∃ t, exec (.cmp sw cc pd a b) s = .next t ∧ CondResult s t u sw 4 pd.toNat fun i => (ccHolds cc.toNat (e.int a i) (e.int b i), 0)) ∧
     (Issues s u sw (fun e => { pre := need (clsI e.et), vs := [e.src a], ps := [pd.toNat], guarded := true }) →
       ∃ t, exec (.cmpi sw cc pd a imm) s = .next t ∧
         CondResult s t u sw 8 pd.toNat fun i => (ccHolds cc.toNat (e.int a i) (intVal e.et (imm.signExtend 64)), 0)) ∧
     (Issues s u sw (fun e => { pre := need (8 ≤ e.et && e.et ≤ 11), vs := [e.src a, e.src b], ps := [pd.toNat], guarded := true }) →
       ∃ t, exec (.fcmp sw cc pd a b) s = .next t ∧
         CondResult s t u sw 4 pd.toNat fun i => fpCmp (fmtOf e.et) e.fz cc.toNat (e.get a i) (e.get b i))) ∧
  (∀ x y : Int, (ccHolds 0 x y ↔ x = y) ∧ (ccHolds 1 x y ↔ x ≠ y) ∧ (ccHolds 2 x y ↔ x < y) ∧ (ccHolds 3 x y ↔ x ≤ y) ∧
    (ccHolds 4 x y ↔ y < x) ∧ (ccHolds 5 x y ↔ y ≤ x)) ∧
  (∀ (et : Nat) (fz : Bool) (x y : DWord),
    let a := unpack (fmtOf et) fz x
    let b := unpack (fmtOf et) fz y
    let nan := a.isNan = true ∨ b.isNan = true
    let r := fun cc => (fpCmp (fmtOf et) fz cc x y).1 = true
    (r 0 ↔ ¬ nan ∧ ¬ a.below b ∧ ¬ b.below a) ∧ (r 1 ↔ nan ∨ a.below b ∨ b.below a) ∧ (r 2 ↔ a.below b) ∧ (r 3 ↔ ¬ nan ∧ ¬ b.below a) ∧
    (r 4 ↔ b.below a) ∧ (r 5 ↔ ¬ nan ∧ ¬ a.below b) ∧ (r 6 ↔ ¬ nan) ∧ (r 7 ↔ nan) ∧
    ∀ cc, cc ≤ 7 → ((fpCmp (fmtOf et) fz cc x y).2 = fNV ∨ (fpCmp (fmtOf et) fz cc x y).2 = 0) ∧
      ((fpCmp (fmtOf et) fz cc x y).2 = fNV ↔ a.signalling = true ∨ b.signalling = true ∨ (nan ∧ 2 ≤ cc ∧ cc ≤ 5))) ∧
  (let flagsOf := fun (l : List LateFlags) => ((l.foldl (fun (a : BitVec 8) x => a ||| x.flags) 0).setWidth 32 : Word)
   (∀ (s : State) (u : Cursor) (sw : Bool) (d a b : VReg) (cc : BitVec 5) (pd : PReg) (kd ka kb : KReg),
     let gp := modeGP (s.arm u).mode
     let src := fun (r : VReg) q => regsOf (s.env u).pair r.toNat q
     ∀ x ∈ ([(.add sw d a b, vForm clsI d [a, b], fun q => src d q ∨ src a q ∨ src b q ∨ q = 320 + gp),
             (.cmp sw cc pd a b, fun e => { pre := need (clsI e.et), vs := [e.src a, e.src b], ps := [pd.toNat], guarded := true },
               fun q => src a q ∨ src b q ∨ q = 320 + pd.toNat ∨ q = 320 + gp),
             (.addk sw kd ka kb, kForm [kd, ka, kb], fun q => q = 256 + kd.toNat ∨ q = 256 + ka.toNat ∨ q = 256 + kb.toNat)] :
            List (Instr × (Env → Form) × (Nat → Prop))),
       MayIssue s u sw x.2.1 →
       ∀ due : LateFlags → Bool, (∀ y, due y = true ↔ ∃ q ∈ y.regs, x.2.2 q) →
       ∃ m : State, exec x.1 s = exec x.1 m ∧ Issues m u sw x.2.1 ∧ OthersKept s m u ∧
         m.wave u.b u.w = { s.wave u.b u.w with status := (s.wave u.b u.w).status ||| flagsOf ((s.wave u.b u.w).late.filter due)
                                                late := (s.wave u.b u.w).late.filter fun y => !due y }) ∧
   (∀ (s : State) (b w : Nat), s.dev.stage ≠ 1 → b < s.blocks.length → w < (s.block b).waves.length → (s.block b).claimNow = [] →
     let v := s.wave b w
     let ready := fun (y : LateFlags) => decide (y.ready < s.tick.clk)
     (s.tick.wave b w).status = v.status ||| flagsOf (v.late.filter ready) ∧ (s.tick.wave b w).late = v.late.filter fun y => !ready y))

/-- For every state in which mov, mov with an immediate, movk, sel or lea issues, it answers a next state in which vD holds in each active lane the whole value of vA, the immediate sign-extended to 64 bits, kA, the value that pQ selects, or the pair kA + sext(vB, 32); for every state in which addk or movkk issues, kD holds the sum modulo 2^64 or the literal, once for the wave; no flag is raised and nothing else changes.
(R98, R108, R109, R110) -/
def Obligations.MovesAndAddresses : Prop :=
  ∀ (s : State) (u : Cursor) (sw : Bool) (d a b : VReg) (kd ka kb : KReg) (q : QPred) (imm : Word) (lit : DWord),
    let e := s.env u
    (∀ x ∈ ([(.mov sw d a, 4, vForm clsW d [a], fun i => e.get a i),
             (.movImm sw d imm, 8, vForm clsW d [], fun _ => imm.signExtend 64),
             (.movk sw d ka, 4, fun e => { vForm clsW d [] e with ks := [ka.toNat] }, fun _ => e.wv.kreg ka.toNat),
             (.sel sw d a b q, 8, fun e => { vForm clsW d [a, b] e with ps := [q.p.toNat] },
               fun i => if ((e.wv.preg q.p.toNat).getLsbD i != q.neg) then e.get a i else e.get b i)] :
            List (Instr × Nat × (Env → Form) × (Nat → DWord))),
       Issues s u sw x.2.2.1 → ∃ t, exec x.1 s = .next t ∧ LaneResult s t u sw x.2.1 d.toNat e.pair fun i => (x.2.2.2 i, 0)) ∧
    (Issues s u sw (fun _ => { vs := [{ r := d.toNat, pair := true, dest := true }, one b], ks := [ka.toNat], guarded := true }) →
      ∃ t, exec (.lea sw d ka b) s = .next t ∧
        LaneResult s t u sw 4 d.toNat true fun i => (e.wv.kreg ka.toNat + (e.wv.vreg b.toNat i).signExtend 64, 0)) ∧
    (Issues s u sw (kForm [kd, ka, kb]) →
      ∃ t, exec (.addk sw kd ka kb) s = .next t ∧
        UniformResult s t u sw ((s.arm u).pc + 4) kd.toNat (BitVec.ofNat 64 ((e.wv.kreg ka.toNat).toNat + (e.wv.kreg kb.toNat).toNat))) ∧
    (Issues s u sw (kForm [kd]) →
      ∃ t, exec (.movkk sw kd lit) s = .next t ∧ UniformResult s t u sw ((s.arm u).pc + 12) kd.toNat lit)

/-- For every state in which it issues, each of fadd, fsub, fmul, fma, fms, fnma, fnms, fmin, fmax and frnd answers a next state in which vD holds, in each active lane and for each element of a packed type, the operation's result on that lane's elements (sums and products exact, then rounded once), the flags of all active lanes are due, and nothing else changes. The lesser (greater) of two numbers is one of them as read, −0 below +0; of a number and a NaN it is the number, of two NaNs the NaN of R70; NV alone is due, for a signalling NaN. Rounding to an integral value keeps infinities and values that are integral, keeps the sign, and else takes the neighbouring integer that cutting the magnitude (RoundingModes) gives, with NX.
(R68, R70, R115, R116, R125) -/
def Obligations.FloatArithmetic : Prop :=
  (∀ (s : State) (u : Cursor) (sw : Bool) (d a b : VReg),
    let e := s.env u
    let exact := fun (neg : Bool) (f : Fmt) (x y : DWord) =>
      let p := unpack f e.fz x
      let q := if neg then (unpack f e.fz y).negate else unpack f e.fz y
      finishOp f e.rm e.fz [p, unpack f e.fz y] false (addNum e.rm p q)
    ∀ x ∈ ([(.fadd sw d a b, [a, b], fun f l => exact false f (op0 l) (op1 l)),
            (.fsub sw d a b, [a, b], fun f l => exact true f (op0 l) (op1 l)),
            (.fmul sw d a b, [a, b], fun f l =>
              finishOp f e.rm e.fz [unpack f e.fz (op0 l), unpack f e.fz (op1 l)] false (mulNum (unpack f e.fz (op0 l)) (unpack f e.fz (op1 l)))),
            (.fma sw d a b, [a, b, d], fun f l => fpFma f e.rm e.fz false false (op0 l) (op1 l) (op2 l)),
            (.fms sw d a b, [a, b, d], fun f l => fpFma f e.rm e.fz false true (op0 l) (op1 l) (op2 l)),
            (.fnma sw d a b, [a, b, d], fun f l => fpFma f e.rm e.fz true false (op0 l) (op1 l) (op2 l)),
            (.fnms sw d a b, [a, b, d], fun f l => fpFma f e.rm e.fz true true (op0 l) (op1 l) (op2 l)),
            (.fmin sw d a b, [a, b], fun f l => fpMinMax f e.fz false (op0 l) (op1 l)),
            (.fmax sw d a b, [a, b], fun f l => fpMinMax f e.fz true (op0 l) (op1 l)),
            (.frnd sw d a, [a], fun f l => fpRnd f e.rm e.fz (op0 l))] :
           List (Instr × List VReg × (Fmt → List DWord → DWord × BitVec 8))),
      Issues s u sw (vForm clsF d x.2.1) →
      ∃ t, exec x.1 s = .next t ∧ LaneResult s t u sw 4 d.toNat e.pair fun i => overElems e.et x.2.2 (x.2.1.map fun r => e.get r i)) ∧
  (∀ (et : Nat) (fz mx : Bool) (x y : DWord), 8 ≤ et → et ≤ 11 →
    let f := fmtOf et
    let a := unpack f fz x
    let b := unpack f fz y
    let r := fpMinMax f fz mx x y
    let asRead := fun (v : Sys2Proof.Machine.Num) (raw : DWord) => (BitVec.ofNat 64 (if v.isZero then signBit f v.sign else raw.toNat % 2 ^ f.bits) : DWord)
    let lower := fun (v w : Sys2Proof.Machine.Num) => v.below w ∨ (v.isZero = true ∧ w.isZero = true ∧ v.sign = true ∧ w.sign = false)
    (a.isNan = true → b.isNan = true → r.1 = (finishOp f 0 fz [a, b] false none).1) ∧
    (a.isNan = true → b.isNan = false → r.1 = asRead b y) ∧ (a.isNan = false → b.isNan = true → r.1 = asRead a x) ∧
    (a.isNan = false → b.isNan = false → (r.1 = asRead a x ∨ r.1 = asRead b y) ∧
      (lower a b → r.1 = if mx then asRead b y else asRead a x) ∧ (lower b a → r.1 = if mx then asRead a x else asRead b y)) ∧
    r.2 = if a.signalling || b.signalling then fNV else 0) ∧
  (∀ (et rm : Nat) (fz : Bool) (x : DWord), 8 ≤ et → et ≤ 11 → rm ≤ 5 →
    let f := fmtOf et
    let r := fpRnd f rm fz x
    match unpack f fz x with
    | .nan s w m => r = finishOp f rm fz [.nan s w m] false none
    | .inf s => r = (BitVec.ofNat 64 (f.infinity s), 0)
    | .fin s m p =>
      if 0 ≤ p then unpack f fz r.1 = .fin s m p ∧ r.2 = 0
      else
        let n := roundMag rm s m (-p).toNat false
        (∃ k q, unpack f false r.1 = .fin s k q ∧ q ≤ 0 ∧ k = n.1 * 2 ^ (-q).toNat) ∧ r.2 = if n.2 then fNX else 0)

/-- For every state in which it issues, fabs answers a next state in which each element of vD is the element of vA with its sign cleared, fneg with its sign inverted, fsgn with the sign of the matching element of vB; every other bit of each element is copied, no flag is raised, and nothing else changes.
(R117) -/
def Obligations.SignOperations : Prop :=
  ∀ (s : State) (u : Cursor) (sw : Bool) (d a b : VReg),
    let e := s.env u
    let signs : DWord := match e.et with
      | 8 => 0x80000000 | 9 => 0x8000000000000000 | 12 => 0x8000000080000000 | 13 => 0x8000800080008000 | _ => 0x8000
    let bits : DWord := match e.et with | 8 => 0xFFFFFFFF | 10 => 0xFFFF | 11 => 0xFFFF | _ => 0xFFFFFFFFFFFFFFFF
    ∀ x ∈ ([(.fabs sw d a, [a], fun i => e.get a i &&& bits &&& ~~~signs),
            (.fneg sw d a, [a], fun i => (e.get a i &&& bits) ^^^ signs),
            (.fsgn sw d a b, [a, b], fun i => (e.get a i &&& bits &&& ~~~signs) ||| (e.get b i &&& signs))] :
           List (Instr × List VReg × (Nat → DWord))),
      Issues s u sw (vForm clsF d x.2.1) →
      ∃ t, exec x.1 s = .next t ∧ LaneResult s t u sw 4 d.toNat e.pair fun i => (x.2.2 i, 0)

/-- Cutting a magnitude below 2^sh reports inexact exactly when bits are lost, keeps an exact value, and otherwise answers one of the two neighbours: the smaller under rtz, the one towards −∞ or +∞ under rdn and rup, the odd one under rno, the nearest under rne (ties to even) and rna (ties away from zero).
(R73) -/
def Obligations.RoundingModes : Prop :=
  ∀ (rm : Nat) (s : Bool) (m sh : Nat), rm ≤ 5 →
    let lo := m / 2 ^ sh
    let rest := m % 2 ^ sh
    let r := roundMag rm s m sh false
    r.2 = decide (rest ≠ 0) ∧ (rest = 0 → r.1 = lo) ∧
    (rest ≠ 0 →
      (r.1 = lo ∨ r.1 = lo + 1) ∧
      (rm = 1 → r.1 = lo) ∧ (rm = 2 → r.1 = if s then lo + 1 else lo) ∧ (rm = 3 → r.1 = if s then lo else lo + 1) ∧
      (rm = 5 → r.1 % 2 = 1) ∧
      (rm = 0 ∨ rm = 4 → (2 * rest < 2 ^ sh → r.1 = lo) ∧ (2 ^ sh < 2 * rest → r.1 = lo + 1)) ∧
      (rm = 0 → 2 * rest = 2 ^ sh → r.1 % 2 = 0) ∧ (rm = 4 → 2 * rest = 2 ^ sh → r.1 = lo + 1))

/-- In f32, f64, f16 and bf16 a pattern's sign, exponent and fraction fields say its value: an exponent of all ones an infinity or, with a fraction, a NaN, quiet by its top bit; an exponent of 0 a zero or subnormal, which FZ reads as zero; any other a number with a leading one. Under every rounding mode, a pattern that is not a NaN, read as a value and delivered again, is the same pattern and raises no flag.
(R66, R69, R72, R73) -/
def Obligations.FormatsRoundTrip : Prop :=
  (∀ z ∈ [(8, 8, 23), (9, 11, 52), (10, 5, 10), (11, 8, 7)], ∀ (fz s : Bool) (e m : Nat), e < 2 ^ z.2.1 → m < 2 ^ z.2.2 →
    let bias : Int := 2 ^ (z.2.1 - 1) - 1
    let v := unpack (fmtOf z.1) fz (BitVec.ofNat 64 (((if s then 2 ^ z.2.1 else 0) + e) * 2 ^ z.2.2 + m))
    (e = 2 ^ z.2.1 - 1 → m = 0 → v = .inf s) ∧
    (e = 2 ^ z.2.1 - 1 → m ≠ 0 → v = .nan s z.2.2 m ∧ (v.signalling = true ↔ m < 2 ^ (z.2.2 - 1))) ∧
    (e = 0 → v = .fin s (if fz then 0 else m) (1 - bias - z.2.2)) ∧
    (0 < e → e < 2 ^ z.2.1 - 1 → v = .fin s (2 ^ z.2.2 + m) (e - bias - z.2.2))) ∧
  (∀ (et rm : Nat) (x : DWord), 8 ≤ et → et ≤ 11 → rm ≤ 5 → x.toNat < 2 ^ (fmtOf et).bits → (unpack (fmtOf et) false x).isNan = false →
    pack (fmtOf et) rm false false false (unpack (fmtOf et) false x) = (x.toNat, 0))

/-- For every state in which it issues, each of frcp, frsq, fsqrt, fdiv, fex2, flg2, fsin and fcos answers a next state with one outstanding result of vD whose values and flags, in each active lane and element, are those of the operation; registers and memory change only when the result is written, and vD enters the destination mask.
(R25, R28, R120, R121, R122) -/
def Obligations.FloatApproximations : Prop :=
  ∀ (s : State) (u : Cursor) (sw : Bool) (d a b : VReg),
    let e := s.env u
    ∀ x ∈ ([(.frcp sw d a, [a], fun f l => fpRcp f e.et e.fz (op0 l)), (.frsq sw d a, [a], fun f l => fpRsq f e.et e.fz (op0 l)),
            (.fsqrt sw d a, [a], fun f l => fpSqrt f e.rm e.fz (op0 l)), (.fdiv sw d a b, [a, b], fun f l => fpDiv f e.rm e.fz (op0 l) (op1 l)),
            (.fex2 sw d a, [a], fun f l => fpEx2 f e.et e.fz (op0 l)), (.flg2 sw d a, [a], fun f l => fpLg2 f e.et e.fz (op0 l)),
            (.fsin sw d a, [a], fun f l => fpSinCos false f e.et e.fz (op0 l)), (.fcos sw d a, [a], fun f l => fpSinCos true f e.et e.fz (op0 l))] :
           List (Instr × List VReg × (Fmt → List DWord → DWord × BitVec 8))),
      Issues s u sw (vForm clsF d x.2.1) →
      ∃ t, exec x.1 s = .next t ∧
        PendingResult s t u sw 4 .plain (laneEff e.lanes e.pair d.toNat fun i => overElems e.et x.2.2 (x.2.1.map fun r => e.get r i))
          (vbits d.toNat e.pair 1)

/-- In f32, f64, f16 and bf16 with FZ = 0: 1/±0 and 1/√±0 are infinities with DZ; 1/±∞ is a zero; 2^0 is 1 and 2^±∞ is +∞ or +0; log2 of a zero is −∞ with DZ and log2 of 1 is +0; sin(π·0) is 0 and cos(π·0) is 1; sin and cos of an infinity are the default NaN with NV; no other flag is raised.
(R121, R124) -/
def Obligations.ApproximationExactCases : Prop :=
  ∀ et ∈ [8, 9, 10, 11],
    let f := fmtOf et
    let p := fun (n : Nat) => (BitVec.ofNat 64 n : DWord)
    let one := p (f.bias * 2 ^ f.fw)
    let inf := fun s => p (f.infinity s)
    let zero := fun s => p (signBit f s)
    (∀ s, fpRcp f et false (zero s) = (inf s, fDZ) ∧ fpRsq f et false (zero s) = (inf s, fDZ) ∧ fpRcp f et false (inf s) = (zero s, 0) ∧
      fpEx2 f et false (zero s) = (one, 0) ∧ fpEx2 f et false (inf s) = (if s then zero false else inf false, 0) ∧
      fpLg2 f et false (zero s) = (inf true, fDZ) ∧ fpSinCos false f et false (zero s) = (zero s, 0) ∧ fpSinCos true f et false (zero s) = (one, 0) ∧
      fpSinCos false f et false (inf s) = (p (f.defaultNan false), fNV) ∧ fpSinCos true f et false (inf s) = (p (f.defaultNan false), fNV)) ∧
    fpLg2 f et false one = (zero false, 0) ∧ fpRcp f et false one = (one, 0) ∧ fpRsq f et false one = (one, 0)

/-- For every state in which it issues, fclass answers a next state in which one register vD holds the class bit of each active lane; cvt and cvtw a next state in which vD holds the converted element of each active lane, scaled and clipped as the slot says, with the flags due; cvtn the narrow elements side by side in one register; nothing else changes. The class bits are, from bit 0: −∞, a negative normal, a negative subnormal, −0, +0, a positive subnormal, a positive normal, +∞, a signalling and a quiet NaN, from the fields of the pattern.
(R119, R126, R127, R128, R129) -/
def Obligations.ClassAndConversions : Prop :=
  (∀ z ∈ [(8, 8, 23), (9, 11, 52), (10, 5, 10), (11, 8, 7)], ∀ (s : Bool) (e m : Nat), e < 2 ^ z.2.1 → m < 2 ^ z.2.2 →
    fpClass (fmtOf z.1) (BitVec.ofNat 64 (((if s then 2 ^ z.2.1 else 0) + e) * 2 ^ z.2.2 + m)) =
      2 ^ (if e = 2 ^ z.2.1 - 1 then (if m = 0 then (if s then 0 else 7) else if m < 2 ^ (z.2.2 - 1) then 8 else 9)
           else if e = 0 then (if m = 0 then (if s then 3 else 4) else if s then 2 else 5) else if s then 1 else 6)) ∧
  (∀ (s : State) (u : Cursor) (sw : Bool) (d a : VReg) (slot : SlotNo),
    let e := s.env u
    let x := e.slot slot
    (Issues s u sw (fun e => { pre := need (8 ≤ e.et && e.et ≤ 11), vs := [oneDst d, e.src a], guarded := true }) →
      ∃ t, exec (.fclass sw d a) s = .next t ∧
        LaneResult s t u sw 4 d.toNat false fun i => (BitVec.ofNat 64 (fpClass (fmtOf e.et) (e.get a i)), 0)) ∧
    (Issues s u sw (fun e => { pre := need (cvtType e.et && slotOk (e.slot slot) && cvtType (slotFmt (e.slot slot)))
                               vs := scaleDst (e.slot slot) d (isPair (slotFmt (e.slot slot))) ++ [e.src a], guarded := true }) →
      ∃ t, exec (.cvt sw d a slot) s = .next t ∧
        LaneResult s t u sw 4 d.toNat (isPair (slotFmt x)) fun i =>
          deliver e.et (slotFmt x) e.rm e.sat e.fz (scaleBy (slotScale x) (e.wv.vreg d.toNat i) false (clipNum x (valueOf e.et e.fz (e.get a i))))) ∧
    (Issues s u sw (fun e => { pre := need (slotOk (e.slot slot) && narrowType e.et (slotFmt (e.slot slot)))
                               vs := scaleDst (e.slot slot) d false ++ [{ r := a.toNat, pair := true }], guarded := true }) →
      ∃ t, exec (.cvtn sw d a slot) s = .next t ∧ LaneResult s t u sw 4 d.toNat false fun i => narrowLane e x d a i) ∧
    (Issues s u sw (fun e =>
        { pre := need (slotOk (e.slot slot) && ((cvtType e.et && cvtType (slotFmt (e.slot slot))) || narrowType e.et (slotFmt (e.slot slot))))
          vs := scaleDst (e.slot slot) d e.pair ++ [{ r := a.toNat, pair := cvtType e.et && isPair (slotFmt (e.slot slot)) }], guarded := true }) →
      ∃ t, exec (.cvtw sw d a slot) s = .next t ∧ LaneResult s t u sw 4 d.toNat e.pair fun i => widenLane e x d a i))

/-- For every state in which it issues, mxsc answers a next state in which vD holds, in each active lane, the shared scale of the lane's group: that of the clipped elements of the group's active lanes; bpack one in which, for each mask word with an active lane, the first W + 1 lanes of vD that the wave has hold the words of the mantissa image and the exponent E that quantising the word's 32 values gives, inactive lanes counting as zero; bunpk one in which vD holds in each active lane the value of the lane's mantissa and its group's exponent read from vA. The flags of all groups are due, every other register, lane and predicate keeps its value, the arm goes on after the instruction, and nothing else changes.
(R82, R131, R132, R133; that mxsc ignores FZ for a block format is the model's reading, log 39) -/
def Obligations.BlockFloatingPoint : Prop :=
  ∀ (s : State) (u : Cursor) (sw : Bool) (d a : VReg) (slot : SlotNo),
    let e := s.env u
    let x := e.slot slot
    let went := fun (t : State) => OthersKept s t u ∧ ArmWent s t u sw ((s.arm u).pc + 4)
    (Issues s u sw (fun e => { pre := need (clsF e.et && slotOk (e.slot slot) && mxscType (slotFmt (e.slot slot)) && slotScale (e.slot slot) != 0 && slotBfpOk (e.slot slot))
                               vs := [oneDst d, e.src a], guarded := true }) →
      let per := slotLen x / (packing e.et).1
      let group := fun (g : Nat) => groupScale (fmtOf (packing e.et).2.2) (slotScale x) (slotFmt x) e.sat
        (((e.lanes.filter fun i => i / per == g).map fun i => (e.laneValues (e.fz && slotFmt x < 17) a i).map (clipNum x)).flatten)
      ∃ t, exec (.mxsc sw d a slot) s = .next t ∧ went t ∧
        RegsKept s t u (fun r i => i ∈ e.lanes ∧ r = d.toNat) (fun _ => False) (fun _ _ => False) ∧
        (∀ i ∈ e.lanes, (t.wave u.b u.w).vreg d.toNat i = (group (i / per)).1) ∧
        FlagsDue s t u (flagsOver e.lanes fun i => (group (i / per)).2) (fun q => q = d.toNat)) ∧
    (Issues s u sw (fun e => { pre := need (bfpSlot e slot), vs := [oneDst d, e.src a], guarded := true }) →
      let w := slotFmt x - 15
      let block := fun (m : Nat) => quantise (fmtOf e.et) w e.rm e.sat ((span (32 * m) 32).map fun i =>
        if i ∈ e.lanes then clipNum x (valueOf e.et false (e.get a i)) else .fin false 0 0)
      let word := fun (m : Nat) => ∃ i ∈ e.lanes, i / 32 = m
      ∃ t, exec (.bpack sw d a slot) s = .next t ∧ went t ∧
        RegsKept s t u (fun r i => r = d.toNat ∧ word (i / 32) ∧ i % 32 ≤ w ∧ i < e.ln.lanes) (fun _ => False) (fun _ _ => False) ∧
        (∀ m, word m →
          (∀ j, j < w → 32 * m + j < e.ln.lanes →
            (t.wave u.b u.w).vreg d.toNat (32 * m + j) = BitVec.ofNat 32 (mantissaImage w (block m).2.1 / 2 ^ (32 * j))) ∧
          (32 * m + w < e.ln.lanes → (t.wave u.b u.w).vreg d.toNat (32 * m + w) = BitVec.ofNat 32 (block m).1)) ∧
        FlagsDue s t u (flagsOver e.lanes fun i => (block (i / 32)).2.2) (fun q => q = d.toNat)) ∧
    (Issues s u sw (fun e => { pre := need (bfpSlot e slot)
                               vs := [e.dst d, { one a with lanes := some (imageLanes e (slotFmt (e.slot slot) - 15)) }], guarded := true }) →
      ∃ t, exec (.bunpk sw d a slot) s = .next t ∧
        LaneResult s t u sw 4 d.toNat e.pair fun i =>
          let w := slotFmt x - 15
          let word := fun (j : Nat) => if i / 32 * 32 + j < e.ln.lanes then (e.wv.vreg a.toNat (i / 32 * 32 + j)).toNat else 0
          let img := (List.range w).foldl (fun n j => n + word j * 2 ^ (32 * j)) 0
          convertTo e.et e.rm e.sat e.fz (bfpValue w (word w % 256) (mantissaAt w img (i % 32))))

/-- For every state in which the instruction issues in an undivided wave whose member descriptor kC names exactly the executing lanes, none of them exited: vote writes to pD whether all, any, or all or none of the members read 1; ballot writes the ballot word to kD; shfl and bcast give each lane the value of its source lane where that is a member, and its own otherwise; wred and wscan give the tree reduction over the members and the scan at each lane; a flag of wred or wscan is raised when it completes, and nothing else changes.
For every state in which a warp-wide instruction issues in an arm of a divided wave whose sibling waits with an instance of the same opcode, F, X and kC value, and the two bring exactly the members, none of them exited: the two instances complete together. Each arm's executing lanes receive their result over the values and predicate bits that both instances bring (ballot: the word of both, in the kD of each instance), the flags of wred and wscan, which compute in the first instance's mode, are raised, the issuing arm goes on after its instruction and the sibling, ready again, after its own; nothing else changes. An instance whose members all stand in the two arms, its executing lanes among them but not all of them, waits at its instruction while the sibling holds no instance, and no register changes.
Where a trap would enter the handler, the member checks come in this order: a member that does not exist or has exited raises MEMBER_EXITED with the lowest such lane; a member that cannot arrive (in neither the executing lanes nor the sibling arm's current mask, or a sibling stopped at its rejoin) MEMBER_EXITED with the lowest; an executing lane outside the members MEMBER_SELF with the lowest; a waiting sibling instance that needs one of the executing lanes and differs MEMBER_MISMATCH with 0, but for an arm B that issues in the clk in which arm A's instance did.
(R87, R190, R191, R192, R193, R194, R195, R196, R197, R198) -/
def Obligations.WarpWideResults : Prop :=
  (∀ (s : State) (u : Cursor) (sw : Bool) (op : BitVec 4) (op3 : BitVec 3) (how : BitVec 2) (idx : BitVec 8) (excl : Bool)
       (d a b : VReg) (pd : PReg) (kd kb kc : KReg) (q : QPred),
     let e := s.env u
     let m := memberSet (e.wv.kreg kc.toNat)
     let takes := fun (from' : Nat → Option Nat) i =>
       match from' i with
       | some j => if j < 1024 && m.getLsbD j then e.get a j else e.get a i
       | none => e.get a i
     let val := fun i => laneValue e.et (e.get a i)
     e.wv.b = none → u.armB = false → m = e.act → m &&& e.wv.exited = 0 →
     (Issues s u sw (warpForm (fun _ => { ks := [kc.toNat], ps := [pd.toNat, q.p.toNat], guarded := true })) →
       ∃ t, exec (.vote sw op pd q kc) s = .next t ∧ CondResult s t u sw 8 pd.toNat fun _ =>
         let all := decide (∀ i ∈ e.lanes, (e.q q).getLsbD i = true)
         let any := decide (∃ i ∈ e.lanes, (e.q q).getLsbD i = true)
         (if op = 0 then all else if op = 1 then any else all || !any, 0)) ∧
     (Issues s u sw (warpForm (fun _ => { ks := [kd.toNat, kc.toNat], ps := [q.p.toNat], guarded := true })) →
       ∃ t, exec (.ballot sw kd q kc) s = .next t ∧ UniformResult s t u sw ((s.arm u).pc + 8) kd.toNat (ballotOf (e.q q &&& m))) ∧
     (Issues s u sw (warpForm (fun e => let f := vForm clsW d [a] e; { f with vs := f.vs ++ [one b], ks := [kc.toNat] })) →
       ∃ t, exec (.shfl sw how d a b kc) s = .next t ∧
         LaneResult s t u sw 8 d.toNat e.pair fun i => (takes (fun i => shuffleLane how.toNat i ((e.wv.vreg b.toNat i).setWidth 64)) i, 0)) ∧
     (Issues s u sw (warpForm (fun e => { vForm clsW d [a] e with ks := [kc.toNat] })) →
       ∃ t, exec (.shfli sw how d a idx kc) s = .next t ∧
         LaneResult s t u sw 8 d.toNat e.pair fun i => (takes (fun i => shuffleLane how.toNat i (idx.setWidth 64)) i, 0)) ∧
     (Issues s u sw (warpForm (fun e => { vForm clsW d [a] e with ks := [kb.toNat, kc.toNat] })) →
       ∃ t, exec (.bcast sw d a kb kc) s = .next t ∧
         LaneResult s t u sw 8 d.toNat e.pair fun i => (takes (fun _ => some (e.wv.kreg kb.toNat).toNat) i, 0)) ∧
     (Issues s u sw (warpForm (fun e => { vForm (redLegal op.toNat) d [a] e with ks := [kc.toNat] })) →
       ∃ t, exec (.wred sw op d a kc) s = .next t ∧
         BlockingResult s t u sw 8 d.toNat e.pair fun _ => waveReduce e.et e.rm e.fz op.toNat e.ln.lanes m val) ∧
     (Issues s u sw (warpForm (fun e => { vForm (redLegal op3.toNat) d [a] e with ks := [kc.toNat] })) →
       ∃ t, exec (.wscan sw excl op3 d a kc) s = .next t ∧
         BlockingResult s t u sw 8 d.toNat e.pair fun i => waveScan e.et e.rm e.fz excl op3.toNat e.ln.lanes m val i)) ∧
  (∀ (s : State) (u : Cursor) (sw : Bool) (op : BitVec 4) (op3 : BitVec 3) (how : BitVec 2) (idx : BitVec 8) (excl : Bool)
       (d a b : VReg) (pd : PReg) (kd kb kc : KReg) (q : QPred) (y : WarpWait),
     let e := s.env u
     let o : Cursor := { u with armB := !u.armB }
     let desc := e.wv.kreg kc.toNat
     let m := memberSet desc
     let theirs := lanesOf e.ln.lanes y.exec
     let both := lanesOf e.ln.lanes (y.exec ||| e.act)
     let src := fun (j : Nat) => if y.exec.getLsbD j then sget 0 y.src j else e.get a j
     let takes := fun (from' : Nat → Option Nat) i =>
       match from' i with
       | some j => if j < 1024 && m.getLsbD j then src j else src i
       | none => src i
     let first := modeET y.mode
     let val := fun i => laneValue first (src i)
     let votes := (y.pq &&& y.exec) ||| (e.q q &&& e.act)
     let went := fun (t : State) =>
       OthersKept s t u ∧ ArmWent s (t.modArm o fun _ => s.arm o) u sw ((s.arm u).pc + 8) ∧
       t.arm o = { s.arm o with st := .ready, pc := y.pc + 8, reason := 0, waited := 0 }
     let joined := fun (i : Instr) (own : Nat → DWord) (their : Nat → DWord) (f : BitVec 8) =>
       ∃ t, exec i s = .next t ∧ went t ∧
         RegsKept s t u (fun r i => (i ∈ e.lanes ∧ regsOf e.pair d.toNat r) ∨ (i ∈ theirs ∧ regsOf (isPair first) y.dest r)) (fun _ => False) (fun _ _ => False) ∧
         (∀ i ∈ e.lanes, (t.env u).elem e.pair d.toNat i = heldIn e.pair (own i)) ∧
         (∀ i ∈ theirs, (t.env u).elem (isPair first) y.dest i = heldIn (isPair first) (their i)) ∧ FlagsRaised s t u f
     let same := fun (F X : Nat) => y.key = [0x65, F, X, desc.toNat]
     e.wv.b.isSome = true → (s.arm o).st = .warp y → (s.arm u).st = .ready → y.desc = desc → y.exec ||| e.act = m → y.exec &&& e.act = 0 →
     y.exec &&& ~~~(s.arm o).mask = 0 → m &&& e.wv.exited = 0 → m &&& ~~~(lowMask e.ln.lanes) = 0 →
     (Issues s u sw (warpForm (fun _ => { ks := [kc.toNat], ps := [pd.toNat, q.p.toNat], guarded := true })) → same 0 op.toNat →
       let r := if op = 0 then decide (votes &&& m = m) else if op = 1 then decide (votes &&& m ≠ 0) else decide (votes &&& m = m ∨ votes &&& m = 0)
       ∃ t, exec (.vote sw op pd q kc) s = .next t ∧ went t ∧ FlagsRaised s t u 0 ∧
         RegsKept s t u (fun _ _ => False) (fun _ => False)
           (fun n i => (i ∈ e.lanes ∧ n = pd.toNat ∧ pd ≠ 0) ∨ (i ∈ theirs ∧ n = y.dest ∧ y.dest ≠ 0)) ∧
         (pd ≠ 0 → ∀ i ∈ e.lanes, ((t.wave u.b u.w).preg pd.toNat).getLsbD i = r) ∧
         (y.dest ≠ 0 → ∀ i ∈ theirs, ((t.wave u.b u.w).preg y.dest).getLsbD i = r)) ∧
     (Issues s u sw (warpForm (fun _ => { ks := [kd.toNat, kc.toNat], ps := [q.p.toNat], guarded := true })) → same 1 0 →
       ∃ t, exec (.ballot sw kd q kc) s = .next t ∧ went t ∧ FlagsRaised s t u 0 ∧
         RegsKept s t u (fun _ _ => False) (fun n => n = kd.toNat ∨ n = y.dest) (fun _ _ => False) ∧
         (t.wave u.b u.w).kreg kd.toNat = ballotOf (votes &&& m) ∧ (t.wave u.b u.w).kreg y.dest = ballotOf (votes &&& m)) ∧
     (Issues s u sw (warpForm (fun e => let f := vForm clsW d [a] e; { f with vs := f.vs ++ [one b], ks := [kc.toNat] })) → same 2 how.toNat →
       joined (.shfl sw how d a b kc) (takes fun i => shuffleLane how.toNat i ((e.wv.vreg b.toNat i).setWidth 64))
         (takes fun i => shuffleLane how.toNat i (sget 0 y.idx i)) 0) ∧
     (Issues s u sw (warpForm (fun e => { vForm clsW d [a] e with ks := [kc.toNat] })) → same 3 how.toNat →
       joined (.shfli sw how d a idx kc) (takes fun i => shuffleLane how.toNat i (idx.setWidth 64))
         (takes fun i => shuffleLane how.toNat i (sget 0 y.idx i)) 0) ∧
     (Issues s u sw (warpForm (fun e => { vForm clsW d [a] e with ks := [kb.toNat, kc.toNat] })) → same 6 0 →
       joined (.bcast sw d a kb kc) (takes fun _ => some (e.wv.kreg kb.toNat).toNat) (takes fun i => some (sget 0 y.idx i).toNat) 0) ∧
     (Issues s u sw (warpForm (fun e => { vForm (redLegal op.toNat) d [a] e with ks := [kc.toNat] })) → same 4 op.toNat →
       let r := waveReduce first (modeRM y.mode) (modeFZ y.mode) op.toNat e.ln.lanes m val
       joined (.wred sw op d a kc) (fun _ => r.1) (fun _ => r.1) (flagsOver both fun _ => r.2)) ∧
     (Issues s u sw (warpForm (fun e => { vForm (redLegal op3.toNat) d [a] e with ks := [kc.toNat] })) → same 5 (op3.toNat + if excl then 8 else 0) →
       let r := fun i => waveScan first (modeRM y.mode) (modeFZ y.mode) excl op3.toNat e.ln.lanes m val i
       joined (.wscan sw excl op3 d a kc) (fun i => (r i).1) (fun i => (r i).1) (flagsOver both fun i => (r i).2))) ∧
  (∀ (s : State) (u : Cursor) (sw : Bool) (op : BitVec 4) (op3 : BitVec 3) (how : BitVec 2) (idx : BitVec 8) (excl : Bool)
       (d a b : VReg) (pd : PReg) (kd kb kc : KReg) (q : QPred),
     let e := s.env u
     let desc := e.wv.kreg kc.toNat
     let m := fun (i : Nat) => ∃ j w, j < 32 ∧ w < 32 ∧ i = 32 * w + j ∧ desc.getLsbD j = true ∧ desc.getLsbD (32 + w) = true
     let sib := s.arm { u with armB := !u.armB }
     let divided := e.wv.b.isSome = true
     let gone := fun i => m i ∧ (e.ln.lanes ≤ i ∨ e.wv.exited.getLsbD i = true)
     let lost := fun i => m i ∧ i ∉ e.lanes ∧ ¬ (divided ∧ sib.st ≠ .stopped ∧ sib.mask.getLsbD i = true)
     let alien := fun i => i ∈ e.lanes ∧ ¬ m i
     let least := fun (p : Nat → Prop) (i : Nat) => i < 1024 ∧ p i ∧ ∀ j, j < i → ¬ p j
     ∀ x ∈ ([(.vote sw op pd q kc, fun _ => { ks := [kc.toNat], ps := [pd.toNat, q.p.toNat], guarded := true }, [0x65, 0, op.toNat]),
             (.ballot sw kd q kc, fun _ => { ks := [kd.toNat, kc.toNat], ps := [q.p.toNat], guarded := true }, [0x65, 1, 0]),
             (.shfl sw how d a b kc, fun e => { vForm clsW d [a] e with vs := (vForm clsW d [a] e).vs ++ [one b], ks := [kc.toNat] }, [0x65, 2, how.toNat]),
             (.shfli sw how d a idx kc, fun e => { vForm clsW d [a] e with ks := [kc.toNat] }, [0x65, 3, how.toNat]),
             (.wred sw op d a kc, fun e => { vForm (redLegal op.toNat) d [a] e with ks := [kc.toNat] }, [0x65, 4, op.toNat]),
             (.wscan sw excl op3 d a kc, fun e => { vForm (redLegal op3.toNat) d [a] e with ks := [kc.toNat] }, [0x65, 5, op3.toNat + if excl then 8 else 0]),
             (.bcast sw d a kb kc, fun e => { vForm clsW d [a] e with ks := [kb.toNat, kc.toNat] }, [0x65, 6, 0])] :
            List (Instr × (Env → Form) × List Nat)),
       Issues s u sw (warpForm x.2.1) →
       let trap := fun (cause : Nat) (info : DWord) => ∃ t, exec x.1 s = .next t ∧ TrapEntered s t u cause false (s.arm u).pc info
       ((∀ i, i < 1024 → ¬ gone i ∧ ¬ lost i ∧ ¬ alien i) → (∃ i, m i ∧ i ∉ e.lanes) → divided → (∀ y, sib.st ≠ .warp y) →
         ∃ t y, exec x.1 s = .next t ∧ (t.arm u).st = .warp y ∧ (t.arm u).pc = (s.arm u).pc ∧ y.desc = desc ∧ y.exec = e.act ∧
           y.key = x.2.2 ++ [desc.toNat] ∧ y.pc = (s.arm u).pc ∧ y.mode = (s.arm u).mode ∧ OthersKept s t u ∧
           RegsKept s t u (fun _ _ => False) (fun _ => False) (fun _ _ => False) ∧ FlagsDue s t u 0 ∧
           (t.wave u.b u.w).arm (!u.armB) = (s.wave u.b u.w).arm (!u.armB)) ∧
       (TakesTraps s u →
         (∀ i, least gone i → trap 6 (BitVec.ofNat 64 i)) ∧
         (∀ i, (∀ j, ¬ gone j) → least lost i → trap 6 (BitVec.ofNat 64 i)) ∧
         (∀ i, (∀ j, ¬ gone j ∧ ¬ lost j) → least alien i → trap 7 (BitVec.ofNat 64 i)) ∧
         ((∀ j, ¬ gone j ∧ ¬ lost j ∧ ¬ alien j) → divided → ∀ y, sib.st = .warp y → (∃ i ∈ e.lanes, (memberSet y.desc).getLsbD i = true) →
           y.key ≠ x.2.2 ++ [desc.toNat] → u.armB = false ∨ y.clk ≠ s.clk → trap 8 0)))

/-- Of a set of lanes, ballot bit j below 32 is 1 exactly when some mask word has its bit j set, and bit 32 + w exactly when mask word w is not empty. Under every integer type the add reduction over a set of up to 1,024 lanes is the sum of their values wrapped into the type, whatever the order of summation, and raises no flag.
(R87, R195, R198) -/
def Obligations.BallotsAndReductions : Prop :=
  (∀ (m : LaneMask) (j : Nat), j < 32 →
    ((ballotOf m).getLsbD j = true ↔ ∃ w, w < 32 ∧ m.getLsbD (32 * w + j) = true) ∧
    ((ballotOf m).getLsbD (32 + j) = true ↔ ∃ i, i < 32 ∧ m.getLsbD (32 * j + i) = true)) ∧
  (∀ (et rm n : Nat) (fz : Bool) (m : LaneMask) (v : Nat → Int), et ≤ 7 → n ≤ 1024 →
    waveReduce et rm fz 0 n m (fun i => intReg et (v i)) =
      (intReg et (((List.range n).filter fun i => m.getLsbD i).foldl (fun a i => a + v i) 0), 0))

/-- For every state in which the instruction issues: br goes to its target exactly when its condition holds of the count of active lanes whose predicate reads 1 (any: at least one; all: as many as are active; none: none), and else to the next instruction; bra goes to its target; call writes the next instruction's address to kD and goes to its target; ret and jmpi go to kA where it is aligned and canonical, and otherwise raise a precise ALIGNMENT or TRANSLATION trap with kA in fault1. No other register, flag or byte of memory changes.
(R135, R136, R137, R138, R139, R151, R156) -/
def Obligations.BranchesAndJumps : Prop :=
  ∀ (s : State) (u : Cursor) (sw : Bool) (cond : BitVec 8) (q : QPred) (off : BitVec 30) (kd ka : KReg),
    let e := s.env u
    let there := (s.arm u).pc + (off ++ 0#2).signExtend 64
    let c := (e.lanes.filter fun i => (e.wv.preg q.p.toNat).getLsbD i != q.neg).length
    let x := e.wv.kreg ka.toNat
    (Issues s u sw (fun _ => { ps := [q.p.toNat], guarded := true }) →
      ∃ t, exec (.br sw cond q off) s = .next t ∧
        PcResult s t u sw (if (if cond = 0 then 1 ≤ c else if cond = 1 then c = e.lanes.length else c = 0) then there else (s.arm u).pc + 8)) ∧
    (Issues s u sw plainForm → ∃ t, exec (.bra sw off) s = .next t ∧ PcResult s t u sw there) ∧
    (Issues s u sw (kForm [kd]) → ∃ t, exec (.call sw kd off) s = .next t ∧ UniformResult s t u sw there kd.toNat ((s.arm u).pc + 8)) ∧
    (Issues s u sw (kForm [ka]) → x.extractLsb' 0 2 = 0 → x = (x.setWidth 57).signExtend 64 →
      (∃ t, exec (.ret sw ka) s = .next t ∧ PcResult s t u sw x) ∧ ∃ t, exec (.jmpi sw ka) s = .next t ∧ PcResult s t u sw x) ∧
    (Issues s u sw (kForm [ka]) → TakesTraps s u → ∀ i ∈ [Instr.ret sw ka, .jmpi sw ka],
      (x.extractLsb' 0 2 ≠ 0 → ∃ t, exec i s = .next t ∧ TrapEntered s t u 2 false (s.arm u).pc x) ∧
      (x.extractLsb' 0 2 = 0 → x ≠ (x.setWidth 57).signExtend 64 → ∃ t, exec i s = .next t ∧ TrapEntered s t u 3 false (s.arm u).pc x))

/-- In every state where it issues, nop only moves the arm to the next instruction, and with S = 1 empties the destination mask; where a register result of the arm is outstanding, nop^ leaves the instruction unissued, the arm parked, every register as it was.
(R142) -/
def Obligations.NopAndSwitchMarker : Prop :=
  ∀ (s : State) (u : Cursor) (sw : Bool),
    (Issues s u sw plainForm → ∃ t, exec (.nop sw) s = .next t ∧ PcResult s t u sw ((s.arm u).pc + 4)) ∧
    (s.cur = some u → (s.wave u.b u.w).mine u.armB ≠ [] → u.b < s.blocks.length → u.w < (s.block u.b).waves.length →
      (u.armB = true → (s.wave u.b u.w).b.isSome = true) → s.reports = [] →
      ∃ t, exec (.nop true) s = .next t ∧ (t.arm u).st = .parked ∧ (t.arm u).pc = (s.arm u).pc ∧ (t.arm u).dmask = (s.arm u).dmask ∧
        (t.wave u.b u.w).outst = (s.wave u.b u.w).outst ∧ RegsKept s t u (fun _ _ => False) (fun _ => False) (fun _ _ => False))

/-- For every state in which the instruction issues: mode replaces the selected fields (GP, ET, RM, SAT, FZ) of the arm's mode register and keeps the others, and wrsr to mode replaces it whole, where the value has no reserved bit and no unassigned ET or RM; nothing else changes. Where the value is illegal, or kA bit[63:32] is not zero, and a trap would enter the handler, ILLEGAL_INSTRUCTION is raised and mode keeps its old value.
(R17, R140, R141, R153) -/
def Obligations.ModeWrites : Prop :=
  ∀ (s : State) (u : Cursor) (sw : Bool) (sel : BitVec 5) (img : Word) (ka : KReg),
    let old := (s.arm u).mode
    let x := (s.wave u.b u.w).kreg ka.toNat
    let pick := fun (b : Bool) (n : Nat) => if b then img.getLsbD n else old.getLsbD n
    let legal := fun (m : Word) => m.toNat < 2 ^ 13 ∧ m.toNat / 8 % 32 ≤ 23 ∧ m.toNat / 256 % 8 ≤ 5
    let wrote := fun (i : Instr) (len : Nat) (m : Word) =>
      ∃ t, exec i s = .next t ∧ (t.arm u).mode = m ∧
        PcResult s (t.modArm u fun a => { a with mode := old }) u sw ((s.arm u).pc + BitVec.ofNat 64 len)
    let refused := fun (i : Instr) => TakesTraps s u → ∃ t, exec i s = .next t ∧ TrapEntered s t u 1 false (s.arm u).pc 0
    (Issues s u sw plainForm →
      let m := (old &&& ~~~(modeSelMask sel)) ||| (img &&& modeSelMask sel)
      (∀ n, n < 13 → m.getLsbD n =
        pick (if n < 3 then sel.getLsbD 0 else if n < 8 then sel.getLsbD 1 else if n < 11 then sel.getLsbD 2 else sel.getLsbD (n - 8)) n) ∧
      (legal m → wrote (.mode sw sel img) 8 m) ∧ (¬ legal m → refused (.mode sw sel img))) ∧
    (Issues s u sw (kForm [ka]) →
      (x.toNat < 2 ^ 32 ∧ legal (x.setWidth 32) → wrote (.wrsrMode sw ka) 4 (x.setWidth 32)) ∧
      (¬ (x.toNat < 2 ^ 32 ∧ legal (x.setWidth 32)) → refused (.wrsrMode sw ka)))

/-- For every state in which the instruction issues: rdsr into kD writes the register's value once for the wave, zero-extended, where the number is assigned and readable there, and raises ILLEGAL_INSTRUCTION otherwise; rdsr into vD writes it in each active lane, lane giving each lane its own number; status reads without the flags that are still due (R92); clock writes the die's clk counter. Nothing else changes.
(R16, R46, R92, R149, R152, R154) -/
def Obligations.SpecialRegisterReads : Prop :=
  ∀ (s : State) (u : Cursor) (sw : Bool) (n : BitVec 8) (kd : KReg) (d : VReg),
    let e := s.env u
    let value := fun (lane : Nat) => (match n.toNat with
      | 0x00 => BitVec.ofNat 64 (e.ln.roles.toNat / 4 ^ e.wv.idx % 4)
      | 0x01 => BitVec.ofNat 64 lane
      | 0x02 => BitVec.ofNat 64 e.wv.idx
      | 0x03 => BitVec.ofNat 64 e.blk.index
      | 0x04 => BitVec.ofNat 64 (s.gang e.blk.launch e.blk.gang).number
      | 0x05 => BitVec.ofNat 64 (e.blk.core % 64)
      | 0x06 => BitVec.ofNat 64 e.blk.vdie
      | 0x07 => BitVec.ofNat 64 e.cx.number
      | 0x08 => e.ln.seq.setWidth 64
      | 0x09 => e.wv.status.setWidth 64
      | 0x0A => e.arm.mode.setWidth 64
      | 0x0B => s.timeOf e.blk.die
      | 0x0C => e.wv.fault0
      | 0x0D => e.wv.fault1
      | 0x10 => e.blk.sampctl
      | _ => e.blk.sampbuf : DWord)
    (Issues s u sw (kForm [kd]) →
      n.toNat ∈ [0, 2, 3, 4, 5, 6, 7, 8, 9, 0xA, 0xB, 0xC, 0xD, 0x10, 0x11] →
        ∃ t, exec (.rdsrK sw kd n) s = .next t ∧ UniformResult s t u sw ((s.arm u).pc + 4) kd.toNat (value 0)) ∧
    (Issues s u sw (fun _ => { vs := [{ r := d.toNat, dest := true }], guarded := true }) →
      n.toNat ∈ [0, 1, 2, 3, 4, 5, 6, 7, 8, 9, 0xA] →
        ∃ t, exec (.rdsrV sw d n) s = .next t ∧ LaneResult s t u sw 4 d.toNat false fun i => (value i, 0)) ∧
    (Issues s u sw (kForm [kd]) →
      ∃ t, exec (.clock sw kd) s = .next t ∧ UniformResult s t u sw ((s.arm u).pc + 4) kd.toNat (s.clkOf e.blk.die)) ∧
    (TakesTraps s u → Issues s u sw plainForm →
      (n.toNat ∉ [0, 2, 3, 4, 5, 6, 7, 8, 9, 0xA, 0xB, 0xC, 0xD, 0x10, 0x11] →
        ∃ t, exec (.rdsrK sw kd n) s = .next t ∧ TrapEntered s t u 1 false (s.arm u).pc 0) ∧
      (n.toNat ∉ [0, 1, 2, 3, 4, 5, 6, 7, 8, 9, 0xA] →
        ∃ t, exec (.rdsrV sw d n) s = .next t ∧ TrapEntered s t u 1 false (s.arm u).pc 0))

/-- For every state in which the instruction issues: wrsr to status clears, of the flags that are raised, those whose bit of kA is 1, and no other bit, while flags that are due stay due (R92); to fault0 writes kA but bit 57, which reads zero; to fault1 writes kA; to sampctl writes EN, GAP and MARKS, clears FAULT by a 1 and keeps HEAD; to sampbuf writes it and zeroes HEAD; a sampctl or sampbuf value that breaks its limits raises ILLEGAL_INSTRUCTION. Nothing else changes.
(R7, R8, R92, R150, R153, R451) -/
def Obligations.SpecialRegisterWrites : Prop :=
  ∀ (s : State) (u : Cursor) (sw : Bool) (ka : KReg),
    let k := s.block u.b
    let w := s.wave u.b u.w
    let x := w.kreg ka.toNat
    let pc := (s.arm u).pc + 4
    let ctlOk := (x &&& 0xFFFCE0FE#64) = 0 ∧ 6 ≤ x.toNat / 256 % 32 ∧ x.toNat / 256 % 32 ≤ 16
    let bufOk := (x &&& 0xFE00000000000FF0#64) = 0 ∧ x.toNat % 16 ≤ 12
    Issues s u sw (kForm [ka]) →
      (∃ t, exec (.wrsrStatus sw ka) s = .next t ∧
        (∀ n, (t.wave u.b u.w).status.getLsbD n = (w.status.getLsbD n && !(decide (n < 7) && x.getLsbD n))) ∧
        PcResult s (t.modWave u.b u.w fun v => { v with status := w.status }) u sw pc) ∧
      (∃ t, exec (.wrsrFault0 sw ka) s = .next t ∧
        (∀ n, (t.wave u.b u.w).fault0.getLsbD n = (x.getLsbD n && decide (n ≠ 57))) ∧
        PcResult s (t.modWave u.b u.w fun v => { v with fault0 := w.fault0 }) u sw pc) ∧
      (∃ t, exec (.wrsrFault1 sw ka) s = .next t ∧ (t.wave u.b u.w).fault1 = x ∧
        PcResult s (t.modWave u.b u.w fun v => { v with fault1 := w.fault1 }) u sw pc) ∧
      (ctlOk → ∃ t, exec (.wrsrSampctl sw ka) s = .next t ∧
        (∀ n, n < 64 → (t.block u.b).sampctl.getLsbD n =
          if n ≥ 32 then k.sampctl.getLsbD n else if n = 17 then k.sampctl.getLsbD 17 && !x.getLsbD 17
          else (n = 0 || (8 ≤ n && n ≤ 12) || n = 16) && x.getLsbD n) ∧
        PcResult s (t.modBlock u.b fun b => { b with sampctl := k.sampctl }) u sw pc) ∧
      (bufOk → ∃ t, exec (.wrsrSampbuf sw ka) s = .next t ∧ (t.block u.b).sampbuf = x ∧
        (t.block u.b).sampctl = (k.sampctl.setWidth 32).setWidth 64 ∧
        PcResult s (t.modBlock u.b fun b => { b with sampctl := k.sampctl, sampbuf := k.sampbuf, marks := k.marks }) u sw pc) ∧
      (TakesTraps s u →
        (¬ ctlOk → ∃ t, exec (.wrsrSampctl sw ka) s = .next t ∧ TrapEntered s t u 1 false (s.arm u).pc 0) ∧
        (¬ bufOk → ∃ t, exec (.wrsrSampbuf sw ka) s = .next t ∧ TrapEntered s t u 1 false (s.arm u).pc 0))

/-- For every state in which the instruction issues with no result outstanding and no report of the wave on its way: trap, and brk without debugging, enter the handler with the cause, the next instruction's address and the code; tret, while HND = 1, clears HND, raises the flags that are due, goes to the sign-extended address of fault0 with an empty destination mask, and outside a handler raises ILLEGAL_INSTRUCTION; halt, and brk under debugging, halt the wave at the next instruction and post a fault record.
(R143, R151, R155, R156, R157) -/
def Obligations.SoftwareTraps : Prop :=
  ∀ (s : State) (u : Cursor) (sw : Bool) (code : BitVec 8),
    let w := s.wave u.b u.w
    let next := (s.arm u).pc + 4
    let debug := (s.ctx (s.launch (s.block u.b).launch).ctx).debug
    Issues s u sw plainForm →
      (TakesTraps s u →
        (∃ t, exec (.trap sw code) s = .next t ∧ TrapEntered s t u 28 false next (code.setWidth 64)) ∧
        (debug = false → ∃ t, exec (.brk sw code) s = .next t ∧ TrapEntered s t u 29 false next (code.setWidth 64)) ∧
        ∃ t, exec (.tret sw) s = .next t ∧ TrapEntered s t u 1 false (s.arm u).pc 0) ∧
      (w.outst = [] → w.status.getLsbD 8 = true → ∃ t, exec (.tret sw) s = .next t ∧
        (t.arm u).pc = (w.fault0.setWidth 57).signExtend 64 ∧ (t.arm u).dmask = 0 ∧ (t.arm u).st = .ready ∧
        (∀ n, n < 32 → (t.wave u.b u.w).status.getLsbD n = ((w.status ||| w.lateFlags.setWidth 32).getLsbD n && decide (n ≠ 8))) ∧
        (t.wave u.b u.w).late = [] ∧ (t.arm u).skipAt = none ∧
        PcResult s (t.modWave u.b u.w fun v => { v.modArm u.armB fun a =>
          { a with st := (s.arm u).st, dmask := if sw then 0 else (s.arm u).dmask, skipAt := (s.arm u).skipAt } with status := w.status, late := w.late })
          u sw ((w.fault0.setWidth 57).signExtend 64)) ∧
      (w.outst = [] → (∀ r ∈ s.reports, ¬ (r.b = u.b ∧ r.w = u.w)) → HaltedWith s u 27 0 next 0 0 (exec (.halt sw) s) ∧
        (debug = true → HaltedWith s u 29 0 next (code.setWidth 64) 0 (exec (.brk sw code) s)))

/-- A wave with HND = 0 and a handler, with no result outstanding and no report on its way, enters its handler at a trap: fault0, fault1, HND, an empty destination mask and the handler's address, and nothing else changes. Without a handler, or while HND = 1, it halts where it is, with a record in the context's fault queue. While a result is outstanding that is not yet bound, the arm waits with the trap, which is not taken yet.
(R29, R151, R156, R377, R381) -/
def Obligations.TrapEntry : Prop :=
  ∀ (s : State) (u : Cursor) (len : Nat) (x : Trap), u.b < s.blocks.length → u.w < (s.block u.b).waves.length →
    (u.armB = true → (s.wave u.b u.w).b.isSome = true) →
    let pc := if x.after then (s.arm u).pc + BitVec.ofNat 64 len else (s.arm u).pc
    (TakesTraps s u → TrapEntered s (s.takeTrap u len x) u x.cause false pc x.info) ∧
    ((s.wave u.b u.w).outst = [] → (∀ r ∈ s.reports, ¬ (r.b = u.b ∧ r.w = u.w)) →
      (s.wave u.b u.w).status.getLsbD 8 = true ∨ (s.launch (s.block u.b).launch).handler = 0 →
      HaltedWith s u x.cause x.sub pc x.info x.atWord (.next (s.takeTrap u len x)) ∧
      ((s.takeTrap u len x).wave u.b u.w).fault0 = (s.wave u.b u.w).fault0) ∧
    ((∃ r ∈ (s.wave u.b u.w).outst, r.kind.bound = false) →
      ((s.takeTrap u len x).arm u).st = .trap { cause := x.cause, sub := x.sub, deferred := false, halts := false, pc := pc, info := x.info
                                                atWord := x.atWord, site := (s.arm u).pc, seq := none } ∧
      ((s.takeTrap u len x).arm u).pc = (s.arm u).pc ∧
      ((s.takeTrap u len x).wave u.b u.w).fault0 = (s.wave u.b u.w).fault0)

/-- For every state in which it issues: mget writes to kD the 32 bits of a predicate within mask word w of the current mask, with bit 32 + w set where that word is not empty, and 0 for a word beyond the wave's lanes; mset writes kA bit j to the predicate in each lane 32w + j of the current mask, p0 and words beyond the lanes discarding it. Nothing else changes.
(R13, R199) -/
def Obligations.MaskWords : Prop :=
  ∀ (s : State) (u : Cursor) (sw : Bool) (kd ka : KReg) (n : BitVec 8),
    let e := s.env u
    let w := n.toNat % 32
    let p := n.toNat / 32
    let inside := 32 * w < e.ln.lanes
    (Issues s u sw (fun _ => { ks := [kd.toNat], ps := [p] }) →
      ∃ t x, exec (.mget sw kd n) s = .next t ∧ UniformResult s t u sw ((s.arm u).pc + 8) kd.toNat x ∧ (¬ inside → x = 0) ∧
        (inside → ∀ j, j < 32 →
          x.getLsbD j = (e.arm.mask.getLsbD (32 * w + j) && (e.wv.preg p).getLsbD (32 * w + j)) ∧
          (x.getLsbD (32 + j) = true ↔ j = w ∧ ∃ i, i < 32 ∧ e.arm.mask.getLsbD (32 * w + i) = true))) ∧
    (Issues s u sw (fun _ => { ks := [ka.toNat], ps := [p] }) →
      ∃ t, exec (.mset sw n ka) s = .next t ∧ OthersKept s t u ∧ ArmWent s t u sw ((s.arm u).pc + 8) ∧
        FlagsDue s t u 0 ∧
        RegsKept s t u (fun _ _ => False) (fun _ => False)
          (fun m i => m = p ∧ p ≠ 0 ∧ inside ∧ 32 * w ≤ i ∧ i < 32 * w + 32 ∧ e.arm.mask.getLsbD i = true) ∧
        (p ≠ 0 → inside → ∀ j, j < 32 → e.arm.mask.getLsbD (32 * w + j) = true →
          ((t.wave u.b u.w).preg p).getLsbD (32 * w + j) = (e.wv.kreg ka.toNat).getLsbD j))

/-- For every state in which bdiv issues with a free stack entry: an undivided wave gets two arms, one with the lanes of its mask whose predicate reads 1 at the target, one with the others at the next instruction, each with the mode and destination mask, and all outstanding results belong to both; an arm of a divided wave goes on with its taken lanes at the target. Either way an entry with the rejoin address, the parent mask, the mode and the pending lanes is pushed; no register, flag or byte of memory changes. With sixteen entries in use, DIVERGENCE_OVERFLOW is raised.
(R135, R185, R141) -/
def Obligations.Divergence : Prop :=
  ∀ (s : State) (u : Cursor) (sw : Bool) (q : QPred) (off rej : BitVec 30),
    let w := s.wave u.b u.w
    let a := s.arm u
    let pq := fun i => (w.preg q.p.toNat).getLsbD i != q.neg
    let dm := if sw then 0 else a.dmask
    Issues s u sw (fun _ => { ps := [q.p.toNat] }) →
      (16 ≤ w.stack.length → TakesTraps s u → ∃ t, exec (.bdiv sw q off rej) s = .next t ∧ TrapEntered s t u 10 false a.pc 0) ∧
      (w.stack.length < 16 → a.st = .ready → (∀ x, (w.arm (!u.armB)).st ≠ .warp x) →
        ∃ t en, exec (.bdiv sw q off rej) s = .next t ∧ OthersKept s t u ∧
          RegsKept s t u (fun _ _ => False) (fun _ => False) (fun _ _ => False) ∧ FlagsDue s t u 0 ∧
          (t.wave u.b u.w).stack = w.stack ++ [en] ∧
          en.ownerB = u.armB ∧ en.topmost = (!w.divided) ∧ en.rejoin = a.pc + (rej ++ 0#2).signExtend 64 ∧ en.parent = a.mask ∧
          en.mode = a.mode ∧ en.pendPc = a.pc + 12 ∧ en.pendDone = false ∧
          (∀ i, i < 1024 → en.pend.getLsbD i = (a.mask.getLsbD i && !pq i)) ∧
          (t.arm u).pc = a.pc + (off ++ 0#2).signExtend 64 ∧ (t.arm u).mode = a.mode ∧ (t.arm u).dmask = dm ∧
          (∀ i, i < 1024 → (t.arm u).mask.getLsbD i = (a.mask.getLsbD i && pq i)) ∧
          (w.divided = true → (t.wave u.b u.w).arm (!u.armB) = w.arm (!u.armB) ∧ (t.wave u.b u.w).outst = w.outst) ∧
          (w.divided = false → u.armB = false → ∃ y, (t.wave u.b u.w).b = some y ∧ y.pc = a.pc + 12 ∧ y.mask = en.pend ∧ y.mode = a.mode ∧
            y.dmask = dm ∧ (t.wave u.b u.w).outst = w.outst.map fun r => { r with owner := 2 }))

/-- When an arm of a topmost divergence, at its rejoin and without outstanding results or undelivered reports, is stepped by REJOIN: it stops where the other arm is still running, which stays as it is; and where the other arm has stopped, the wave is undivided again at the rejoin address with the parent's lanes that have not exited, the mode of the bdiv, an empty destination mask, no arrival record, and the topmost entry gone (arm A's scope, the later last-issue time and what is incomplete of both fences stay: log 33). An arm at the rejoin of its last serialised entry goes on with the pending lanes that have not exited, at the pending address, where it has not run them yet (the entry then has pend_done), and else pops the entry and goes on at the rejoin with the parent's lanes; its arrival record stays (log 33), and the other arm does not change. No register, flag or byte of memory changes.
(R186, R141, R204) -/
def Obligations.RejoinOfTheTopmostDivergence : Prop :=
  (∀ (s : State) (u : Cursor) (x : StackEntry) (y : Arm),
    let w := s.wave u.b u.w
    s.cur = some u → u.b < s.blocks.length → u.w < (s.block u.b).waves.length → w.done = false → w.b = some y → w.outst = [] → s.reports = [] →
    (∀ z ∈ w.stack, z.topmost = true ∨ z.ownerB ≠ u.armB) → w.stack.find? (fun z => z.topmost) = some x →
    (w.arm u.armB).pc = x.rejoin ∨ (w.arm u.armB).mask = 0 →
    (∀ z, (w.arm (!u.armB)).st ≠ .warp z) →
    ∃ t, exec .rejoin s = .next t ∧ PlacesKept s t u ∧ RegsKept s t u (fun _ _ => False) (fun _ => False) (fun _ _ => False) ∧ FlagsDue s t u 0 ∧
      ((w.arm (!u.armB)).st ≠ .stopped → (t.arm u).st = .stopped ∧ (t.wave u.b u.w).b.isSome = true ∧ (t.wave u.b u.w).stack = w.stack ∧
        (t.wave u.b u.w).arm (!u.armB) = w.arm (!u.armB) ∧ { t.arm u with st := (w.arm u.armB).st, reason := (w.arm u.armB).reason } = w.arm u.armB) ∧
      ((w.arm (!u.armB)).st = .stopped → (t.wave u.b u.w).b = none ∧ (t.wave u.b u.w).stack = w.stack.filter (fun z => !z.topmost) ∧
        (t.wave u.b u.w).a.pc = x.rejoin ∧ (t.wave u.b u.w).a.mask = x.parent &&& ~~~w.exited ∧ (t.wave u.b u.w).a.mode = x.mode ∧
        (t.wave u.b u.w).a.dmask = 0 ∧ (t.wave u.b u.w).a.st = .ready ∧ (t.wave u.b u.w).a.arrival = none ∧
        (t.wave u.b u.w).a.scope = w.a.scope ∧ (t.wave u.b u.w).a.lastIssue = max w.a.lastIssue y.lastIssue ∧
        (w.a.fence = none → (t.wave u.b u.w).a.fence = y.fence) ∧ (y.fence = none → (t.wave u.b u.w).a.fence = w.a.fence))) ∧
  (∀ (s : State) (u : Cursor) (l r : List StackEntry) (x : StackEntry),
    let w := s.wave u.b u.w
    let a := w.arm u.armB
    s.cur = some u → u.b < s.blocks.length → u.w < (s.block u.b).waves.length → w.done = false → (u.armB = true → w.b.isSome = true) →
    w.outst = [] → s.reports = [] → (∀ z, (w.arm (!u.armB)).st ≠ .warp z) →
    w.stack = l ++ x :: r → x.topmost = false → x.ownerB = u.armB → (∀ z ∈ r, z.topmost = true ∨ z.ownerB ≠ u.armB) →
    a.pc = x.rejoin ∨ a.mask = 0 →
    ∃ t, exec .rejoin s = .next t ∧ OthersKept s t u ∧ RegsKept s t u (fun _ _ => False) (fun _ => False) (fun _ _ => False) ∧ FlagsDue s t u 0 ∧
      (t.wave u.b u.w).arm (!u.armB) = w.arm (!u.armB) ∧ (t.wave u.b u.w).b.isSome = w.b.isSome ∧
      { t.arm u with mask := a.mask, pc := a.pc, dmask := a.dmask, st := a.st, mode := a.mode } = a ∧
      (t.arm u).mode = x.mode ∧ (t.arm u).dmask = 0 ∧ (t.arm u).st = .ready ∧
      (x.pendDone = false → (t.wave u.b u.w).stack = l ++ { x with pendDone := true } :: r ∧ (t.arm u).mask = x.pend &&& ~~~w.exited ∧
        (t.arm u).pc = x.pendPc) ∧
      (x.pendDone = true → (t.wave u.b u.w).stack = l ++ r ∧ (t.arm u).mask = x.parent &&& ~~~w.exited ∧ (t.arm u).pc = x.rejoin))

/-- For every state in which exit issues: its active lanes leave the current mask and every stack entry's masks and join the exited lanes; the others go on at the next instruction; no register, flag or byte of memory changes, and outstanding results stay, except that with the wave's last lane its waiting receives end and their held-table reservations are given back.
(R189, R369) -/
def Obligations.ExitingLanes : Prop :=
  ∀ (s : State) (u : Cursor) (sw : Bool),
    let e := s.env u
    let gone := fun i => decide (i ∈ e.lanes)
    Issues s u sw (fun _ => { guarded := true }) → (∀ x, (e.wv.arm (!u.armB)).st ≠ .warp x) →
    let stay := ∃ i, i < e.ln.lanes ∧ e.wv.exited.getLsbD i = false ∧ i ∉ e.lanes
    let waits := fun (r : OutRes) => ∃ held k, r.kind = .recv held k
    ∃ t, exec (.exit sw) s = .next t ∧ OthersKept s (t.modBlock u.b fun k => { k with reserved := (s.block u.b).reserved }) u ∧
      RegsKept s t u (fun _ _ => False) (fun _ => False) (fun _ _ => False) ∧ FlagsDue s t u 0 ∧
      (stay ∨ (∀ r ∈ e.wv.outst, ¬ waits r) →
        (t.wave u.b u.w).outst = e.wv.outst ∧ (t.block u.b).reserved = (s.block u.b).reserved ∧ (t.wave u.b u.w).arm (!u.armB) = e.wv.arm (!u.armB)) ∧
      (¬ stay → (∀ r, r ∈ (t.wave u.b u.w).outst ↔ r ∈ e.wv.outst ∧ ¬ waits r) ∧
        (t.block u.b).reserved + (e.wv.outst.length - (t.wave u.b u.w).outst.length) = max (s.block u.b).reserved (e.wv.outst.length - (t.wave u.b u.w).outst.length) ∧
        { (t.wave u.b u.w).arm (!u.armB) with st := (e.wv.arm (!u.armB)).st, waited := (e.wv.arm (!u.armB)).waited } = e.wv.arm (!u.armB)) ∧
      (t.arm u).pc = e.arm.pc + 4 ∧ (t.arm u).dmask = (if sw then 0 else e.arm.dmask) ∧ (t.arm u).mode = e.arm.mode ∧
      (∀ i, i < 1024 → (t.arm u).mask.getLsbD i = (e.arm.mask.getLsbD i && !gone i) ∧
        (t.wave u.b u.w).exited.getLsbD i = (e.wv.exited.getLsbD i || gone i)) ∧
      (t.wave u.b u.w).stack = e.wv.stack.map fun x => { x with parent := x.parent &&& ~~~e.act, pend := x.pend &&& ~~~e.act }

/-- For every state in which give #n or claim #n issues while no claim waits: a divided wave, one that would keep none, or one that would exceed 32 octets takes OCTET_STATE with n; give takes SEGMENT_HAZARD where one of their registers is in the destination mask, and else returns n octets to the pool and keeps every other register; claim joins the block's queue and waits, and when the clk ends, which serves the claims that arrived in it (R168, log 6), it gets n octets where the pool has them, their registers reading zero in every lane, with pD 1 in every lane of the current mask, goes on waiting where the pool has fewer while another wave of the block does not wait in claim, and fails with pD 0 where every other wave does. No flag, no other register and no byte of memory changes. Serving a block's queue only removes claims from its front, in order; pool and held octets together stay; where a claim remains at the head, either the pool does not cover it, or it came there by the deadlock break.
(R13, R167, R168, R169, R205) -/
def Obligations.OctetMoves : Prop :=
  (∀ (s : State) (u : Cursor) (sw : Bool) (n : BitVec 8),
    let w := s.wave u.b u.w
    Issues s u sw plainForm →
      (w.b.isSome ∨ w.octets ≤ n.toNat → TakesTraps s u →
        ∃ t, exec (.give sw n) s = .next t ∧ TrapEntered s t u 11 false (s.arm u).pc (n.setWidth 64)) ∧
      (w.b = none → n.toNat < w.octets → ∀ i, 4 * (w.octets - n.toNat) ≤ i → i < 4 * w.octets → sw = false → w.a.dmask.getLsbD i = true →
        (∀ j, 4 * (w.octets - n.toNat) ≤ j → j < i → w.a.dmask.getLsbD j = false) → u.armB = false → TakesTraps s u →
        ∃ t, exec (.give sw n) s = .next t ∧ TrapEntered s t u 5 false (s.arm u).pc (BitVec.ofNat 64 i)) ∧
      (w.b = none → u.armB = false → n.toNat < w.octets → (s.block u.b).claims = [] →
        (∀ i, i < 4 * w.octets → 4 * (w.octets - n.toNat) ≤ i → sw = true ∨ w.a.dmask.getLsbD i = false) →
        ∃ t, exec (.give sw n) s = .next t ∧ (t.wave u.b u.w).octets = w.octets - n.toNat ∧
          (t.block u.b).pool = (s.block u.b).pool + n.toNat ∧
          RegsKept s t u (fun r _ => 8 * (w.octets - n.toNat) ≤ r) (fun _ => False) (fun _ _ => False) ∧
          FlagsDue s t u 0 ∧ ArmWent s (t.modWave u.b u.w fun v => { v with octets := w.octets }) u sw ((s.arm u).pc + 4) ∧
          OthersKept s (t.modBlock u.b fun k => { k with pool := (s.block u.b).pool }) u)) ∧
  (∀ (s : State) (u : Cursor) (sw : Bool) (pd : PReg) (n : BitVec 8),
    let w := s.wave u.b u.w
    let k := s.block u.b
    let busy := ∃ j, j < k.waves.length ∧ j ≠ u.w ∧ (s.wave u.b j).done = false ∧ (s.wave u.b j).claiming = false
    Issues s u sw (fun _ => { ps := [pd.toNat], mem := true }) →
      (w.b.isSome ∨ 32 < w.octets + n.toNat → TakesTraps s u →
        ∃ t, exec (.claim sw pd n) s = .next t ∧ TrapEntered s t u 11 false (s.arm u).pc (n.setWidth 64)) ∧
      (w.b = none → u.armB = false → w.octets + n.toNat ≤ 32 → k.claims = [] → w.done = false → w.halted = false →
        ∃ t', exec (.claim sw pd n) s = .next t' ∧ (t'.block u.b).claims = [(u.w, n.toNat)] ∧ (t'.arm u).st = .claim pd.toNat n.toNat ∧
          let t := t'.modBlock u.b Block.endClk
          (t.arm u).pc = w.a.pc + 4 ∧
          (∀ b, b ≠ u.b → t.block b = s.block b) ∧ (∀ a, t.byteAt a = s.byteAt a) ∧ (∀ j, j ≠ u.w → t.wave u.b j = s.wave u.b j) ∧
          RegsKept s t u (fun r _ => n.toNat ≤ k.pool ∧ 8 * w.octets ≤ r) (fun _ => False) (fun p i => p = pd.toNat ∧ pd ≠ 0 ∧ w.a.mask.getLsbD i = true) ∧
          FlagsDue s t u 0 ∧ { t with blocks := s.blocks } = s ∧
          { t.block u.b with waves := k.waves, pool := k.pool, claims := k.claims, claimNow := k.claimNow } = k ∧
          { t.wave u.b u.w with octets := w.octets, v := w.v, p := w.p, softRegs := w.softRegs, badRegs := w.badRegs, a := w.a } = w ∧
          { (t.arm u) with pc := w.a.pc, dmask := w.a.dmask, st := w.a.st, lastIssue := w.a.lastIssue, reason := w.a.reason
                           skipBp := w.a.skipBp, waited := w.a.waited } = w.a ∧
          (let pdIs := fun (x : Bool) => pd ≠ 0 → ∀ i, i < 1024 → w.a.mask.getLsbD i = true → ((t.wave u.b u.w).preg pd.toNat).getLsbD i = x
           if n.toNat ≤ k.pool then
             (t.wave u.b u.w).octets = w.octets + n.toNat ∧ (t.block u.b).pool = k.pool - n.toNat ∧ (t.block u.b).claims = [] ∧
             (t.arm u).st = .ready ∧ pdIs true ∧ ∀ r i, i < 1024 → 8 * w.octets ≤ r → (t.wave u.b u.w).vreg r i = 0
           else
             (t.wave u.b u.w).octets = w.octets ∧ (t.block u.b).pool = k.pool ∧
             (busy → (t.block u.b).claims = [(u.w, n.toNat)] ∧ (t.arm u).st = .claim pd.toNat n.toNat) ∧
             (¬ busy → (t.block u.b).claims = [] ∧ (t.arm u).st = .ready ∧ pdIs false)))) ∧
  (∀ k : Block, (∀ x ∈ k.claims, x.1 < k.waves.length ∧ (k.waves.getD x.1 {}).done = false ∧ ∃ p, (k.waves.getD x.1 {}).a.st = .claim p x.2) → (k.claims.map (·.1)).Nodup →
    ∃ m, k.serve.claims = k.claims.drop m ∧
      k.serve.pool + (k.serve.waves.map (·.octets)).foldl (· + ·) 0 = k.pool + (k.waves.map (·.octets)).foldl (· + ·) 0 ∧
      (∀ x l, k.serve.claims = x :: l → k.serve.pool < x.2 ∨ (k.serve.waves.any fun v => !v.done && !v.claiming) = true))

/-- For every state in which yield issues: no register, flag or byte of memory changes and the arm goes on at the next instruction; where another wave of the core at its level or a higher one is ready, the arm first waits for exactly those waves. For every state in which mark issues: without MARKS or a ring nothing changes but the pc; with them the two words of a mark record are stored at the ring's place for HEAD, and HEAD advances by 1; where the place has no valid translation, no W or an encoded or aperture-only page, the record is dropped, EN clears and FAULT sets; where it stands at a peer whose link is down, it is lost and HEAD advances (log 28). No register, flag or other byte of memory changes.
(R206, R451, R452, R453, R455) -/
def Obligations.YieldAndMark : Prop :=
  (∀ (s : State) (u : Cursor) (sw : Bool), Issues s u sw (fun _ => { mem := true }) →
    ∃ t, exec (.yield sw) s = .next t ∧
      PcResult s (t.modArm u fun a => { a with st := (s.arm u).st, waited := (s.arm u).waited }) u sw ((s.arm u).pc + 4) ∧
      (∃ l, (t.arm u).st = (if l = [] then (s.arm u).st else .yield l) ∧
        ∀ b w, (b, w) ∈ l ↔ b < s.blocks.length ∧ w < (s.block b).waves.length ∧ (b, w) ≠ (u.b, u.w) ∧
          (s.block b).resident = true ∧ (s.block b).restoring = false ∧ (s.block b).core = (s.block u.b).core ∧
          (s.launch (s.block u.b).launch).priority ≤ (s.launch (s.block b).launch).priority ∧
          (s.wave b w).done = false ∧ (s.wave b w).halted = false ∧
          ((s.wave b w).a.st = .ready ∨ ∃ x, (s.wave b w).b = some x ∧ x.st = .ready))) ∧
  (∀ (s : State) (u : Cursor) (sw : Bool) (v : Half), Issues s u sw plainForm →
    let k := s.block u.b
    let n := s.launch k.launch
    let head := k.sampctl.toNat / 2 ^ 32
    let va : DWord := sx64 57 ((k.sampbuf &&& 0x01FFFFFFFFFFF000#64) + BitVec.ofNat 64 (16 * (head % 2 ^ (8 + k.sampbuf.toNat % 16))))
    let ring := k.sampctl.getLsbD 16 = true ∧ k.sampbuf ≠ 0
    let went := fun (t : State) =>
      WaveWent s (t.modBlock u.b fun k' => { k' with sampctl := k.sampctl, marks := k.marks, marksClk := k.marksClk }) u sw ((s.arm u).pc + 4)
    let cached := fun (t : State) => { t with blocks := s.blocks, tlb := s.tlb, walks := s.walks }
    let counted := fun (t : State) => (t.block u.b).sampctl.toNat = k.sampctl.toNat % 2 ^ 32 + (head + 1) % 2 ^ 32 * 2 ^ 32
    (¬ ring → ∃ t, exec (.mark sw v) s = .next t ∧ PcResult s t u sw ((s.arm u).pc + 4)) ∧
    let words := leBytes 8 (2 ^ 63 + 2 ^ 62 + (s.arm u).pc.toNat % 2 ^ 57) ++
      leBytes 8 (v.toNat * 2 ^ 40 + (if u.armB then 2 ^ 36 else 0) + (s.wave u.b u.w).idx * 2 ^ 32 + n.seq.toNat)
    let keys := s.engineKeys k.die (s.ctx n.ctx) va true 2 16
    (ring → ∀ key, keys = .ok (span key 16) → key + 16 ≤ peerBit → s.memGood = true →
      ∃ t, exec (.mark sw v) s = .next t ∧ went t ∧ OnlyMemory s (cached t) ∧ BytesPut s t key words ∧ counted t) ∧
    (ring → ∀ key, keys = .ok (span key 16) → peerBit ≤ key → s.linkDown (key / peerBit - 1) = true → s.memGood = true →
      ∃ t, exec (.mark sw v) s = .next t ∧ went t ∧ (∀ a, t.byteAt a = s.byteAt a) ∧ counted t) ∧
    (ring → (∃ x, keys = .error x) → s.memGood = true →
      ∃ t, exec (.mark sw v) s = .next t ∧ went t ∧ { cached t with preds := s.preds } = s ∧
        ∀ i, i < 64 → (t.block u.b).sampctl.getLsbD i = if i = 0 then false else if i = 17 then true else k.sampctl.getLsbD i))

/-- An arrival with count c opens a closed word, or advances GEN at once for c = 1; a differing count is refused; the last expected arrival advances GEN modulo 2^16 and closes the word; any other adds one; bit[63:48] are preserved. For every state in which the instruction issues at a well-formed readable word, of the block's own scratchpad or with PEER = 1 of a gang block's, outside compute-mode banks (and, for an arrival, outside banks that are changing their mode, with no LS work of the arm unperformed): bara performs one arrival at the word and records the generation it read; barw, with a record of this word, waits while GEN is the recorded one and else clears the record, and with a record of another word or none completes at once; bar arrives and then waits or goes on. An arrival writes the word's eight bytes and no others.
For every state in which a barrier instruction issues and a trap would enter the handler: a reserved bit of kA, a gang block that is not there, or a word beyond the named block's allocation raises SCRATCH_BOUNDS, and then an offset that is no multiple of 8 ALIGNMENT, each with kA in fault1; then, for bar and bara, a count outside 1 to 256 raises BARRIER_COUNT with kB, and an arrival at an own word in a compute-mode bank BANK_MODE with the offset.
(R200, R201, R202, R204, R268) -/
def Obligations.BarrierInstructions : Prop :=
  (∀ (w c : Nat), w < 2 ^ 64 → 1 ≤ c → c ≤ 256 →
    let gen := w / 2 ^ 32 % 2 ^ 16
    let arrived := w / 2 ^ 16 % 2 ^ 16
    let expect := w % 2 ^ 16
    let top := w / 2 ^ 48 * 2 ^ 48
    (expect = 0 → c = 1 → arrive w c = some (top + (gen + 1) % 2 ^ 16 * 2 ^ 32 + arrived * 2 ^ 16)) ∧
    (expect = 0 → c ≠ 1 → arrive w c = some (top + gen * 2 ^ 32 + 2 ^ 16 + c)) ∧
    (expect ≠ 0 → c ≠ expect → arrive w c = none) ∧
    (expect ≠ 0 → c = expect → arrived + 1 = expect → arrive w c = some (top + (gen + 1) % 2 ^ 16 * 2 ^ 32)) ∧
    (expect ≠ 0 → c = expect → arrived + 1 < expect → arrive w c = some (top + gen * 2 ^ 32 + (arrived + 1) * 2 ^ 16 + expect))) ∧
  (∀ (s : State) (u : Cursor) (sw : Bool) (ka kb : KReg) (b : Nat),
    let e := s.env u
    let k := s.block b
    let x := e.wv.kreg ka.toNat
    let c := (e.wv.kreg kb.toNat).toNat
    let named := fun (y : DWord) =>
      if y.getLsbD 24 then (s.gang e.blk.launch e.blk.gang).blocks.find? fun j => (s.block j).index == y.toNat / 2 ^ 20 % 16 else some u.b
    let o := x.toNat % 2 ^ 19
    let a := k.base + o
    let word := leNat (s.scrBytes k.core a 8)
    let gen := word / 2 ^ 32 % 2 ^ 16
    let after := fun (t : State) (w' : Nat) (rec : Option (DWord × Half)) =>
      (t.arm u).arrival = rec ∧ (t.arm u).pc = e.arm.pc + 8 ∧ (∀ i, t.byteAt i = s.byteAt i) ∧ BlocksKept s t u ∧
      RegsKept s t u (fun _ _ => False) (fun _ => False) (fun _ _ => False) ∧ FlagsDue s t u 0 ∧
      (t.wave u.b u.w).arm (!u.armB) = e.wv.arm (!u.armB) ∧
      leNat (t.scrBytes k.core a 8) = w' ∧ (∀ i, i < a ∨ a + 8 ≤ i → t.scrByte k.core i = s.scrByte k.core i)
    x.toNat < 2 ^ 25 → x.getLsbD 19 = false → named x = some b → o % 8 = 0 → o + 8 ≤ s.allocation k → s.computeIn k.core a 8 = false →
    s.scrBad k.core a 8 = false → (s.arm u).st = .ready →
    (Issues s u sw (fun _ => { ks := [ka.toNat, kb.toNat], mem := true }) → 1 ≤ c → c ≤ 256 → s.lsBusy u.b u.w u.armB = false →
      s.switching k.core [a] = false →
      (∀ w', arrive word c = some w' →
        (∃ t, exec (.bara sw ka kb) s = .next t ∧ after t w' (some (x, BitVec.ofNat 16 gen)) ∧ (t.arm u).st = .ready) ∧
        ∃ t, exec (.bar sw ka kb) s = .next t ∧
          if w' / 2 ^ 32 % 2 ^ 16 = gen then after t w' (some (x, BitVec.ofNat 16 gen)) ∧ (t.arm u).st = .barw x (BitVec.ofNat 16 gen)
          else after t w' none ∧ (t.arm u).st = .ready) ∧
      (arrive word c = none → TakesTraps s u →
        (∃ t, exec (.bara sw ka kb) s = .next t ∧ TrapEntered s t u 9 false (s.arm u).pc (e.wv.kreg kb.toNat)) ∧
        ∃ t, exec (.bar sw ka kb) s = .next t ∧ TrapEntered s t u 9 false (s.arm u).pc (e.wv.kreg kb.toNat))) ∧
    (Issues s u sw (fun _ => { ks := [ka.toNat], mem := true }) →
      (e.arm.arrival = none → ∃ t, exec (.barw sw ka) s = .next t ∧ after t word none ∧ (t.arm u).st = .ready) ∧
      (∀ r g, e.arm.arrival = some (r, g) → named r ≠ some b ∨ r.toNat % 2 ^ 19 ≠ o →
        ∃ t, exec (.barw sw ka) s = .next t ∧ after t word (some (r, g)) ∧ (t.arm u).st = .ready) ∧
      ∀ r g, e.arm.arrival = some (r, g) → named r = some b → r.toNat % 2 ^ 19 = o →
        ∃ t, exec (.barw sw ka) s = .next t ∧
          if gen = g.toNat then after t word (some (r, g)) ∧ (t.arm u).st = .barw r g else after t word none ∧ (t.arm u).st = .ready)) ∧
  (∀ (s : State) (u : Cursor) (sw : Bool) (ka kb : KReg),
     let e := s.env u
     let x := e.wv.kreg ka.toNat
     let y := e.wv.kreg kb.toNat
     let o := x.toNat % 2 ^ 19
     let named : Option Nat :=
       if x.getLsbD 24 then (s.gang e.blk.launch e.blk.gang).blocks.find? fun j => (s.block j).index == x.toNat / 2 ^ 20 % 16 else some u.b
     let bounds := 2 ^ 25 ≤ x.toNat ∨ x.getLsbD 19 = true ∨ ∀ b, named = some b → s.allocation (s.block b) < o + 8
     let trap := fun (i : Instr) (cause : Nat) (info : DWord) => ∃ t, exec i s = .next t ∧ TrapEntered s t u cause false (s.arm u).pc info
     TakesTraps s u →
     (Issues s u sw (fun _ => { ks := [ka.toNat], mem := true }) →
       (bounds → trap (.barw sw ka) 13 x) ∧ (¬ bounds → o % 8 ≠ 0 → trap (.barw sw ka) 2 x)) ∧
     (Issues s u sw (fun _ => { ks := [ka.toNat, kb.toNat], mem := true }) → ∀ i ∈ [Instr.bar sw ka kb, .bara sw ka kb],
       (bounds → trap i 13 x) ∧ (¬ bounds → o % 8 ≠ 0 → trap i 2 x) ∧
       (¬ bounds → o % 8 = 0 → y.toNat < 1 ∨ 256 < y.toNat → trap i 9 y) ∧
       (¬ bounds → o % 8 = 0 → 1 ≤ y.toNat → y.toNat ≤ 256 → x.getLsbD 24 = false → s.lsBusy u.b u.w u.armB = false →
         s.switching (s.block u.b).core [(s.block u.b).base + o] = false → s.computeIn (s.block u.b).core ((s.block u.b).base + o) 8 = true →
         trap i 14 (BitVec.ofNat 64 o))))

/-- For every state in which the instruction issues: hops writes, in each active lane, the distance of the two virtual dies' physical dies over the die mesh, and all ones where a number exceeds 7 or a die is not bound; gtime converts kA by the OFS and RATE of the virtual die that kB names (for 1 µs after a write of them, the old pair or the new one), or with INV = 1 back to the least raw count that converts to at least kA, and writes all ones for a reserved bit, an unbound die, or RATE = 0. No flag is raised and nothing else changes.
(R413, R414, R415, R420, R421) -/
def Obligations.DistancesAndGlobalTime : Prop :=
  ∀ (s : State) (u : Cursor) (sw : Bool) (d a b : VReg) (kd ka kb : KReg),
    let e := s.env u
    let bound := fun (v : Nat) => decide (v < 8) && (e.cx.vdies.getD v 0).getLsbD 7
    let die := fun (v : Nat) => (e.cx.vdies.getD v 0).toNat % 8
    let far := fun (x y : Nat) => Int.natAbs ((x : Int) - (y : Int))
    let x := (e.wv.kreg ka.toNat).toNat
    let y := (e.wv.kreg kb.toNat).toNat
    (Issues s u sw (fun _ => { vs := [oneDst d, one a, one b], guarded := true }) →
      ∃ t, exec (.hops sw d a b) s = .next t ∧ LaneResult s t u sw 4 d.toNat false fun i =>
        let p := (e.wv.vreg a.toNat i).toNat
        let q := (e.wv.vreg b.toNat i).toNat
        (if bound p && bound q then
          BitVec.ofNat 64 (far (dieXY (die p)).1 (dieXY (die q)).1 + far (dieXY (die p)).2 (dieXY (die q)).2) else 0xFFFFFFFF#64, 0)) ∧
    (Issues s u sw (kForm [kd, ka, kb]) →
      ∃ p : DWord × Word, (p = (s.ofsOf (die (y % 8)), s.rateOf (die (y % 8))) ∨
        ∃ at', sget none s.dev.steered (die (y % 8)) = some (p.1, p.2, at') ∧ s.raw < at' + 100) ∧
      let ofs := p.1.toNat
      let rate := p.2.toNat
      ∃ t, exec (.gtime sw kd ka kb) s = .next t ∧ UniformResult s t u sw ((s.arm u).pc + 4) kd.toNat
        (if y / 8 % 32 ≠ 0 ∨ y / 512 ≠ 0 ∨ bound (y % 8) = false then BitVec.allOnes 64
         else if y / 256 % 2 = 0 then BitVec.ofNat 64 ((x + 2 ^ 64 - ofs) % 2 ^ 64 * rate / 2 ^ 30)
         else if rate = 0 then BitVec.allOnes 64
         else BitVec.ofNat 64 (ofs + (x * 2 ^ 30 + rate - 1) / rate)))

/-- For every state in which the instruction issues, with every address on a plain readable page, aligned and without an uncorrectable error, L2 without an error, the core's L1 holding no older bytes and no earlier LS work of the arm unperformed on the lines read: ld leaves one outstanding result that writes to vD, in each active lane, the little-endian bytes at kA + sext(vB), extended by the element type; ldk one that writes to kD the eight bytes at kA + 8 × off. No register, flag or byte of memory has changed, and the destination is in the destination mask.
(R28, R64, R144, R146, R148) -/
def Obligations.FlatLoads : Prop :=
  ∀ (s : State) (u : Cursor) (sw : Bool) (d b : VReg) (kd ka : KReg) (off : BitVec 8) (key : Nat → Nat),
    let e := s.env u
    let size := etBytes e.et
    let at' := fun i => e.wv.kreg ka.toNat + (e.wv.vreg b.toNat i).signExtend 64
    let word := fun (n k : Nat) => BitVec.ofNat 64 (leNat (s.bytesAt k n))
    s.l2Fail = [] → s.l2Lost = [] → (s.core e.core).l1Old = [] →
    (Issues s u sw (fun e => { pre := need (clsM e.et), vs := [e.dst d, one b], ks := [ka.toNat], guarded := true, mem := true }) →
      (∀ i ∈ e.lanes, s.plainKey e size false (at' i) = some (key i) ∧ s.badIn (key i) size = false) →
      s.lsConflict u.b u.w u.armB false (e.lanes.map fun i => key i / 128) = false →
      ∃ t, exec (.ld sw d ka b) s = .next t ∧ ResultPending s t u sw 4 .plain
        (laneEff e.lanes e.pair d.toNat fun i =>
          (if e.et ≤ 7 then intReg e.et (intVal e.et (word size (key i))) else word size (key i), 0)) (vbits d.toNat e.pair 1)) ∧
    (Issues s u sw (fun _ => { ks := [kd.toNat, ka.toNat], mem := true }) → ∀ k,
      s.plainKey e 8 false (e.wv.kreg ka.toNat + BitVec.ofNat 64 (8 * off.toNat)) = some k → s.badIn k 8 = false →
      s.lsConflict u.b u.w u.armB false [k / 128] = false →
      ∃ t, exec (.ldk sw kd ka off) s = .next t ∧ ResultPending s t u sw 4 .plain { k := [(kd.toNat, word 8 k)] } [128 + kd.toNat])

/-- For every state in which the instruction issues, with every address aligned on a plain writable page, no failing word in L2 and no earlier LS work of the arm unperformed on the lines written: st stores the low bytes of vD, of the element type's width, at kA + sext(vB) of each active lane, the highest-numbered lane winning; stk the eight bytes of kD at kA + 8 × off; every other byte of memory, every register and every flag keeps its value, and the arm goes on.
(R144, R146, R147, R148) -/
def Obligations.FlatStores : Prop :=
  ∀ (s : State) (u : Cursor) (sw : Bool) (d b : VReg) (kd ka : KReg) (off : BitVec 8) (key : Nat → Nat),
    let e := s.env u
    let size := etBytes e.et
    let at' := fun i => e.wv.kreg ka.toNat + (e.wv.vreg b.toNat i).signExtend 64
    s.l2Fail = [] →
    (Issues s u sw (fun e => { pre := need (clsM e.et), vs := [e.src d, one b], ks := [ka.toNat], guarded := true, mem := true }) →
      (∀ i ∈ e.lanes, s.plainKey e size true (at' i) = some (key i)) →
      s.lsConflict u.b u.w u.armB true (e.lanes.map fun i => key i / 128) = false →
      ∃ t, exec (.st sw ka b d) s = .next t ∧ WaveWent s t u sw ((s.arm u).pc + 4) ∧ BytesStored s t e.lanes size key (e.elem e.pair d.toNat)) ∧
    (Issues s u sw (fun _ => { ks := [ka.toNat, kd.toNat], mem := true }) → ∀ k,
      s.plainKey e 8 true (e.wv.kreg ka.toNat + BitVec.ofNat 64 (8 * off.toNat)) = some k → s.lsConflict u.b u.w u.armB true [k / 128] = false →
      ∃ t, exec (.stk sw ka off kd) s = .next t ∧ WaveWent s t u sw ((s.arm u).pc + 4) ∧
        BytesStored s t [0] 8 (fun _ => k) (fun _ => e.wv.kreg kd.toNat))

/-- For every state in which a flat load or store issues, each check of its address is made of every active lane before the next, and the first that fails decides, with the address of the lowest lane that fails it: no multiple of the access size, ALIGNMENT; not canonical, TRANSLATION; no valid translation or a page that does not allow the access, what the translation answers (TRANSLATION with SUB 2 for a store to a page without W); an encoded page, TRANSLATION with SUB 3; an aperture-only page, with SUB 4. A trap that can enter the handler does so; in a handler, or without one, the wave halts with the cause and SUB in its record. No lane loads or stores. Then, of lanes that reach memory with no earlier LS work of the arm on their lines, one on a race-checked page whose granules hold the record of another resident wave in the epoch of its write raises MEMORY_RACE with the lowest such lane's address; where none does, the access goes on and leaves in the record of every granule that a race-checked lane stores to its wave's id and epoch, and every other record as it was.
(R145, R151, R156, R321, R322, R381, R392) -/
def Obligations.FlatAddressTraps : Prop :=
  ∀ (s : State) (u : Cursor) (sw : Bool) (d b : VReg) (ka : KReg) (i : Nat) (key : Nat → Nat),
    let e := s.env u
    let size := etBytes e.et
    let at' := fun i => e.wv.kreg ka.toNat + (e.wv.vreg b.toNat i).signExtend 64
    let off := fun j => (at' j).toNat % size ≠ 0
    let far := fun j => at' j ≠ ((at' j).setWidth 57).signExtend 64
    i ∈ e.lanes → ∀ dst : Bool,
    Issues s u sw (fun e => { pre := need (clsM e.et), vs := [if dst then e.dst d else e.src d, one b], ks := [ka.toNat], guarded := true, mem := true }) →
    let x := if dst then Instr.ld sw d ka b else .st sw ka b d
    let page := fun j => s.translate (dataSide e.core) e.cx (at' j) (!dst) false
    let first := fun (p : Nat → Prop) => p i ∧ ∀ j ∈ e.lanes, j < i → ¬ p j
    let traps := fun (cause sub : Nat) =>
      (TakesTraps s u → ∃ t, exec x s = .next t ∧ TrapEntered s t u cause false (s.arm u).pc (at' i)) ∧
      ((s.wave u.b u.w).outst = [] → (∀ r ∈ s.reports, ¬ (r.b = u.b ∧ r.w = u.w)) →
        (s.wave u.b u.w).status.getLsbD 8 = true ∨ (s.launch (s.block u.b).launch).handler = 0 →
        HaltedWith s u cause sub (s.arm u).pc (at' i) 0 (exec x s))
    (first off → traps 2 0) ∧
    ((∀ j ∈ e.lanes, ¬ off j) → first far → traps 3 0) ∧
    ((∀ j ∈ e.lanes, ¬ off j ∧ ¬ far j) → first (fun j => ∃ c, page j = .error c) → ∀ c, page i = .error c → traps c.1 c.2) ∧
    ((∀ j ∈ e.lanes, ¬ off j ∧ ¬ far j ∧ ∃ y, page j = .ok y) → first (fun j => ∃ y, page j = .ok y ∧ y.enc = true) → traps 3 3) ∧
    ((∀ j ∈ e.lanes, ¬ off j ∧ ¬ far j ∧ ∃ y, page j = .ok y ∧ y.enc = false) → first (fun j => ∃ y, page j = .ok y ∧ y.aper = true) → traps 3 4) ∧
    (¬ far i → ∀ y, s.lookup (dataSide e.core) e.cx (at' i) = .ok y → dst = false → y.attr.getLsbD 2 = false → page i = .error (3, 2)) ∧
    ((∀ j ∈ e.lanes, ¬ off j ∧ ¬ far j ∧ ∃ y, page j = .ok y ∧ y.enc = false ∧ y.aper = false ∧ s.place y.pa y.host = .mem (key j)) →
      s.lsConflict u.b u.w u.armB (!dst) (e.lanes.map fun i => key i / 128) = false →
      let me := s.idOf u.b u.w
      let checks := fun (j g : Nat) => key j / 128 ≤ g ∧ g ≤ (key j + size - 1) / 128 ∧ ∃ y, page j = .ok y ∧ y.rc = true
      let raced := fun (j : Nat) => ∃ g x, checks j g ∧
        let r := (sget 0 s.race g).toNat
        r / 256 ≠ 0 ∧ r / 256 ≠ me ∧ s.residentWave (r / 256) = some x ∧ (s.wave x.1 x.2).epoch.toNat = r % 256
      (first raced → traps 19 0) ∧
      ((∀ j ∈ e.lanes, ¬ raced j) → ∃ t, exec x s = .next t ∧ ∀ g,
        (dst = false → (∃ j ∈ e.lanes, checks j g) → sget 0 t.race g = BitVec.ofNat 32 (me * 256 + e.wv.epoch.toNat)) ∧
        (¬ (dst = false ∧ ∃ j ∈ e.lanes, checks j g) → sget 0 t.race g = sget 0 s.race g)))

/-- For every state in which the instruction issues, with every lane's offset aligned and inside the named block's allocation, and no bank switch or codeword that cannot be corrected in the way (at most one bank of the core has errors in them): a load leaves one outstanding result, in each active lane the bytes there extended by the element type, and 0 with ARRAY_BUSY for a lane that reaches a compute-mode bank; a store, with no parameter block of the arm's copies to capture (R334), writes each active lane's bytes, the highest-numbered lane winning, and no other byte of that scratchpad, of any other scratchpad or of memory; no register or flag has changed.
(R147, R223, R268, R289, R290) -/
def Obligations.ScratchpadAccesses : Prop :=
  ∀ (s : State) (u : Cursor) (sw : Bool) (d a : VReg) (ka : KReg) (off : BitVec 8),
    let e := s.env u
    let size := etBytes e.et
    let own := fun i => (e.wv.vreg a.toNat i).toNat + 4 * off.toNat
    let peer := fun i => (e.wv.vreg a.toNat i).toNat
    let form := fun (dst : Bool) (ks : List Nat) (e : Env) =>
      ({ pre := need (clsM e.et), vs := [if dst then e.dst d else e.src d, one a], ks := ks, guarded := true, mem := true } : Form)
    ∀ (b bank : Nat) (there : Bool), b < s.blocks.length →
      (if there then s.peerBlock e (e.wv.kreg ka.toNat) = .ok b else b = u.b) →
      let o := if there then peer else own
      let core := (s.block b).core
      let key := fun i => (s.block b).base + o i
      (∀ i ∈ e.lanes, s.plainScr e b size bank (o i) = true) →
      (Issues s u sw (form true (if there then [ka.toNat] else [])) →
        ∃ t, exec (if there then .ldp sw d ka a else .lds sw d a off) s = .next t ∧ (∀ c i, t.scrByte c i = s.scrByte c i) ∧
          ResultPending s t u sw 4 (if b = u.b then .scratch else .plain)
            (laneEff e.lanes e.pair d.toNat fun i =>
              let x := BitVec.ofNat 64 (leNat (s.scrBytes core (key i) size))
              if s.computeIn core (key i) size then (0, fBusy) else (if e.et ≤ 7 then intReg e.et (intVal e.et x) else x, 0))
            (vbits d.toNat e.pair 1)) ∧
      (Issues s u sw (form false (if there then [ka.toNat] else [])) → (∀ i ∈ e.lanes, s.computeIn core (key i) size = false) →
        s.capturing u.b u.w u.armB = false →
        ∃ t, exec (if there then .stp sw ka a d else .sts sw a off d) s = .next t ∧ WaveWent s t u sw ((s.arm u).pc + 4) ∧
          (∀ i, t.byteAt i = s.byteAt i) ∧ (∀ c i, c ≠ core → t.scrByte c i = s.scrByte c i) ∧
          (∀ i, (∀ j ∈ e.lanes, i < key j ∨ key j + size ≤ i) → t.scrByte core i = s.scrByte core i) ∧
          ∀ j ∈ e.lanes, ∀ n, n < size → (∀ j' ∈ e.lanes, j < j' → key j + n < key j' ∨ key j' + size ≤ key j + n) →
            t.scrByte core (key j + n) = (e.elem e.pair d.toNat j).extractLsb' (8 * n) 8)

/-- The new element value follows R294's table for every operation and type. A request waits behind an earlier lane of its instruction for the same element. ATOMIC_AT_TARGET: an element in host memory that the link cannot serve, or an uncorrectable one, gets a deferred report and no effect; under replay a request that is not the line's next is held, and so is one on a diverged line while one that arrived there earlier waits; otherwise the element, and no other byte, takes its new value, the old one becomes the lane's result, and the monitors of the line, and no others, compare and are due where the compare holds. ATOMIC_RESPONSE_LOST applies the operation once, logs it where the slice's 32 entries leave room, reports ATOMIC_RESPONSE and leaves the lane's register alone. REPLAY_HOLD_TIMEOUT marks a line with held requests diverged and releases them; ATOMIC_LOG_DRAIN moves a slice's entries and its overflow count into the collector. No register, flag or other byte of memory changes.
(R294, R295, R296, R298, R300, R303, R459, R462) -/
def Obligations.AtomicsAtTheirTargets : Prop :=
  (∀ (et rm : Nat) (fz : Bool) (m c new : DWord),
    let w := 8 * etBytes et
    m.toNat < 2 ^ w → c.toNat < 2 ^ w → new.toNat < 2 ^ w →
    let n := fun op => atomNew op et rm fz m c new
    (et ≤ 3 →
      (n 0).toNat = (m.toNat + c.toNat) % 2 ^ w ∧
      intVal et (n 1) = min (intVal et m) (intVal et c) ∧ intVal et (n 2) = max (intVal et m) (intVal et c) ∧
      (∀ i, i < 64 → (n 3).getLsbD i = (m.getLsbD i && c.getLsbD i) ∧ (n 4).getLsbD i = (m.getLsbD i || c.getLsbD i) ∧
        (n 5).getLsbD i = (m.getLsbD i != c.getLsbD i)) ∧
      (n 7).toNat = if m.toNat ≥ c.toNat then 0 else m.toNat + 1) ∧
    (et = 8 ∨ et = 9 ∨ et = 10 →
      (∀ i, i < w → (n 0).getLsbD i = (fpAdd (fmtOf et) rm fz false m c).1.getLsbD i) ∧
      (∀ i, i < w → (n 1).getLsbD i = (fpMinMax (fmtOf et) fz false m c).1.getLsbD i) ∧
      (∀ i, i < w → (n 2).getLsbD i = (fpMinMax (fmtOf et) fz true m c).1.getLsbD i)) ∧
    n 6 = c ∧ n 8 = (if m = c then new else m)) ∧
  (∀ (s : State) (i : Nat) (r : AtomReq), s.atomReqs[i]? = some r →
    let size := etBytes r.et
    let m : DWord := BitVec.ofNat 64 (leNat (s.bytesAt r.key size))
    let n := atomNew r.op r.et r.rm r.fz m r.c r.new
    let found := words (isPair r.et) r.d r.lane (if clsI r.et then intReg r.et (intVal r.et m) else m)
    let behind := ∃ j q, j < i ∧ s.atomReqs[j]? = some q ∧ q.inst = r.inst ∧ q.key = r.key
    let noLink := r.host = true ∧ ¬ ((r.et = 1 ∨ r.et = 3) ∧ (r.op = 0 ∨ r.op = 6 ∨ r.op = 8))
    let bad := s.badIn r.key size = true
    let lane := fun (t : State) (got : Sparse Word) => t.atomReqs = s.atomReqs.eraseIdx i ∧
      (∀ b w, { t.wave b w with outst := (s.wave b w).outst } = s.wave b w) ∧ (r.ret = false → t.blocks = s.blocks) ∧
      (r.ret = true → r.b < s.blocks.length → (t.wave r.b r.w).outst = (s.wave r.b r.w).outst.map fun z =>
        if z.id = r.res then
          { z with eff := { z.eff with v := z.eff.v ++ got }
                   kind := match z.kind with
                     | .atomic k => if k ≤ 1 then (if s.peerReqs.any (fun q => q.res == r.res) then .peer 0 else .plain) else .atomic (k - 1)
                     | k => k }
        else z)
    let applied := fun (t : State) => BytesPut s t r.key (leBytes size n.toNat) ∧
      (∀ y ∈ s.monitors, y.line = r.key / 128 → y.retry = false → y.fired = true ∨ t.monitorHolds y = true → { y with fired := true } ∈ t.monitors) ∧
      (∀ y ∈ s.monitors, y.line ≠ r.key / 128 ∨ y.retry = true ∨ (y.fired = false ∧ t.monitorHolds y = false) → y ∈ t.monitors)
    let reported := fun (t : State) (c : Nat) => t.reports = s.reports ++
      [{ b := r.b, w := r.w, d := { cause := c, sub := 0, info := r.va, site := r.site, seq := r.seq } }]
    let waits := fun (r : AtomReq) => { s with atomReqs := s.atomReqs.set i { r with held := true, arrived := if r.arrived = 0 then s.ticks + 1 else r.arrived } }
    (behind → exec (.atomicAtTarget i) s = .next s ∧ exec (.atomicResponseLost i) s = .next s) ∧
    (¬ behind → noLink ∨ bad → ∃ t, exec (.atomicAtTarget i) s = .next t ∧ lane t [] ∧ reported t (if r.host = true ∧ noLink then 23 else 21) ∧
      { t with blocks := s.blocks, atomReqs := s.atomReqs, reports := s.reports } = s) ∧
    (¬ behind → ¬ noLink → ¬ bad → s.replaying r = 0 → ∃ t, exec (.atomicAtTarget i) s = .next t ∧ lane t found ∧ applied t ∧
      OnlyMemory s { t with blocks := s.blocks, atomReqs := s.atomReqs, dev := s.dev, l2Lost := s.l2Lost }) ∧
    (∀ l o g b w k rest, ¬ behind → ¬ noLink → ¬ bad → s.replaying r = 2 →
      s.replayLines.find? (fun l => l.ctx == s.reqCtx r && l.line == r.key / 128) = some l → l.diverged = false → l.runs = (o, g, b, w, k) :: rest →
      (o, g, b, w) ≠ s.requester r → exec (.atomicAtTarget i) s = .next (waits r)) ∧
    (∀ l, ¬ behind → ¬ noLink → ¬ bad → s.replaying r = 2 →
      s.replayLines.find? (fun l => l.ctx == s.reqCtx r && l.line == r.key / 128) = some l → l.diverged = true →
      (∃ q ∈ s.atomReqs, s.reqCtx q = s.reqCtx r ∧ q.key / 128 = r.key / 128 ∧ q.arrived ≠ 0 ∧ (r.arrived = 0 ∨ q.arrived < r.arrived)) →
      exec (.atomicAtTarget i) s = .next (waits r)) ∧
    (¬ behind → ¬ noLink → ¬ bad → s.replaying r = 0 → (s.atomPlace r).2 = false → r.host = true ∨ s.reqHome r / 16 ≠ r.core / 64 →
      ∃ t, exec (.atomicResponseLost i) s = .next t ∧ lane t [] ∧ applied t ∧ reported t 24 ∧
        (let mine := s.atomLog.filter fun x => x.slice == s.reqHome r
         if mine.length < 32 then
           t.logOver = s.logOver ∧ t.atomLog = s.atomLog ++ [{
             slice := s.reqHome r
             bytes := leBytes 8 r.va.toNat ++ leBytes 8 r.site.toNat ++ leBytes 4 r.seq.toNat ++ leBytes 4 (s.ctx (s.reqCtx r)).number ++
               leBytes 2 r.core ++ leBytes 1 (s.wave r.b r.w).slot ++ leBytes 1 r.f ++ leBytes 1 r.et ++ leBytes 3 0 ++ leBytes 8 m.toNat ++
               leBytes 8 n.toNat }]
         else t.atomLog = s.atomLog ∧ sget 0 t.logOver (s.reqHome r) = sget 0 s.logOver (s.reqHome r) + 1) ∧
        OnlyMemory s { t with blocks := s.blocks, atomReqs := s.atomReqs, dev := s.dev, l2Lost := s.l2Lost, reports := s.reports
                              atomLog := s.atomLog, logOver := s.logOver })) ∧
  (∀ (s : State) (line : Nat),
    let held := fun (x : Nat) => ∃ r ∈ s.atomReqs, r.held = true ∧ r.key / 128 = line ∧ s.reqCtx r = x
    ((∀ x, ¬ held x) → exec (.replayHoldTimeout line) s = .next s) ∧
    ((∃ x, held x) → ∃ t, exec (.replayHoldTimeout line) s = .next t ∧
      OnlyMemory s { t with replayLines := s.replayLines, atomReqs := s.atomReqs, dev := s.dev, l2Lost := s.l2Lost, peerMem := s.peerMem } ∧
      { t.dev with collector := s.dev.collector, dropped := s.dev.dropped, corrected := s.dev.corrected } = s.dev ∧
      t.atomReqs = s.atomReqs.map (fun r => if r.key / 128 = line then { r with held := false } else r) ∧
      t.replayLines.length = s.replayLines.length ∧
      ∀ (i : Nat) (l : ReplayLine), s.replayLines[i]? = some l → ∃ l' : ReplayLine, t.replayLines[i]? = some l' ∧ { l' with diverged := l.diverged } = l ∧
        (l'.diverged = true ↔ l.diverged = true ∨ (l.line = line ∧ held l.ctx)))) ∧
  (∀ (s : State) (slice : Nat),
    let mine := s.atomLog.filter fun x => x.slice == slice
    let past := sget 0 s.logOver slice
    let rec' : CollRec := { type := 3, die := slice / 16, place := slice % 16, time := s.timeOf 8, payload := [] }
    ∃ t, exec (.atomicLogDrain slice) s = .next t ∧ { t with dev := s.dev, atomLog := s.atomLog, logOver := s.logOver } = s ∧
      t.atomLog = s.atomLog.filter (fun x => x.slice != slice) ∧ (∀ i, sget 0 t.logOver i = if i = slice then 0 else sget 0 s.logOver i) ∧
      { t.dev with collector := s.dev.collector, dropped := s.dev.dropped } = s.dev ∧
      (s.dev.collector.length + mine.length + 1 ≤ 4096 → t.dev.dropped = s.dev.dropped ∧
        t.dev.collector = s.dev.collector ++ (mine.map fun x => { rec' with payload := x.bytes }) ++
          if past = 0 then [] else [{ rec' with type := 4, payload := leBytes 8 past }]))

/-- For every state in which the instruction issues through a legal raw or converting record without race checks, with every active lane's index in bounds and its group on plain pages, no failing word in L2 (nor, for a load, a lost bank), and no earlier LS work of the arm unperformed on the lines: ldb leaves one outstanding result with each element of each lane's group converted from MFMT to RFMT under the record's scale and the sampled modes, its flags with it; stb writes each element converted to MFMT, later lanes and elements over earlier ones, its flags are due, and it changes no other byte and no register.
(R237, R238, R239, R241, R292) -/
def Obligations.BufferGroups : Prop :=
  ∀ (s : State) (u : Cursor) (sw : Bool) (d a : VReg) (buf : BitVec 8) (pos : Nat → Nat) (key : Nat → Nat),
    let e := s.env u
    let r := e.ln.bufs.getD buf.toNat []
    let n := bufIlv r
    let size := etBytes (bufMfmt r)
    let pair := isPair (bufRfmt r)
    let elems := (e.lanes.map fun i => (List.range n).map fun j => 8 * i + j).flatten
    let regOf := fun c => bufReg r d (c % 8)
    let toReg := fun c => bufToReg e r (BitVec.ofNat 64 (leNat (s.bytesAt (key c) size)))
    let toMem := fun c => regToBuf e r (e.elem pair (regOf c) (c / 8))
    let reach := fun (write : Bool) => (∀ c ∈ elems, s.plainKey e size write (bufBase r + BitVec.ofNat 64 ((pos (c / 8) * n + c % 8) * size)) = some (key c)) ∧
      s.lsConflict u.b u.w u.armB write (elems.map fun c => key c / 128) = false
    bufEncoded r = false → bufRace r = false → s.l2Fail = [] → (∀ i ∈ e.lanes, bufPos r (e.wv.vreg a.toNat i) = some (pos i)) →
    (Issues s u sw (fun e => { pre := bufPre e buf, vs := [bufRegs (e.buf buf) d true, one a], guarded := true, mem := true }) →
      reach false → s.l2Lost = [] → (s.core e.core).l1Old = [] → (∀ c ∈ elems, s.badIn (key c) size = false) →
      ∃ t, exec (.ldb sw d a buf) s = .next t ∧ ResultPending s t u sw 4 .plain
        { v := (elems.map fun c => words pair (regOf c) (c / 8) (toReg c).1).flatten, flags := flagsOver elems fun c => (toReg c).2 }
        (vbits d.toNat pair n)) ∧
    (Issues s u sw (fun e => { pre := bufPre e buf, vs := [bufRegs (e.buf buf) d false, one a], guarded := true, mem := true }) →
      reach true →
      ∃ t, exec (.stb sw buf a d) s = .next t ∧ BytesStored s t elems size key (fun c => (toMem c).1) ∧
        WaveWent s (t.modWave u.b u.w fun v => { v with late := e.wv.late }) u sw ((s.arm u).pc + 4) ∧
        FlagsDue s t u (flagsOver elems fun c => (toMem c).2))

/-- For every state in which the instruction issues through a legal encoded record without race checks, with every active lane's index in bounds, its block and map byte on encoded pages in memory, no earlier work of the arm on the block in the way (R311) and no decoded line in L1 (for a store, every parameter block of the arm's copies captured, R334): ldb starts one Sumac block read for each distinct block its lanes name, and leaves a result that waits for all of them; stb one block write for each distinct block, with each lane's value at its element; no register, flag or byte of memory has changed.
(R239, R245, R256, R257) -/
def Obligations.EncodedBufferAccesses : Prop :=
  ∀ (s : State) (u : Cursor) (sw : Bool) (d a : VReg) (buf : BitVec 8) (pos : Nat → Nat),
    let e := s.env u
    let r := e.ln.bufs.getD buf.toNat []
    let lanesOf' := fun (j : Nat) => e.lanes.filter fun i => (blockOf r (pos i)).1 == j
    let ok := fun (write : Bool) => ∀ i ∈ e.lanes, (s.blockAt e r (blockOf r (pos i)).1).isSome = true ∧
      (∀ va ∈ blockVa r (blockOf r (pos i)).1 :: (if bufEnc r == 3 then [mapVa r (blockOf r (pos i)).1] else []), ∃ x, s.bufXlat e r write va = .ok x) ∧
      ∀ x, s.blockAt e r (blockOf r (pos i)).1 = some x → s.jobFree u write x.key
    bufEncoded r = true → bufRace r = false → (∀ i ∈ e.lanes, bufPos r (e.wv.vreg a.toNat i) = some (pos i)) →
    (Issues s u sw (fun e => { pre := bufPre e buf, vs := [bufRegs (e.buf buf) d true, one a], guarded := true, mem := true }) →
      ok false → (s.core e.core).decoded = [] →
      ∃ t l, exec (.ldb sw d a buf) s = .next t ∧ t.sumac = s.sumac ++ l ∧ (l.map (·.blk)).Nodup ∧
        (∀ j, j ∈ l.map (·.blk) ↔ ∃ i ∈ e.lanes, (blockOf r (pos i)).1 = j) ∧
        (∀ y ∈ l, y.write = false ∧ y.res = s.nextId ∧ y.d = d.toNat ∧ y.lanes = (lanesOf' y.blk).map fun i => (i, (blockOf r (pos i)).2)) ∧
        ResultPending s t u sw 4 (if l = [] then .plain else .decode l.length) {} (vbits d.toNat true 1)) ∧
    (Issues s u sw (fun e => { pre := bufPre e buf, vs := [bufRegs (e.buf buf) d false, one a], guarded := true, mem := true }) →
      ok true → s.capturing u.b u.w u.armB = false →
      ∃ t l, exec (.stb sw buf a d) s = .next t ∧ t.sumac = s.sumac ++ l ∧ (l.map (·.blk)).Nodup ∧
        (∀ j, j ∈ l.map (·.blk) ↔ ∃ i ∈ e.lanes, (blockOf r (pos i)).1 = j) ∧
        (∀ y ∈ l, y.write = true ∧ ∀ i ∈ lanesOf' y.blk, (∀ i' ∈ lanesOf' y.blk, (blockOf r (pos i')).2 = (blockOf r (pos i)).2 → i' ≤ i) →
          y.updates.find? (fun z => z.1 == (blockOf r (pos i)).2) = some ((blockOf r (pos i)).2, e.elem true d.toNat i)) ∧
        WaveWent s t u sw ((s.arm u).pc + 4) ∧ ∀ i, t.byteAt i = s.byteAt i)

/-- For every state in which the instruction issues: pref changes nothing but the arm's position; on a legal encoded record, with the named blocks in range, zinv removes the decoded lines of the named blocks from the core's L1 and no other line; zwb goes on, and leaves with the arm the block writes of the core to the named blocks that are not applied yet, where there are any; zpack, with no earlier work of the arm on the named blocks and no parameter block to capture in the way, starts a block write of each named block whose map byte has the code of a raw block, and none under ENC zfixed; no register, flag or byte of memory has changed.
(R305, R306) -/
def Obligations.HintsAndCodecMaintenance : Prop :=
  ∀ (s : State) (u : Cursor) (sw : Bool) (lvl : BitVec 1) (ka kb : KReg) (b : VReg) (buf : BitVec 8),
    let e := s.env u
    let r := e.ln.bufs.getD buf.toNat []
    let first := (e.wv.kreg ka.toNat).toNat
    let n := (e.wv.kreg kb.toNat).toNat
    (Issues s u sw (fun _ => { vs := [one b], ks := [ka.toNat], guarded := true }) →
      ∃ t, exec (.pref sw lvl ka b) s = .next t ∧ PcResult s t u sw ((s.arm u).pc + 4)) ∧
    (Issues s u sw (maintainForm buf ka kb) → bufOk r = true → bufEncoded r = true → first + n ≤ bufBlocks r →
      (∃ t, exec (.zinv sw buf ka kb) s = .next t ∧ WaveWent s t u sw ((s.arm u).pc + 4) ∧ (∀ i, t.byteAt i = s.byteAt i) ∧
        (∀ x, x ∈ (t.core e.core).decoded ↔ x ∈ (s.core e.core).decoded ∧
          ¬ (x.2.1 / 512 = e.ln.ctx ∧ ∃ j, first ≤ j ∧ j < first + n ∧ x.1 = (blockVa r j).toNat))) ∧
      (∃ t ids, exec (.zwb sw buf ka kb) s = .next t ∧ WaveWent s t u sw ((s.arm u).pc + 4) ∧
        (∀ i, i ∈ ids ↔ ∃ y ∈ s.sumac, y.id = i ∧ y.write = true ∧ y.core = e.core ∧
          ∃ j x, first ≤ j ∧ j < first + n ∧ s.blockAt e r j = some x ∧ y.key = x.key) ∧
        t.zwbs = (if ids = [] then s.zwbs else s.zwbs ++ [(u.b, u.w, u.armB, s.nextId, ids)]) ∧
        { t with blocks := s.blocks, zwbs := s.zwbs, nextId := s.nextId } = s) ∧
      ((∀ j, first ≤ j → j < first + n → ∃ x, s.blockAt e r j = some x ∧ (bufEnc r = 3 → s.jobFree u true x.key ∧ s.capturing u.b u.w u.armB = false) ∧
          ∀ va ∈ blockVa r j :: (if bufEnc r == 3 then [mapVa r j] else []), ∃ y, s.bufXlat e r true va = .ok y) →
        ∃ t l, exec (.zpack sw buf ka kb) s = .next t ∧ WaveWent s t u sw ((s.arm u).pc + 4) ∧ (∀ i, t.byteAt i = s.byteAt i) ∧
          t.sumac = s.sumac ++ l ∧ (∀ y ∈ l, y.write = true ∧ y.full = true ∧ y.updates = []) ∧
          ∀ j, j ∈ l.map (·.blk) ↔ bufEnc r = 3 ∧ first ≤ j ∧ j < first + n ∧
            ∃ x m, s.blockAt e r j = some x ∧ x.mapKey = some m ∧ (s.byteAt m).toNat % 32 = 31))

/-- For every state in which the instruction issues: fence records its kind, scope and paths with the arm, makes its scope the arm's, and unless it only acquires advances the wave's epoch; waitge on a plain readable counter, with no earlier LS work of the arm unperformed on its line and no error in L2, goes on at the next instruction where the counter is at least kD; on a smaller one the arm waits for it, with a monitor of the line, to go on at the next instruction or, in the continuing form, at its target; the line's record of its last user becomes the arm's scope and wave, and a wait on a device line whose last user is another resident wave, where one of the two lies outside the other's instance of its scope, raises SCOPE_MISMATCH with the line's address instead. No register, flag or byte of memory changes. While a fence of the arm is not complete, it issues no access to memory or a scratchpad, no blocking instruction and no array instruction: it stays at the instruction, with nothing done but its switch marker.
(R301, R302, R303, R304, R321, R324, R325) -/
def Obligations.FencesAndWaits : Prop :=
  ∀ (s : State) (u : Cursor) (sw : Bool) (kind scope : BitVec 8) (paths : BitVec 4) (ka kd : KReg) (off : BitVec 30),
    let e := s.env u
    let va := e.wv.kreg ka.toNat
    let target := e.wv.kreg kd.toNat
    let there := (s.arm u).pc + (off ++ 0#2).signExtend 64
    (Issues s u sw (fun _ => { mem := true }) →
      ∃ t, exec (.fence sw kind scope paths) s = .next t ∧ (t.arm u).pc = (s.arm u).pc + 4 ∧ (t.arm u).scope = scope.toNat ∧
        (t.arm u).fence = some { kind := kind.toNat, scope := scope.toNat, paths := paths } ∧
        (t.wave u.b u.w).epoch = (if kind = 1 then e.wv.epoch else e.wv.epoch + 1) ∧
        (t.wave u.b u.w).res = (if kind ≠ 1 ∧ e.wv.epoch = 255 then nextRes (sget 0 (s.core e.core).res e.wv.slot) else e.wv.res) ∧
        (∀ i, t.byteAt i = s.byteAt i) ∧ FlagsDue s t u 0 ∧
        RegsKept s t u (fun _ _ => False) (fun _ => False) (fun _ _ => False)) ∧
    (Issues s u sw (fun _ => { ks := [ka.toNat, kd.toNat], mem := true }) → s.l2Fail = [] → s.l2Lost = [] → ∀ k,
      s.plainKey e 8 false va = some k → s.badIn k 8 = false → s.lsConflict u.b u.w u.armB false [k / 128] = false → k < peerBit → (hostBit ≤ k ∨ s.scopeClash (k / 128) (u.b, u.w) (s.arm u).scope = false) →
      let word := BitVec.ofNat 64 (leNat (s.bytesAt k 8))
      ∀ x ∈ ([(.waitge sw ka kd, none), (.waitgeCont sw ka kd off, some there)] : List (Instr × Option DWord)),
        ∃ t, exec x.1 s = .next t ∧ (∀ i, t.byteAt i = s.byteAt i) ∧
          WaveWent s (t.modArm u fun a => { a with st := (s.arm u).st, waited := (s.arm u).waited }) u sw ((s.arm u).pc + 8) ∧
          (k < hostBit → sget 0 t.sync (k / 128) = BitVec.ofNat 32 ((s.arm u).scope * 2 ^ 24 + s.idOf u.b u.w)) ∧
          if target.toNat ≤ word.toNat then (t.arm u).st = (s.arm u).st ∧ (t.arm u).waited = (s.arm u).waited ∧ t.monitors = s.monitors
          else (t.arm u).st = .waitge va k target x.2 ∧ (t.arm u).waited = 0 ∧
            ∃ m, t.monitors = s.monitors ++ [m] ∧ m.b = u.b ∧ m.w = u.w ∧ m.armB = u.armB ∧ m.key = k ∧ m.line = k / 128) ∧
    (Issues s u sw (fun _ => { ks := [ka.toNat, kd.toNat], mem := true }) → TakesTraps s u → ∀ k, s.plainKey e 8 false va = some k → k < hostBit →
      s.lsConflict u.b u.w u.armB false [k / 128] = false → s.scopeClash (k / 128) (u.b, u.w) (s.arm u).scope = true →
      ∀ x ∈ [Instr.waitge sw ka kd, .waitgeCont sw ka kd off],
        ∃ t, exec x s = .next t ∧ TrapEntered s t u 20 false (s.arm u).pc (BitVec.ofNat 64 (va.toNat / 128 * 128))) ∧
    (∀ (line sc : Nat) (y : Nat × Nat),
      let r := (sget 0 s.sync line).toNat
      let within := fun (sc : Nat) (x y : Nat × Nat) => match sc with
        | 0 => x = y
        | 1 => x.1 = y.1
        | 2 => (s.block x.1).launch = (s.block y.1).launch ∧ (s.block x.1).gang = (s.block y.1).gang
        | 3 => (s.block x.1).die = (s.block y.1).die
        | _ => True
      (s.scopeClash line y sc = true ↔
        r % 2 ^ 24 ≠ 0 ∧ r % 2 ^ 24 ≠ s.idOf y.1 y.2 ∧ ∃ x, s.residentWave (r % 2 ^ 24) = some x ∧ (¬ within (r / 2 ^ 24) x y ∨ ¬ within sc y x))) ∧
    (s.cur = some u → u.b < s.blocks.length → u.w < (s.block u.b).waves.length → (u.armB = true → (s.wave u.b u.w).b.isSome = true) →
      s.mustPark u sw = false → (s.arm u).fence.isSome = true →
      ∀ (d b : VReg) (t : TReg) (buf n : BitVec 8) (pd : PReg) (q : QPred),
      ∀ x ∈ [Instr.ld sw d ka b, .st sw ka b d, .ldk sw kd ka n, .stk sw ka n kd, .lds sw d b n, .sts sw b n d, .ldb sw d b buf, .stb sw buf b d,
             .zwb sw buf ka kd, .waitge sw ka kd, .waitgeCont sw ka kd off, .fence sw kind scope paths, .copy sw ka, .bar sw ka kd, .bara sw ka kd,
             .barw sw ka, .yield sw, .claim sw pd n, .vote sw 0 pd q ka, .mzero sw t, .tsend sw ka b kd, .trecv sw kd ka, .fwait sw ka kd, .rehome sw ka kd],
        ∃ t, exec x s = .next t ∧ StaysHeld s t u sw 13)

/-- For every state in which atom, atomc or red on [kA + vB] issues, with every active lane's address on a plain writable page and aligned, no line in use out of scope and no earlier LS work of the arm unperformed on the lines: one request for each active lane, in lane order, with its operand (and for atomc the new value of vD) is on its way; atom and atomc leave a result that waits for all of them; no register, flag or byte of memory has changed.
(R293, R294, R295, R296, R49) -/
def Obligations.FlatAtomics : Prop :=
  ∀ (s : State) (u : Cursor) (sw : Bool) (op : BitVec 4) (d b c : VReg) (ka : KReg) (key : Nat → Nat),
    let e := s.env u
    let size := etBytes e.et
    let low := fun (r : VReg) i => BitVec.ofNat 64 ((e.elem e.pair r.toNat i).toNat % 2 ^ (8 * size))
    (∀ i ∈ e.lanes, s.plainKey e size true (e.wv.kreg ka.toNat + (e.wv.vreg b.toNat i).signExtend 64) = some (key i) ∧
      (hostBit ≤ key i ∨ s.scopeClash (key i / 128) (u.b, u.w) (s.arm u).scope = false)) →
    s.lsConflict u.b u.w u.armB true (e.lanes.map fun i => key i / 128) = false →
    ∀ x ∈ ([(.atomFlat sw op d ka b c, op.toNat, true), (.atomcFlat sw d ka b c, 8, true), (.redFlat sw op ka b c, op.toNat, false)] :
        List (Instr × Nat × Bool)),
      Issues s u sw (fun e =>
        { pre := need (atomType x.2.1 e.et)
          vs := (if x.2.2 then [{ r := d.toNat, pair := e.pair, dest := x.2.1 != 8 }] else []) ++ [one b, e.src c]
          ks := [ka.toNat], guarded := true, mem := true }) →
      ∃ t l, exec x.1 s = .next t ∧ t.atomReqs = s.atomReqs ++ l ∧ l.map (·.lane) = e.lanes ∧
        (∀ q ∈ l, q.b = u.b ∧ q.w = u.w ∧ q.key = key q.lane ∧ q.op = x.2.1 ∧ q.et = e.et ∧ q.rm = e.rm ∧ q.fz = e.fz ∧ q.ret = x.2.2 ∧
          q.c = low c q.lane ∧ (x.2.2 = true → q.new = low d q.lane ∧ q.d = d.toNat ∧ q.res = s.nextId)) ∧
        (∀ q ∈ l, ∀ q' ∈ l, q.inst = q'.inst) ∧
        if x.2.2 then ResultPending s t u sw 8 (if e.lanes = [] then .plain else .atomic e.lanes.length) {} (vbits d.toNat e.pair 1)
        else WaveWent s t u sw ((s.arm u).pc + 8) ∧ ∀ i, t.byteAt i = s.byteAt i

/-- For every state in which atom, atomc or red on the own or a peer scratchpad issues, with every active lane's offset aligned, allocated, correctable (at most one bank of the core has errors in the words named) and outside compute-mode banks, and no parameter block of the arm's copies to capture (R334): the lanes' operations on one element run in increasing lane order; each element ends with the last one's value and every other byte is unchanged; atom and atomc leave a result with the value each lane found.
(R289, R293, R294, R295, R296) -/
def Obligations.ScratchpadAtomics : Prop :=
  ∀ (s : State) (u : Cursor) (sw : Bool) (op : BitVec 4) (d b c : VReg) (ka : KReg),
    let e := s.env u
    let size := etBytes e.et
    let low := fun (r : VReg) i => BitVec.ofNat 64 ((e.elem e.pair r.toNat i).toNat % 2 ^ (8 * size))
    ∀ (k bank : Nat) (there : Bool), k < s.blocks.length → (if there then s.peerBlock e (e.wv.kreg ka.toNat) = .ok k else k = u.b) →
    let core := (s.block k).core
    let key := fun i => (s.block k).base + (e.wv.vreg b.toNat i).toNat
    (∀ i ∈ e.lanes, s.plainScr e k size bank (e.wv.vreg b.toNat i).toNat = true ∧ s.computeIn core (key i) size = false) →
    s.capturing u.b u.w u.armB = false →
    ∀ x ∈ ([(if there then .atomPeer sw op d ka b c else .atomScr sw op d b c, op.toNat, true),
            (if there then .atomcPeer sw d ka b c else .atomcScr sw d b c, 8, true),
            (if there then .redPeer sw op ka b c else .redScr sw op b c, op.toNat, false)] : List (Instr × Nat × Bool)),
      Issues s u sw (fun e =>
        { pre := need (atomType x.2.1 e.et)
          vs := (if x.2.2 then [{ r := d.toNat, pair := e.pair, dest := x.2.1 != 8 }] else []) ++ [one b, e.src c]
          ks := if there then [ka.toNat] else [], guarded := true, mem := true }) →
      let oper := fun (m : DWord) i => atomNew x.2.1 e.et e.rm e.fz m (low c i) (if x.2.2 then low d i else 0)
      let found := fun (l : List Nat) a => l.foldl (fun m i => if key i = a then oper m i else m) (BitVec.ofNat 64 (leNat (s.scrBytes core a size)))
      ∃ t, exec x.1 s = .next t ∧ (∀ c i, c ≠ core → t.scrByte c i = s.scrByte c i) ∧
        (∀ i, (∀ j ∈ e.lanes, i < key j ∨ key j + size ≤ i) → t.scrByte core i = s.scrByte core i) ∧
        (∀ j ∈ e.lanes, BitVec.ofNat 64 (leNat (t.scrBytes core (key j) size)) = found e.lanes (key j)) ∧
        if x.2.2 then ResultPending s t u sw 8 (if k = u.b then .scratch else .plain)
          (laneEff e.lanes e.pair d.toNat fun i =>
            let m := found (e.lanes.filter (· < i)) (key i)
            (if e.et ≤ 7 then intReg e.et (intVal e.et m) else m, 0)) (vbits d.toNat e.pair 1)
        else WaveWent s t u sw ((s.arm u).pc + 8) ∧ ∀ i, t.byteAt i = s.byteAt i

/-- For every state in which the instruction issues in a launch that holds its cores' arrays, its operands legal: amode, mmac, mzero, mdrain, mpack and mcal leave one new entry with their banks, tiles, class and length, amode makes its arm wait for it at its own address (log 33), and mdrain to registers leaves a result that waits for it; with 32 entries in the arbiter they wait, and mmac and mdrain without an active lane only go on; mstat leaves a result with the bank's mode, weight width, switch, entry in progress, calibration, its age, loss, temperature and trims (log 8). No register, flag or byte of memory or of a scratchpad has changed.
For every state in which an array instruction issues in a launch that holds its cores' arrays, no bank of the core is changing its mode, no tile word has an error and a trap would enter the handler, its checks come in the order of its rule, with the lowest failing number or offset in fault1: a bank that the block does not own, SCRATCH_BOUNDS; amode to compute mode: a lost bank, BANK_LOST; an exponent table beyond the allocation, SCRATCH_BOUNDS; a table in a named or compute-mode bank, and then an inbox region in a named bank, BANK_MODE. mmac: a reserved bit of its record, ILLEGAL_INSTRUCTION; its bank in scratchpad mode, BANK_MODE; its base, ALIGNMENT; the region beyond the allocation, SCRATCH_BOUNDS; a mask word whose tiles leave the range, TILE_RANGE; a lane's vector beyond the region, SCRATCH_BOUNDS. mdrain: TILE_RANGE; to a scratchpad, ALIGNMENT, SCRATCH_BOUNDS, BANK_MODE; to a collective, BUFFER_INVALID for a descriptor that is not there or of another format, and INDEX_BOUNDS for a row past its blocks. mpack: a reserved bit, ILLEGAL_INSTRUCTION; a source beyond the allocation or in the bank, SCRATCH_BOUNDS; ALIGNMENT; BANK_MODE. No entry is made.
(R218, R231, R270, R278, R279, R280, R281, R282, R284, R285, R286, R287) -/
def Obligations.ArrayInstructions : Prop :=
  (∀ (s : State) (u : Cursor) (sw : Bool) (banks : BitVec 8) (toC : Bool) (col : BitVec 8) (w2 : BitVec 2) (expofs : BitVec 11) (tl : TReg)
       (kd ka : KReg) (bank : BitVec 3) (gain : BitVec 4) (rep : BitVec 3) (d : VReg) (cntm1 : BitVec 5) (zero : Bool) (tgt : BitVec 2) (slot : SlotNo),
     let e := s.env u
     let core := e.core
     let alloc := 4096 * e.ln.granules
     let x := e.wv.kreg ka.toNat
     let k := s.bank core bank.toNat
     let own := fun (i : Nat) => 65536 * (i + 1) ≤ alloc
     let queued := fun (t : State) (op : ArrOp) (bs : BitVec 8) (tiles : Nat → Prop) (cls len : Nat) =>
       (∀ i, t.byteAt i = s.byteAt i) ∧ (∀ c i, t.scrByte c i = s.scrByte c i) ∧
       ∃ y, (t.core core).arb = (s.core core).arb ++ [y] ∧ y.id = s.nextId ∧ y.b = u.b ∧ y.w = u.w ∧ y.armB = u.armB ∧ y.op = op ∧ y.banks = bs.setWidth 9 ∧
         (∀ j, j < 8 → (y.tiles.getLsbD j = true ↔ tiles j)) ∧ y.cls = cls ∧ y.length = len ∧ y.granted = false ∧ y.mode = e.arm.mode ∧
         ∀ i, i < 1024 → (y.act.getLsbD i = true ↔ i ∈ e.lanes)
     let pc := (s.arm u).pc + 8
     let form := fun (legal : Env → Bool) (vs : List VOp) (ks : List KReg) (g : Bool) (e : Env) =>
       ({ pre := need (e.ln.arrays && legal e), vs := vs, ks := ks.map (·.toNat), guarded := g, mem := true } : Form)
     let f := 2048 / k.ww / 256
     let tilesOf := fun (n : Nat) j => ∃ i ∈ e.lanes, tl.toNat + i / 32 * n ≤ j ∧ j < tl.toNat + i / 32 * n + n
     let inRange := fun (n : Nat) => ∀ i, i < e.ln.lanes → i < 1024 → e.arm.mask.getLsbD i = true → tl.toNat + i / 32 * n + n ≤ 8
     let room := (s.core core).arb.length < 32
     let full := fun (i : Instr) => ¬ room → ∃ t, exec i s = .next t ∧ StaysHeld s t u sw 8
     let idle := fun (i : Instr) => e.lanes = [] → ∃ t, exec i s = .next t ∧ OthersKept s t u ∧ WaveWent s t u sw pc
     (s.core core).badTiles = [] →
     (Issues s u sw (form (fun _ => true) [] [] false) →
       ((∀ i ∈ bitsOf banks, own i) → (toC = true → amodeTrap e s banks true w2.toNat expofs.toNat = none ∧ tableHeld e s banks true w2.toNat expofs.toNat = false ∧
           amodeModeTrap e s banks true w2.toNat expofs.toNat = none) → full (.amode sw banks toC w2 expofs) ∧ (room →
         ∃ t len, exec (.amode sw banks toC w2 expofs) s = .next t ∧ (t.arm u).st = .amode s.nextId ∧ (t.arm u).pc = (s.arm u).pc ∧
           (len = if toC = true ∧ ∃ i ∈ bitsOf banks, (s.bank core i).compute = false ∧ s.current core i = false then 160 else 32) ∧
           queued t (.amode banks toC (2 ^ (w2.toNat + 1)) expofs.toNat) banks (fun _ => False) 1 len)) ∧
       full (.mzero sw tl) ∧ (room → ∃ t, exec (.mzero sw tl) s = .next t ∧ WaveWent s t u sw pc ∧ queued t (.mzero tl.toNat) 0 (fun j => j = tl.toNat) 1 16) ∧
       ((∀ i ∈ bitsOf banks, own i) → full (.mcal sw banks) ∧ (room → ∃ t on, exec (.mcal sw banks) s = .next t ∧ WaveWent s t u sw pc ∧
         (∀ i, i < 8 → (on.getLsbD i = true ↔ banks.getLsbD i = true ∧ (s.bank core i).compute = true)) ∧
         queued t (.mcal on) on (fun _ => False) 0 128))) ∧
     (Issues s u sw (form (fun e => 17 ≤ e.et && e.et ≤ 23) [] [ka] true) → x &&& 0xFFF00000FFF80000#64 = 0 → own bank.toNat →
       k.compute = true → (∀ i, s.switching core [i] = false) → recBase x % 8 = 0 → recBase x + recExtent x ≤ alloc → inRange f →
       (∀ i ∈ e.lanes, (i + 1) * (32 * (e.et - 15) + 8) ≤ recExtent x) →
       idle (.mmac sw tl ka bank gain rep) ∧ (e.lanes ≠ [] → full (.mmac sw tl ka bank gain rep)) ∧ (e.lanes ≠ [] → room → ∃ t, exec (.mmac sw tl ka bank gain rep) s = .next t ∧ WaveWent s t u sw pc ∧
         queued t (.mmac tl.toNat bank.toNat gain.toNat rep.toNat x) (1#8 <<< bank.toNat) (tilesOf f) 1
           (e.lanes.length * (e.et - 15) * (if rep = 5 then 4 * k.ww else 2 ^ rep.toNat) * f + 4))) ∧
     (Issues s u sw (form (fun e => e.et == 8 && slotOk (e.slot slot) && slotScale (e.slot slot) == 0 && drainFmt tgt.toNat (slotFmt (e.slot slot)))
         [if tgt == 0 then { r := d.toNat, n := cntm1.toNat + 1, dest := true } else one d] [] true) → inRange 1 →
       (∀ i, s.switching core [i] = false) → drainTrap d tgt.toNat (slotFmt (e.slot slot)) e s = none →
       idle (.mdrain sw d tl cntm1 col zero tgt slot) ∧ (e.lanes ≠ [] → full (.mdrain sw d tl cntm1 col zero tgt slot)) ∧
       (e.lanes ≠ [] → room → ∃ t l, exec (.mdrain sw d tl cntm1 col zero tgt slot) s = .next t ∧
         queued t (.mdrain d.toNat tl.toNat (cntm1.toNat + 1) col.toNat zero tgt.toNat slot.toNat l) 0 (tilesOf 1) 1
           (4 + (e.lanes.length * (if tgt = 0 then cntm1.toNat + 1 else 256) + 63) / 64) ∧
         (tgt ≠ 0 → WaveWent s t u sw pc ∧ l = e.lanes.map fun i => (i, e.wv.vreg d.toNat i)) ∧
         (tgt = 0 → (t.arm u).pc = pc ∧ ∃ r ∈ (t.wave u.b u.w).outst, r.kind = .drain s.nextId ∧ r.eff = {} ∧ r.owner = if u.armB then 1 else 0))) ∧
     (Issues s u sw (form (fun e => e.et == 17 || e.et == 19 || e.et == 23) [] [ka] false) → x.toNat + 65536 ≤ alloc → x.toNat < 2 ^ 19 →
       x.toNat % 128 = 0 → own bank.toNat → k.compute = false → (∀ i, s.switching core [i] = false) → x.toNat / 65536 ≠ bank.toNat →
       (x.toNat + 65535) / 65536 ≠ bank.toNat →
       full (.mpack sw ka bank) ∧ (room → ∃ t, exec (.mpack sw ka bank) s = .next t ∧ WaveWent s t u sw pc ∧
         queued t (.mpack bank.toNat x.toNat) (1#8 <<< bank.toNat) (fun _ => False) 1 512)) ∧
     (Issues s u sw (form (fun _ => true) [] [kd] false) → own bank.toNat →
       ∃ t y, exec (.mstat sw kd bank) s = .next t ∧ PendingResult s t u sw 8 .plain { k := [(kd.toNat, y)] } [128 + kd.toNat] ∧
         y.getLsbD 0 = k.compute ∧ y.extractLsb' 2 2 = (if k.ww = 8 then 2#2 else if k.ww = 4 then 1#2 else 0#2) ∧
         (y.getLsbD 4 = true ↔ ∃ z ∈ (s.core core).arb, z.granted = true ∧ z.banks.getLsbD bank.toNat = true) ∧
         (y.extractLsb' 32 16).toNat = min 65535 ((s.raw - k.calAt) / 1000) ∧
         y.getLsbD 1 = s.switching core [65536 * bank.toNat] ∧ y.getLsbD 5 = (s.core core).calRun bank.toNat ∧
         y.getLsbD 6 = s.current core bank.toNat ∧ y.getLsbD 7 = (s.core core).lost.getLsbD bank.toNat ∧
         y.extractLsb' 16 8 = Config.gainTrim (core * 8 + bank.toNat) ∧ y.extractLsb' 24 8 = Config.offTrim (core * 8 + bank.toNat) ∧
         y.extractLsb' 48 16 = k.calTemp.getD (Config.calTempFuse (core * 8 + bank.toNat)))) ∧
  (∀ (s : State) (u : Cursor) (sw : Bool) (banks : BitVec 8) (w2 : BitVec 2) (expofs : BitVec 11) (tl : TReg) (toC : Bool) (col : BitVec 8)
       (kd ka : KReg) (bank : BitVec 3) (gain : BitVec 4) (rep : BitVec 3) (d : VReg) (cntm1 : BitVec 5) (zero : Bool) (tgt : BitVec 2) (slot : SlotNo),
     let e := s.env u
     let core := e.core
     let alloc := 4096 * e.ln.granules
     let x := e.wv.kreg ka.toNat
     let k := s.bank core bank.toNat
     let own := fun (i : Nat) => 65536 * (i + 1) ≤ alloc
     let trap := fun (i : Instr) (cause : Nat) (info : Nat) => ∃ t, exec i s = .next t ∧ TrapEntered s t u cause false (s.arm u).pc (BitVec.ofNat 64 info)
     let low := fun (p : Nat → Prop) (a : Nat) => p a ∧ ∀ i, i < a → ¬ p i
     let none' := fun (p : Nat → Prop) => ∀ a, ¬ p a
     let form := fun (legal : Env → Bool) (vs : List VOp) (ks : List KReg) (g : Bool) (e : Env) =>
       ({ pre := need (e.ln.arrays && legal e), vs := vs, ks := ks.map (·.toNat), guarded := g, mem := true } : Form)
     let f := 2048 / k.ww / 256
     let word := fun (n w : Nat) => (∃ i, i < 1024 ∧ i < e.ln.lanes ∧ e.arm.mask.getLsbD i = true ∧ i / 32 = w) ∧ 8 < tl.toNat + w * n + n
     TakesTraps s u → (s.core core).badTiles = [] → (∀ i, s.switching core [i] = false) →
     (Issues s u sw (form (fun _ => true) [] [] false) →
       let lost := fun (i : Nat) => banks.getLsbD i = true ∧ ¬ own i
       let table := fun (a : Nat) => ∃ i, i < 8 ∧ banks.getLsbD i = true ∧ 256 * expofs.toNat + 1024 * i ≤ a ∧
         a < 256 * expofs.toNat + 1024 * i + 2048 / 2 ^ (w2.toNat + 1)
       let out := fun (a : Nat) => table a ∧ alloc ≤ a
       let busy := fun (a : Nat) => table a ∧ (banks.getLsbD (a / 65536) = true ∨ s.inCompute core a = true)
       let inbox := fun (a : Nat) => (∃ z ∈ s.inboxRegions u.b, z.1 ≤ a ∧ a < z.1 + z.2) ∧ banks.getLsbD (a / 65536) = true
       let on := Instr.amode sw banks true w2 expofs
       let gone := banks.setWidth 9 &&& (s.core core).lost ≠ 0
       (∀ i, low lost i → trap (.amode sw banks toC w2 expofs) 13 (65536 * i) ∧ trap (.mcal sw banks) 13 (65536 * i)) ∧
       (none' lost → gone → trap on 15 banks.toNat) ∧
       (none' lost → ¬ gone → ∀ a, low out a → trap on 13 a) ∧
       (none' lost → ¬ gone → none' out → ∀ a, low busy a → trap on 14 a) ∧
       (none' lost → ¬ gone → none' out → none' busy → ∀ a, low inbox a → trap on 14 a)) ∧
     (Issues s u sw (form (fun e => 17 ≤ e.et && e.et ≤ 23) [] [ka] true) →
       let i := Instr.mmac sw tl ka bank gain rep
       let past := fun (j : Nat) => j ∈ e.lanes ∧ recExtent x < (j + 1) * (32 * (e.et - 15) + 8)
       let legal := x &&& 0xFFF00000FFF80000#64 = 0
       let fits := legal ∧ own bank.toNat ∧ k.compute = true ∧ recBase x % 8 = 0 ∧ recBase x + recExtent x ≤ alloc
       (¬ legal → trap i 1 0) ∧ (legal → ¬ own bank.toNat → trap i 13 (65536 * bank.toNat)) ∧
       (legal → own bank.toNat → k.compute = false → trap i 14 (65536 * bank.toNat)) ∧
       (legal → own bank.toNat → k.compute = true → recBase x % 8 ≠ 0 → trap i 2 (recBase x)) ∧
       (legal → own bank.toNat → k.compute = true → recBase x % 8 = 0 → alloc < recBase x + recExtent x → trap i 13 (max (recBase x) alloc)) ∧
       (fits → ∀ w, low (word f) w → trap i 16 w) ∧
       (fits → none' (word f) → ∀ j, low past j → trap i 13 (recBase x + max (recExtent x) (j * (32 * (e.et - 15) + 8))))) ∧
     (Issues s u sw (form (fun e => e.et == 8 && slotOk (e.slot slot) && slotScale (e.slot slot) == 0 && drainFmt tgt.toNat (slotFmt (e.slot slot)))
         [if tgt == 0 then { r := d.toNat, n := cntm1.toNat + 1, dest := true } else one d] [] true) →
       let i := Instr.mdrain sw d tl cntm1 col zero tgt slot
       let fmt := slotFmt (e.slot slot)
       let off := fun (j : Nat) => (e.wv.vreg d.toNat j).toNat
       let row := fun (a : Nat) => ∃ j ∈ e.lanes, off j ≤ a ∧ a < off j + 256 * etBytes fmt
       let odd := fun (a : Nat) => (∃ j ∈ e.lanes, off j = a) ∧ a % 8 ≠ 0
       let out := fun (a : Nat) => row a ∧ alloc ≤ a
       let busy := fun (a : Nat) => row a ∧ s.inCompute core a = true
       let desc := fun (j : Nat) => e.cx.colls.find? fun c => c.1 == off j / 2 ^ 24
       let strange := fun (j : Nat) => j ∈ e.lanes ∧ ∀ c, desc j = some c → c.2.fmt ≠ fmt
       let far := fun (j : Nat) => j ∈ e.lanes ∧ ∃ c, desc j = some c ∧ c.2.nblk ≤ off j % 2 ^ 24
       (∀ w, low (word 1) w → trap i 16 w) ∧
       (none' (word 1) → tgt = 1 → (∀ a, low odd a → trap i 2 a) ∧ (none' odd → ∀ a, low out a → trap i 13 a) ∧
         (none' odd → none' out → ∀ a, low busy a → trap i 14 a)) ∧
       (none' (word 1) → tgt = 2 → (∀ j, low strange j → trap i 17 (off j / 2 ^ 24)) ∧
         (none' strange → ∀ j, low far j → trap i 18 (off j % 2 ^ 24)))) ∧
     (Issues s u sw (form (fun e => e.et == 17 || e.et == 19 || e.et == 23) [] [ka] false) →
       let i := Instr.mpack sw ka bank
       let off := fun (a : Nat) => x.toNat ≤ a ∧ a < x.toNat + 65536 ∧ (alloc ≤ a ∨ a / 65536 = bank.toNat)
       (2 ^ 19 ≤ x.toNat → trap i 1 0) ∧ (x.toNat < 2 ^ 19 → ¬ own bank.toNat → trap i 13 (65536 * bank.toNat)) ∧
       (x.toNat < 2 ^ 19 → own bank.toNat → (∀ a, low off a → trap i 13 a) ∧ (none' off → x.toNat % 128 ≠ 0 → trap i 2 x.toNat) ∧
         (none' off → x.toNat % 128 = 0 → k.compute = true → trap i 14 (65536 * bank.toNat)))) ∧
     (Issues s u sw (form (fun _ => true) [] [kd] false) → ¬ own bank.toNat → trap (.mstat sw kd bank) 13 (65536 * bank.toNat)))

/-- For every state in which the instruction issues: copy, in the producer wave, with its parameter block's address aligned on a plain page, room in the engine and no earlier LS work of the arm unperformed on the block's line, leaves one new copy in the core's engine; cstat leaves a result that, where every earlier copy of the block is captured, holds the free entries, the failures and the number of the block's copies that its address operand names; rehome, once every earlier access of the arm is complete, gives each granule of its range the issuing die as its override, and no other. No register, flag or byte of memory has changed.
(R331, R334, R343, R416, R418, R419) -/
def Obligations.CopiesAndHomes : Prop :=
  ∀ (s : State) (u : Cursor) (sw : Bool) (kd ka kb : KReg),
    let e := s.env u
    let core := e.core
    let x := e.wv.kreg ka.toNat
    let n := (e.wv.kreg kb.toNat).toNat
    let mine := (s.core core).copies.filter fun c => c.b == u.b && c.id < s.nextId
    (Issues s u sw (fun _ => { ks := [ka.toNat], mem := true }) → e.wv.idx = e.ln.producer →
      (s.core core).copies.length < 32 → ∀ k, s.plainKey e 128 false x = some k → s.lsConflict u.b u.w u.armB false [k / 128] = false →
      ∃ t c, exec (.copy sw ka) s = .next t ∧ WaveWent s t u sw ((s.arm u).pc + 8) ∧ (∀ i, t.byteAt i = s.byteAt i) ∧
        (t.core core).copies = (s.core core).copies ++ [c] ∧ c.id = s.nextId ∧ c.b = u.b ∧ c.w = u.w ∧ c.armB = u.armB ∧ c.ka = x ∧ c.block = none) ∧
    (Issues s u sw (fun _ => { ks := [kd.toNat, ka.toNat] }) →
      ∃ t r, exec (.cstat sw kd ka) s = .next t ∧ r ∈ (t.wave u.b u.w).outst ∧ r.id = s.nextId ∧ (∀ i, t.byteAt i = s.byteAt i) ∧
        (t.arm u).pc = (s.arm u).pc + 8 ∧ (t.arm u).dmask = (if sw then 0 else (s.arm u).dmask) ||| dmaskOf [128 + kd.toNat] ∧
        ((∃ c ∈ mine, c.block = none) → r.kind = .cstat x ∧ r.eff = {}) ∧
        ((∀ c ∈ mine, c.block.isSome = true) → r.kind = .plain ∧
          r.eff = { k := [(kd.toNat, BitVec.ofNat 64 ((32 - (s.core core).copies.length) * 2 ^ 48 + min 65535 (s.block u.b).copyFaults * 2 ^ 32 +
            (mine.filter fun c => x == 0 || (c.block.map fun p => field p 16 8) == some x.toNat).length))] })) ∧
    (Issues s u sw (fun _ => { ks := [ka.toNat, kb.toNat], mem := true }) → x.toNat % 65536 = 0 → n % 65536 = 0 → n ≤ 2 ^ 30 →
      s.quietArm e = true → ∀ l, s.rehomePages e x (n / 4096) = .ok l →
      (∀ j ∈ s.sumac, j.write = true → j.out.isSome = true → ¬ (l.map (·.1)).contains (j.key / 65536)) →
      ∃ t, exec (.rehome sw ka kb) s = .next t ∧ WaveWent s t u sw ((s.arm u).pc + 8) ∧ (∀ i, t.byteAt i = s.byteAt i) ∧
        ∀ g, t.dirByte (g * 65536) = if (l.map (·.1)).contains g then 0x80#8 ||| (s.dirByte (g * 65536) &&& 0x40#8) ||| BitVec.ofNat 8 (e.blk.die % 8)
          else s.dirByte (g * 65536))

/-- One more unit of a pointstamp in the held table joins its entry, or takes one more where none has room; one fewer takes it away, and an entry with its last unit; every other pointstamp keeps its units, no entry counts 0 or above 65,535, and the table grows by one entry exactly where none could be joined. For every state in which the instruction issues in a launch with a graph and its checks hold: tsend, while no batch of the core waits for room, with its credits granted sends one entry for each active lane, in lane order, with the lane's payload and the time of its channel, and puts one +1 for each into the core's open batch, and without a request registers one and stays; a receive of a visible entry copies it to the wave's landing slot, adds its unit to the held table, moves HEAD or TAIL and returns its timestamp, a tpoll or tsteal without one returns NONE, and a trecv without one leaves a result that waits, with one held entry reserved.
(R354, R356, R361, R362, R363, R368, R369) -/
def Obligations.SendsAndReceives : Prop :=
  ∀ (s : State) (u : Cursor) (sw : Bool) (kd ka kc : KReg) (b : VReg) (g : Nat),
    let e := s.env u
    let h := s.graph g
    let x := e.wv.kreg ka.toNat
    let c := x.toNat % 1024
    let w := x.toNat / 65536 % 128
    let kt := e.wv.kreg kc.toNat
    let p := h.edge c
    (∀ (l : List Held) (q : Nat) (ts : DWord), (∀ y ∈ l, 1 ≤ y.count ∧ y.count ≤ 65535) →
      let units := fun (l : List Held) (q : Nat) (ts : DWord) => ((l.filter fun y => y.port == q && y.ts == ts).map (·.count)).sum
      units (heldAdd l q ts) q ts = units l q ts + 1 ∧ (heldAt l q ts = true → units (heldDrop l q ts) q ts + 1 = units l q ts) ∧
      (∀ q' ts', q' ≠ q ∨ ts' ≠ ts → units (heldAdd l q ts) q' ts' = units l q' ts' ∧ units (heldDrop l q ts) q' ts' = units l q' ts') ∧
      (∀ y ∈ heldAdd l q ts ++ heldDrop l q ts, 1 ≤ y.count ∧ y.count ≤ 65535) ∧
      (heldAdd l q ts).length = l.length + (if heldJoins l q ts then 0 else 1) ∧ (heldDrop l q ts).length ≤ l.length) ∧
    let req : SendReq := { b := u.b, w := u.w, armB := u.armB, graph := g, chan := c, lanes := e.lanes.length, site := (s.arm u).pc, kc := kt }
    let inner := fun (t : State) => t.modBlock u.b fun k =>
      { k with reserved := (s.block u.b).reserved, held := (s.block u.b).held, inboxes := (s.block u.b).inboxes }
    let slot := fun (v n : Nat) => (s.block v).base + (h.port c).inbox + (h.port c).entryBytes * n
    let entryOf := fun (v n : Nat) => s.scrBytes (s.block v).core (slot v (n % (h.port c).ring)) (h.port c).entryBytes
    let took := fun (t : State) (l : List Byte) =>
      t.scrBytes (s.block u.b).core (slot u.b ((h.port c).ring + u.w)) (h.port c).entryBytes = l ∧
      (t.block u.b).held = heldAdd (s.block u.b).held c (BitVec.ofNat 64 (field l 0 8)) ∧
      (∃ r ∈ (t.wave u.b u.w).outst, r.id = s.nextId ∧ r.kind = .received ∧ r.eff = { k := [(kd.toNat, BitVec.ofNat 64 (field l 0 8))] }) ∧
      (t.block u.b).reserved = (s.block u.b).reserved ∧ (t.arm u).pc = (s.arm u).pc + 8
    (e.ln.graph = some g → u.b < s.blocks.length →
    (Issues s u sw (fun _ => { ks := [ka.toNat, kc.toNat], guarded := true, mem := true }) → x.toNat = c + 65536 * w → c < h.edges.length → w ≤ 64 →
      (w ≠ 0 → ({ vs := [{ r := b.toNat, n := w }] } : Form).check ((s.beginSegment u sw).env u) = none) →
      (∀ z ∈ e.wv.late, ∀ r ∈ z.regs, ¬ (b.toNat ≤ r ∧ r < b.toNat + w)) → 4 * w ≤ 16 * (h.port p.dst).plen →
      validAt (h.port p.src).depth kt = true →
      (e.lanes = [] → s.stalled e.core = false → ∃ t, exec (.tsend sw ka b kc) s = .next t ∧ PcResult s t u sw ((s.arm u).pc + 8)) ∧
      (e.lanes ≠ [] → heldAny (s.block u.b).held p.src kt = true → s.remotePort g p.dst = false → s.stalled e.core = false →
        (s.consumers g p.dst) ≠ [] → e.lanes.length ≤ (h.port p.dst).ring * (s.consumers g p.dst).length → ∀ ts,
        (edgeSummary (h.port p.src).depth p).exact kt = some ts → validAt (h.port p.dst).depth ts = true →
        ((∀ r ∈ s.sendReqs, { r with granted := none } ≠ req) →
          ∃ t, exec (.tsend sw ka b kc) s = .next t ∧ (t.arm u).pc = (s.arm u).pc ∧ t.entries = s.entries ∧
            t.sendReqs = (s.dropSend u).sendReqs ++ [req]) ∧
        (∀ r (cons : List Nat), s.sendReqs.find? (fun r => { r with granted := none } == req) = some r →
          r.granted = some (cons.map some) → cons.length = e.lanes.length →
          ∃ t l, exec (.tsend sw ka b kc) s = .next t ∧ WaveWent s t u sw ((s.arm u).pc + 8) ∧ (∀ i, t.byteAt i = s.byteAt i) ∧
            t.sendReqs = (s.dropSend u).sendReqs ∧
            t.entries = s.entries ++ l ∧ l.length = e.lanes.length ∧
            (∀ j, j < e.lanes.length → ∀ y, l[j]? = some y → y.graph = g ∧ y.chan = c ∧ y.port = p.dst ∧ y.cons = cons[j]? ∧ y.ts = ts ∧
              y.payload = (List.range w).map (fun i => e.wv.vreg (b.toNat + i) (e.lanes.getD j 0)) ∧ y.sender = BitVec.ofNat 32 (s.idOf u.b u.w)) ∧
            ∃ y ∈ t.openBatches, y.core = e.core ∧ y.graph = g ∧
              y.deltas = ((s.openBatches.find? fun o => o.core == e.core && o.graph == g).map (·.deltas)).getD [] ++
                l.map fun n => { port := p.dst, ts := ts, add := 1, entry := some n.id }))) ∧
    (Issues s u sw (fun _ => { ks := [kd.toNat, ka.toNat], mem := true }) → e.wv.recvOut = false → c < h.ports.length →
      (s.block u.b).heldFull = false → ∀ i, (s.block u.b).inbox c = some i →
      (x.toNat = c → i.head = i.tail →
        (∃ t, exec (.tpoll sw kd ka) s = .next t ∧ PendingResult s t u sw 8 .received { k := [(kd.toNat, NONE)] } [128 + kd.toNat]) ∧
        ∃ t, exec (.trecv sw kd ka) s = .next t ∧ (t.block u.b).reserved = (s.block u.b).reserved + 1 ∧
          PendingResult s (inner t) u sw 8 (.recv g c) {} [128 + kd.toNat]) ∧
      (x.toNat = c → i.head < i.tail →
        (∃ t, exec (.tpoll sw kd ka) s = .next t ∧ took t (entryOf u.b i.head) ∧ (t.block u.b).inbox c = some { i with head := i.head + 1 }) ∧
        ((s.block u.b).resident = true → (s.block u.b).restoring = false → s.oldestRecv g c u.b = none →
          ∃ t, exec (.trecv sw kd ka) s = .next t ∧ took t (entryOf u.b i.head) ∧ (t.block u.b).inbox c = some { i with head := i.head + 1 })) ∧
      (∀ v y, x.toNat = c + 65536 * (x.toNat / 65536 % 8192) → s.victim g c (x.toNat / 65536 % 8192) = some v → (s.block v).inbox c = some y →
        (y.head < y.tail → (s.block v).saved = none → ∃ t, exec (.tsteal sw kd ka) s = .next t ∧ took t (entryOf v (y.tail - 1)) ∧
          (t.block v).inbox c = some { y with tail := y.tail - 1 }) ∧
        (y.head = y.tail → ∃ t, exec (.tsteal sw kd ka) s = .next t ∧
          PendingResult s t u sw 8 .received { k := [(kd.toNat, NONE)] } [128 + kd.toNat]))))

/-- For every state in which the instruction issues in a launch with a graph and its checks hold: tcap and tdrop add or remove one held unit and put its count change into the core's open batch; tadv and tsum compute timestamps counter by counter; fwait goes on where no element of the port's frontier word is at or before kB and otherwise waits with a monitor of the word; fread leaves a result with the field of the frontier word. No other register, flag or byte of memory changes.
(R348, R349, R354, R356, R370, R371, R372, R373) -/
def Obligations.UnitsTimesAndFrontiers : Prop :=
  ∀ (s : State) (u : Cursor) (sw : Bool) (kd ka kb : KReg) (op d c : BitVec 2) (n : Half) (g : Nat),
    let e := s.env u
    let h := s.graph g
    let x := e.wv.kreg ka.toNat
    let y := e.wv.kreg kb.toNat
    let q := x.toNat % 1024
    let held := (s.block u.b).held
    let pc := (s.arm u).pc + 8
    let cnt := fun (t : DWord) (i : Nat) => t.toNat / 2 ^ (16 * (3 - i)) % 65536
    let moved := fun (t : State) (l : List Held) (a : Int) =>
      (t.block u.b).held = l ∧ (∀ i, t.byteAt i = s.byteAt i) ∧ WaveWent s (t.modBlock u.b fun k => { k with held := held }) u sw pc ∧
      ∃ z ∈ t.openBatches, z.core = e.core ∧ z.graph = g ∧
        z.deltas = ((s.openBatches.find? fun o => o.core == e.core && o.graph == g).map (·.deltas)).getD [] ++
          [{ port := q, ts := y, add := a, own := some (u.b, u.w, u.armB, s.nextId) }]
    let wrote := fun (i : Instr) (f : Nat → Nat) => ∃ t r, exec i s = .next t ∧ UniformResult s t u sw pc kd.toNat r ∧ ∀ j, j < 4 → cnt r j = f j
    (Issues s u sw (fun _ => { ks := [ka.toNat, kb.toNat], mem := true }) → e.ln.graph = some g → x.toNat = q → q < h.ports.length →
      validAt (h.port q).depth y = true →
      (s.stalled e.core = false → heldAny held q y = true → (heldJoins held q y = true ∨ (s.block u.b).heldFull = false) →
        ∃ t, exec (.tcap sw ka kb) s = .next t ∧ moved t (heldAdd held q y) 1) ∧
      (s.stalled e.core = false → heldAt held q y = true → ∃ t, exec (.tdrop sw ka kb) s = .next t ∧ moved t (heldDrop held q y) (-1)) ∧
      (s.l2Fail = [] → s.l2Lost = [] → ∀ k, s.plainKey e 8 false (h.front + BitVec.ofNat 64 (128 * q)) = some k → s.badIn k 128 = false → k < peerBit →
        ∃ t, exec (.fwait sw ka kb) s = .next t ∧ (∀ i, t.byteAt i = s.byteAt i) ∧
          WaveWent s (t.modArm u fun a => { a with st := (s.arm u).st, waited := (s.arm u).waited }) u sw pc ∧
          if (s.frontAt k).all (fun f => !tsLe f y) then (t.arm u).st = (s.arm u).st ∧ (t.arm u).waited = (s.arm u).waited ∧ t.monitors = s.monitors
          else (t.arm u).st = .fwait g q k y ∧ (t.arm u).waited = 0 ∧ ∃ m, t.monitors = s.monitors ++ [m] ∧ m.b = u.b ∧ m.w = u.w ∧ m.armB = u.armB ∧ m.line = k / 128)) ∧
    (Issues s u sw (fun _ => { ks := [kd.toNat, ka.toNat], mem := true }) → e.ln.graph = some g → ∀ f k, f ≤ 9 → x.toNat = q + 65536 * f →
      q < h.ports.length → s.l2Fail = [] → s.l2Lost = [] →
      s.plainKey e 8 false (h.front + BitVec.ofNat 64 (128 * q) + BitVec.ofNat 64 (if f = 8 then 8 else if f = 9 then 0 else 16 + 8 * f)) = some k →
      s.badIn k 8 = false →
      ∃ t, exec (.fread sw kd ka) s = .next t ∧
        ResultPending s t u sw 8 .plain { k := [(kd.toNat, BitVec.ofNat 64 (leNat (s.bytesAt k 8)))] } [128 + kd.toNat]) ∧
    (Issues s u sw (kForm [kd, ka]) → validAt d.toNat x = true →
      (op = 0 → d ≠ 3 → wrote (.tadv sw kd ka op d c n) (cnt x)) ∧
      (op = 1 → d ≠ 0 → wrote (.tadv sw kd ka op d c n) fun j => if j = d.toNat then 0 else cnt x j) ∧
      (op = 2 → c.toNat ≤ d.toNat → cnt x c.toNat + n.toNat ≤ 65535 →
        wrote (.tadv sw kd ka op d c n) fun j => if j = c.toNat then cnt x j + n.toNat else cnt x j) ∧
      (op = 2 → c.toNat ≤ d.toNat → 65535 < cnt x c.toNat + n.toNat → TakesTraps s u →
        ∃ t, exec (.tadv sw kd ka op d c n) s = .next t ∧ TrapEntered s t u 26 false (s.arm u).pc 5)) ∧
    (Issues s u sw (kForm [kd, ka, kb]) →
      ((∀ j, j < 4 → cnt x j + cnt y j ≤ 65535) → wrote (.tsum sw kd ka kb) fun j => cnt x j + cnt y j) ∧
      ((∃ j, j < 4 ∧ 65535 < cnt x j + cnt y j) → TakesTraps s u →
        ∃ t, exec (.tsum sw kd ka kb) s = .next t ∧ TrapEntered s t u 26 false (s.arm u).pc 5))

/-- RESULT_WRITE writes a bound result to the lanes that have not exited, ORs its flags, removes it, and makes a parked arm that waits for nothing else ready; a peer's answer also ends its requests, those that fail with a report and their lane's register as it was. DEFERRED_FAULT_REPORT makes a report pending at its wave, or posts it alone where the wave is complete or holds four. TAKE_DEFERRED_FAULT enters the handler for the oldest pending fault and posts its record; ILLEGAL_INSTRUCTION_WORD takes trap 1; BREAKPOINT_MATCH halts the wave before the instruction, without a match next time. FENCE_COMPLETE ends a fence exactly where its conditions hold (log 19), and an acquire of the LS path empties the core's L1 as its scope says. A write of a byte of a monitored line compares its wait again, and HOME_SLICE_WRITE lets every arm of the line whose wait was met go on; WAITGE_RETRY compares a wait of the retry set, which goes on, takes a monitor where fewer than 3,840 are taken (log 19) or stays; an uncorrectable word ends no wait (log 32). PC_SAMPLE, with no mark of its clk in the ring, writes the record of the block's next wave and advances HEAD: ISSUED where the wave's arm issued in the last step, with the address issued, else its reason and next address (log 28). Nothing else changes.
(R27, R43, R76, R189, R301, R303, R379, R380, R386, R452, R453, R456) -/
def Obligations.WaveEvents : Prop :=
  (∀ (s : State) (b w : Nat) (r : OutRes),
    let v := s.wave b w
    let u : Cursor := ⟨b, w, false⟩
    let live := fun (i : Nat) => v.exited.getLsbD i = false
    let unparked := fun (t : State) => ∀ armB,
      let go := (v.arm armB).st = .parked ∧ (t.wave b w).mine armB = []
      (t.wave b w).arm armB = { v.arm armB with st := if go then .ready else (v.arm armB).st, waited := if go then 0 else (v.arm armB).waited }
    b < s.blocks.length → w < (s.block b).waves.length → r ∈ v.outst → (∀ q ∈ v.outst, q.id = r.id → q = r) →
    (r.kind.bound = true → (r.eff.v.map (·.1)).Nodup → (r.eff.k.map (·.1)).Nodup → (r.eff.p.map (·.1)).Nodup →
      ∃ t, exec (.resultWrite b w r.id) s = .next t ∧ PlacesKept s t u ∧ { t with blocks := s.blocks, dev := s.dev } = s ∧
        (r.loads = 0 → t.dev = s.dev) ∧
        (∀ n i, i < 1024 → (t.wave b w).vreg n i =
          match r.eff.v.find? (fun x => x.1 == n * 1024 + i) with | some x => if v.exited.getLsbD i then v.vreg n i else x.2 | none => v.vreg n i) ∧
        (∀ n, (t.wave b w).kreg n = match r.eff.k.find? (fun x => x.1 == n) with | some x => x.2 | none => v.kreg n) ∧
        (∀ n i, n ≠ 0 → i < 1024 → ((t.wave b w).preg n).getLsbD i = match r.eff.p.find? (fun x => x.1 == n) with
          | some x => if x.2.1.getLsbD i && !v.exited.getLsbD i then x.2.2.getLsbD i else (v.preg n).getLsbD i
          | none => (v.preg n).getLsbD i) ∧
        (t.wave b w).status = v.status ||| r.eff.flags.setWidth 32 ∧ (t.wave b w).outst = v.outst.filter (fun q => q.id != r.id) ∧
        unparked t ∧
        (∀ x, x ∈ (t.wave b w).badRegs ↔ x ∈ v.badRegs ∧ ¬ (live (x % 1024) ∧ x ∈ r.eff.v.map (·.1))) ∧
        (∀ x, x ∈ (t.wave b w).softRegs ↔ x ∈ v.softRegs ∧ ¬ (live (x % 1024) ∧ x ∈ r.eff.v.map (·.1))) ∧
        { t.wave b w with v := v.v, k := v.k, p := v.p, status := v.status, outst := v.outst, badRegs := v.badRegs
                          softRegs := v.softRegs, a := v.a, b := v.b } = v) ∧
    (∀ n, r.kind = .peer n → (r.eff.v.map (·.1)).Nodup → (r.eff.k.map (·.1)).Nodup → r.eff.p = [] →
      ∃ (t : State) (bad : List PeerReq), exec (.resultWrite b w r.id) s = .next t ∧ BlocksKept s t u ∧ (∀ x, t.byteAt x = s.byteAt x) ∧
        bad.Sublist (s.peerReqs.filter fun q => q.res == r.id) ∧ (∀ q ∈ s.peerReqs, q.res = r.id → s.linkDown q.dev = true → q ∈ bad) ∧
        t.peerReqs = s.peerReqs.filter (fun q => q.res != r.id) ∧
        (∃ l, t.reports = s.reports ++ l ∧ l.length = bad.length ∧ ∀ (i : Nat) (q : PeerReq) (y : Report), bad[i]? = some q → l[i]? = some y →
          y.b = q.b ∧ y.w = q.w ∧ y.d.info = q.va ∧ y.d.site = q.site ∧ y.d.seq = q.seq ∧
          if s.linkDown q.dev then y.d.cause = (if q.kind = 2 then 24 else 21) ∧ y.d.sub = 0 else y.d.cause = 3 ∧ (y.d.sub = 1 ∨ y.d.sub = 3)) ∧
        (∀ n i, i < 1024 → (t.wave b w).vreg n i = match r.eff.v.find? (fun x => x.1 == n * 1024 + i) with
          | some x => if v.exited.getLsbD i = true ∨ (∃ q ∈ bad, q.lane = i) then v.vreg n i else x.2
          | none => v.vreg n i) ∧
        (∀ n, (t.wave b w).kreg n = match r.eff.k.find? (fun x => x.1 == n) with | some x => if bad = [] then x.2 else v.kreg n | none => v.kreg n) ∧
        (∀ n, (t.wave b w).preg n = v.preg n) ∧ (t.wave b w).status = v.status ||| r.eff.flags.setWidth 32 ∧
        (t.wave b w).outst = v.outst.filter (fun q => q.id != r.id) ∧ unparked t ∧
        { t.wave b w with v := v.v, k := v.k, p := v.p, status := v.status, outst := v.outst, badRegs := v.badRegs
                          softRegs := v.softRegs, a := v.a, b := v.b } = v)) ∧
  (∀ (s : State) (i : Nat) (r : Report), s.reports[i]? = some r → r.b < s.blocks.length → r.w < (s.block r.b).waves.length →
    let v := s.wave r.b r.w
    let k := s.block r.b
    let n := s.launch k.launch
    let s' := { s with reports := s.reports.eraseIdx i }
    let rec' : FaultRec := { cause := r.d.cause, sub := r.d.sub, deferred := true, site := r.d.site, seq := r.d.seq, info := r.d.info
                             gid := waveId k.core v.slot v.res, queue := n.queue, gang := (s.gang k.launch k.gang).number, block := k.index
                             wave := r.w, die := k.die }
    (v.done = false → v.pend.length < 4 →
      exec (.deferredFaultReport i) s = .next (s'.modWave r.b r.w fun v => { v with pend := v.pend ++ [r.d] })) ∧
    (v.done = false → 4 ≤ v.pend.length → exec (.deferredFaultReport i) s = .next (s'.post n.ctx { rec' with stop := v.a.nextPc, spill := true })) ∧
    (v.done = true → exec (.deferredFaultReport i) s = .next (s'.post n.ctx rec'))) ∧
  (∀ (s : State) (u : Cursor),
    let v := s.wave u.b u.w
    let k := s.block u.b
    let n := s.launch k.launch
    let rec' : FaultRec := { stop := (s.arm u).pc, seq := n.seq, gid := waveId k.core v.slot v.res, queue := n.queue
                             gang := (s.gang k.launch k.gang).number, block := k.index, wave := u.w, die := k.die, cause := 0 }
    s.cur = some u → u.b < s.blocks.length → u.w < k.waves.length → (u.armB = true → v.b.isSome = true) →
    (∀ d rest, v.pend = d :: rest → v.halted = false → v.done = false → (s.arm u).st = .ready → TakesTraps s u →
      ∃ m, TrapEntered (s.modWave u.b u.w fun v => { v with pend := rest }) m u d.cause true (s.arm u).pc d.info ∧
        exec .takeDeferredFault s = .next (m.post n.ctx
          { rec' with cause := d.cause, sub := d.sub, deferred := true, handled := true, site := d.site, seq := d.seq, info := d.info })) ∧
    (TakesTraps s u → ∃ t, exec .illegalInstructionWord s = .next t ∧ TrapEntered s t u 1 false (s.arm u).pc 0) ∧
    (∀ i, v.outst = [] → (∀ r ∈ s.reports, ¬ (r.b = u.b ∧ r.w = u.w)) → (s.ctx n.ctx).debug = true → (s.arm u).skipBp = false → i < (s.ctx n.ctx).bps.length →
      (∀ j, j ≤ i → (j = i ↔ ((s.ctx n.ctx).bps.getD j 0).getLsbD 0 = true ∧
        ((s.ctx n.ctx).bps.getD j 0).extractLsb' 2 55 = (s.arm u).pc.extractLsb' 2 55)) →
      ∃ m : State, OthersKept s { m with sendReqs := s.sendReqs } u ∧ m.sendReqs = (s.dropSend u).sendReqs ∧
        (m.wave u.b u.w).halted = true ∧ m.arm u = { s.arm u with reason := 29, skipBp := true, st := .ready } ∧
        (m.wave u.b u.w).status = v.status ||| v.lateFlags.setWidth 32 ∧ (m.wave u.b u.w).late = [] ∧
        { m.wave u.b u.w with halted := v.halted, status := v.status, late := v.late, a := v.a, b := v.b } = v ∧
        (m.wave u.b u.w).arm (!u.armB) = v.arm (!u.armB) ∧
        exec .breakpointMatch s = .next (m.post n.ctx
          { rec' with cause := 29, halted := true, site := (s.arm u).pc, info := BitVec.ofNat 64 (256 + i) }))) ∧
  (∀ (s : State) (b w : Nat) (armB : Bool) (f : Fence),
    let v := s.wave b w
    let c := (s.block b).core
    let past := (s.block b).st ≠ .preempted ∧ (s.block b).restoring = false ∧
      (f.paths.getLsbD 0 = true → s.lsBusy b w armB = false ∧ (f.kind ≠ 2 → v.reading armB = false)) ∧
      (f.paths.getLsbD 1 = true → s.cpBusy b w armB = false) ∧ (f.paths.getLsbD 2 = true → s.mxBusy b w armB = false) ∧
      (f.paths.getLsbD 3 = true → (f.kind ≠ 1 → s.sending b w armB = false) ∧ (f.kind ≠ 2 → v.receiving armB = false))
    (v.arm armB).fence = some f →
    (¬ past → exec (.fenceComplete b w armB) s = .next s) ∧
    (past → (∀ r ∈ s.reports, ¬ (r.b = b ∧ r.w = w)) → (∀ q ∈ s.peerReqs, ¬ ((q.kind = 1 ∨ q.res = 0) ∧ q.b = b ∧ q.w = w)) →
      ∃ t, exec (.fenceComplete b w armB) s = .next t ∧ { t with blocks := s.blocks, cores := s.cores } = s ∧ BlocksKept s t ⟨b, w, armB⟩ ∧
        t.wave b w = v.modArm armB (fun a => { a with fence := none }) ∧ (∀ j, j ≠ c → t.core j = s.core j) ∧
        t.core c = (if f.paths.getLsbD 0 = true ∧ f.kind ≠ 2 then
            { s.core c with decoded := [], l1 := if 2 ≤ f.scope then [] else (s.core c).l1, l1Old := if 2 ≤ f.scope then [] else (s.core c).l1Old }
          else s.core c))) ∧
  (∀ (s : State) (line : Nat),
    let hit := fun (m : Monitor) => m.line = line ∧ m.fired = true ∧ m.retry = false
    let due := fun (u : Cursor) => ∃ m ∈ s.monitors, m.waits u = true ∧ hit m
    ∃ t, exec (.homeSliceWrite line) s = .next t ∧ { t with blocks := s.blocks, monitors := s.monitors, cores := s.cores } = s ∧
      (∀ c, { t.core c with l1Old := (s.core c).l1Old } = s.core c ∧ (t.core c).l1Old.Sublist (s.core c).l1Old) ∧
      (∀ b w, { t.wave b w with a := (s.wave b w).a, b := (s.wave b w).b } = s.wave b w) ∧
      (∀ u : Cursor, ¬ due u → t.arm u = s.arm u) ∧
      (∀ u : Cursor, due u → t.arm u =
        { s.arm u with st := .ready, reason := 0, waited := 0
                       pc := match (s.arm u).st with | .waitge _ _ _ (some p) => p | _ => (s.arm u).pc }) ∧
      ∀ m, m ∈ t.monitors ↔ m ∈ s.monitors ∧ (m.peer.isSome = true → ¬ hit m) ∧ (m.peer = none → ¬ due ⟨m.b, m.w, m.armB⟩)) ∧
  (∀ (s : State) (own : Option Nat) (l : List (Nat × Byte)) (m : Monitor), m ∈ s.monitors → m.retry = false → m.peer = none →
    (∃ c ∈ l, c.1 / 128 = m.line) →
    let t := s.putBytes own l
    { m with fired := m.fired || t.waitHolds (s.arm ⟨m.b, m.w, m.armB⟩).st } ∈ t.monitors) ∧
  (∀ (s : State) (key : Nat) (va target : DWord) (cont : Option DWord), key < peerBit →
    (s.waitHolds (.waitge va key target cont) = true ↔ s.badIn key 8 = false ∧ target.toNat ≤ leNat (s.bytesAt key 8))) ∧
  (∀ (s : State) (m : Monitor), m ∈ s.monitors → m.retry = true → m.peer = none → (∀ n ∈ s.monitors, n.waits ⟨m.b, m.w, m.armB⟩ = true → n = m) →
    s.memGood = true → m.key < peerBit →
    let u : Cursor := ⟨m.b, m.w, m.armB⟩
    let room := (s.monitors.filter fun n => n.home == m.home && !n.retry).length < 3840
    ∃ t, exec (.waitgeRetry m.b m.w m.armB) s = .next t ∧
      { t with blocks := s.blocks, monitors := s.monitors, cores := s.cores, preds := s.preds } = s ∧
      (∀ p ∈ t.preds, p.line = m.key / 128 → p.st ≠ 1) ∧
      (s.waitHolds (s.arm u).st = true → (t.arm u).st = .ready ∧ (∀ n, n ∈ t.monitors ↔ n ∈ s.monitors ∧ n ≠ m)) ∧
      (s.waitHolds (s.arm u).st = false → t.blocks = s.blocks ∧
        (room → ∀ n, n ∈ t.monitors ↔ (n ∈ s.monitors ∧ n ≠ m) ∨ n = { m with retry := false, fired := false }) ∧
        (¬ room → t.monitors = s.monitors))) ∧
  (∀ (s : State) (b i key : Nat),
    let k := s.block b
    let w := (k.sampleNext + i) % k.waves.length
    let v := s.wave b w
    let armB := v.b.isSome && v.a.st == .stopped
    let a := v.arm armB
    let head := k.sampctl.toNat / 2 ^ 32
    let at' := (k.sampbuf &&& 0x01FFFFFFFFFFF000#64) + BitVec.ofNat 64 (16 * (head % 2 ^ (8 + k.sampbuf.toNat % 16)))
    let issued := s.ran = some { b := b, w := w, armB := armB } ∧ a.lastIssue + 1 = s.ticks
    let w0 := if issued then 2 ^ 62 + s.ranPc.toNat % 2 ^ 57 else s.reasonOf b w armB * 2 ^ 57 + a.nextPc.toNat % 2 ^ 57
    let w1 := (s.timeOf k.die).toNat % 2 ^ 24 * 2 ^ 40 + (if armB then 2 ^ 36 else 0) + v.idx * 2 ^ 32 + (s.launch k.launch).seq.toNat
    b < s.blocks.length → k.st = .resident → k.sampctl.getLsbD 0 = true → k.sampbuf ≠ 0 → i < k.waves.length → v.done = false →
    (∀ j, j < i → (s.wave b ((k.sampleNext + j) % k.waves.length)).done = true) →
    s.engineKeys k.die (s.ctx (s.launch k.launch).ctx) ((at'.setWidth 57).signExtend 64) true 2 16 = .ok (span key 16) →
    key + 16 ≤ peerBit → s.memGood = true → (k.marksClk = s.ranClk → k.marks = []) →
    ∃ t, exec (.pcSample b) s = .next t ∧ BytesPut s t key (leBytes 8 w0 ++ leBytes 8 w1) ∧
      OnlyMemory s { t with blocks := s.blocks, tlb := s.tlb, walks := s.walks } ∧
      (∀ j, j ≠ b → t.block j = s.block j) ∧ { t.block b with sampctl := k.sampctl, sampleNext := k.sampleNext } = k ∧
      (t.block b).sampleNext = w + 1 ∧ (t.block b).sampctl.toNat = (head + 1) % 2 ^ 32 * 2 ^ 32 + k.sampctl.toNat % 2 ^ 32)

/-- A Sumac job waits while another holds its block's lock; else SUMAC_BLOCK_READ gives each lane its decoded element, recalls ownerships and fills the decoded line, or reports a bad block, SUMAC_BLOCK_WRITE takes the lock with the coded block, drops a pack of a block that is not raw, or reports, and BLOCK_WRITE_APPLY stores its bytes and map byte alone. In stage 3, HOST_DIRECT_ACCESS and PEER_REQUEST read, store or apply their atomic to plain device memory and clear its records, an unserved one of the host is logged, and a peer's waitge takes a monitor where the word is below its target; APERTURE_ACCESS stores an element into a raw block and clears the writer of its race record; HOST_LINE_INVALIDATION stores host bytes and leaves no line of them in an L1. PEER_RESPONSE_TIMEOUT ends one request, and FABRIC_LINK_DOWN every request and every wait over its port, with a report each; COLLECTIVE_CONTRIBUTION adds a row, and a full round writes its results. BANK_LOSS makes a bank of every codeword of its unit fail; PATROL_SCRUB corrects what one failing word of a codeword, or symbol of a burst, allows. The model's choices: an unserved PEER_REQUEST does nothing, its atomic's response may be lost, and a peer's EXPECT (log 21); the 3,840 monitors (log 19); two failing symbols or banks, and the unit numbers and place fields (log 34); the type 5 record's payload, and HOST_LINE_INVALIDATION (log 35); which line leaves a full L1 (log 10).
The codec: negabinary is the one form of 66 digits of weight (−2)^k, fwd4 loses nothing, and the bit planes read back. A block of zeros is one bit and a special one its header, which decodes to default NaNs; any other is the header with the greatest exponent E and planes that decode to each value cut to a whole multiple of 2^(E − 1084) and rounded. A zfixed block holds the first 16b bits of the stream, then zeros; a full zrev write reads back as itself, code 0 for zeros alone and raw for a NaN; a reserved code decodes to nothing.
(12_fp64_block_codec.md, 24_dies_host_and_devices.md, R230, R231, R247, R250, R254, R255, R256, R257, R424, R427) -/
def Obligations.BlocksAndOutsideAccesses : Prop :=
  ((∀ (s : State) (i : Nat) (j : Sumac), s.sumac.find? (fun y => y.id == i) = some j →
     let locked := ∃ y ∈ s.sumac, y.id ≠ i ∧ y.key = j.key ∧ (y.locked = true ∨ y.write = true ∧ y.out.isSome = true)
     let at' : BlockAt := { key := j.key, mapKey := j.mapKey }
     let gone := s.sumac.filter fun y => y.id != i
     let raw := ∃ m, j.mapKey = some m ∧ (s.byteAt m).toNat % 32 = 31
     let failed := fun (b w : Nat) (c : Nat) (t : State) => t.reports = s.reports ++
       [{ b := b, w := w, d := { cause := c, sub := 0, info := blockVa j.buf j.blk, site := j.site, seq := j.seq } }]
     (j.write = false → locked → exec (.sumacBlockRead i) s = .next s) ∧
     (∀ b w armB, j.write = false → ¬ locked → j.who = some (b, w, armB) → b < s.blocks.length → w < (s.block b).waves.length →
       let got := fun (t : State) (f : Sparse Word) => (t.wave b w).outst = (s.wave b w).outst.map fun z =>
         if z.id = j.res then
           { z with eff := { z.eff with v := z.eff.v ++ f }, kind := match z.kind with | .decode n => if n ≤ 1 then .plain else .decode (n - 1) | k => k }
         else z
       let rest := fun (t : State) => t.sumac = gone ∧ (∀ a, t.byteAt a = s.byteAt a) ∧
         (∀ b' w', { t.wave b' w' with outst := (s.wave b' w').outst } = s.wave b' w') ∧
         (∀ b' w', (b', w') ≠ (b, w) → t.wave b' w' = s.wave b' w')
       match s.blockValues j.buf at' with
       | .ok v => s.memGood = true → ∃ t, exec (.sumacBlockRead i) s = .next t ∧ rest t ∧ t.reports = s.reports ∧
         { t with blocks := s.blocks, cores := s.cores, sumac := s.sumac, zwbs := s.zwbs, preds := s.preds } = s ∧
         (∀ p ∈ t.preds, p.line = j.key / 128 ∨ (∃ m, j.mapKey = some m ∧ p.line = m / 128) → p.st ≠ 1) ∧
         got t ((j.lanes.map fun y => words true j.d y.1 (v.getD y.2 0)).flatten) ∧
         (∀ c, c ≠ j.core → t.core c = s.core c) ∧
         { t.core j.core with decoded := (s.core j.core).decoded, l1 := (s.core j.core).l1, l1Old := (s.core j.core).l1Old } = s.core j.core ∧
         (bufRace j.buf = false → ((blockVa j.buf j.blk).toNat, jobTag s j, s.storedBytes j.buf at', v) ∈ (t.core j.core).decoded)
       | .error c => ∃ t, exec (.sumacBlockRead i) s = .next t ∧ rest t ∧ failed b w c t ∧ got t [] ∧ t.cores = s.cores ∧
         OnlyMemory s { t with blocks := s.blocks, sumac := s.sumac, zwbs := s.zwbs, reports := s.reports, dev := s.dev, l2Lost := s.l2Lost }) ∧
     (j.write = true → j.out = none →
       (locked → exec (.sumacBlockWrite i) s = .next s) ∧
       (¬ locked → j.full = true → j.updates = [] → ¬ raw →
         ∃ t, exec (.sumacBlockWrite i) s = .next t ∧ t.sumac = gone ∧ { t with sumac := s.sumac, zwbs := s.zwbs } = s) ∧
       (¬ locked → (j.full = true → j.updates = [] → raw) →
         match s.blockCode j.buf at' j.blk j.full j.updates with
         | .ok z => s.memGood = true → ∃ t, exec (.sumacBlockWrite i) s = .next t ∧ { t with sumac := s.sumac, preds := s.preds } = s ∧
           t.sumac = s.sumac.map fun y => if y.id = i then { y with out := some z } else y
         | .error c => ∀ b w armB, j.who = some (b, w, armB) → ∃ t, exec (.sumacBlockWrite i) s = .next t ∧ t.sumac = gone ∧ failed b w c t ∧
           t.cores = s.cores ∧ (∀ a, t.byteAt a = s.byteAt a) ∧
           OnlyMemory s { t with sumac := s.sumac, zwbs := s.zwbs, reports := s.reports, dev := s.dev, l2Lost := s.l2Lost })) ∧
     (∀ l code d y, j.out = some (l, code, d, y) → bufErrs j.buf = 0 → (∀ m, j.mapKey = some m → m < j.key ∨ j.key + l.length ≤ m) →
       ∃ t, exec (.blockWriteApply i) s = .next t ∧ t.sumac = gone ∧ OnlyMemory s { t with sumac := s.sumac, zwbs := s.zwbs } ∧
         (∀ k, k < l.length → t.byteAt (j.key + k) = l.getD k 0) ∧ (∀ m, j.mapKey = some m → t.byteAt m = BitVec.ofNat 8 code) ∧
         ∀ a, (a < j.key ∨ j.key + l.length ≤ a) → j.mapKey ≠ some a → t.byteAt a = s.byteAt a)) ∧
   (∀ (s : State) (pa : Nat) (kind : BitVec 3) (wide : Bool) (data : List Byte) (cmp : DWord),
     let n := if kind.toNat ≤ 1 then data.length else if wide then 8 else 4
     let x := leNat (data.take n)
     let m := leNat (s.bytesAt pa n)
     let served := pa + n ≤ s.memSize ∧ s.badIn pa n = false ∧ (∀ g, pa < 65536 * (g + 1) → 65536 * g < pa + n → (s.dirByte (65536 * g)).getLsbD 6 = false) ∧
       kind.toNat ≤ 4 ∧ (2 ≤ kind.toNat → pa % n = 0)
     1 ≤ n → (s.dev.stage ≠ 3 → exec (.hostDirectAccess pa kind wide data cmp) s = .next s) ∧
     (s.dev.stage = 3 → served → ∃ t, exec (.hostDirectAccess pa kind wide data cmp) s = .next t ∧
       OnlyMemory s { t with dev := s.dev, l2Lost := s.l2Lost } ∧
       (kind = 0 → ∀ a, t.byteAt a = s.byteAt a) ∧ (kind = 1 → BytesPut s t pa data) ∧
       (2 ≤ kind.toNat → BytesPut s t pa (leBytes n
         (if kind = 2 then m + x else if kind = 3 then x else if m = cmp.toNat % 2 ^ (8 * n) then x else m))) ∧
       (∀ y ∈ t.sync, ∀ a, pa ≤ a → a < pa + n → y.1 ≠ a / 128) ∧
       (kind ≠ 0 → ∀ y ∈ t.race, ∀ a, pa ≤ a → a < pa + n → y.1 = a / 128 → y.2 &&& 0xFFFFFF00 = 0)) ∧
     (s.dev.stage = 3 → ¬ served → exec (.hostDirectAccess pa kind wide data cmp) s = .next (s.collect
       { type := 5, die := 8, place := 0, time := s.timeOf 8, payload := leBytes 8 pa ++ leBytes 1 kind.toNat }))) ∧
   (∀ (s : State) (pa : Nat) (kind : BitVec 4) (mode : Word) (data : List Byte) (cmp : DWord),
     let k := kind.toNat
     let et := mode.toNat / 8 % 32
     let n := if k ≤ 1 then data.length else if k = 11 then 8 else etBytes et
     let x : DWord := BitVec.ofNat 64 (leNat (data.take n))
     s.dev.stage = 3 → 1 ≤ n → s.outsideOk pa n = true → k ≤ 11 → (2 ≤ k → pa % n = 0) → (2 ≤ k → k ≤ 10 → atomType (k - 2) et = true) →
     ∃ t, exec (.peerRequest pa kind mode data cmp) s = .next t ∧
       OnlyMemory s { t with dev := s.dev, l2Lost := s.l2Lost, atomLog := s.atomLog, logOver := s.logOver } ∧
       (t.atomLog = s.atomLog ∧ t.logOver = s.logOver ∨
         2 ≤ k ∧ k ≤ 10 ∧ ((∃ y, t.atomLog = s.atomLog ++ [y] ∧ y.slice = s.lineSlice pa) ∨
           t.atomLog = s.atomLog ∧ sget 0 t.logOver (s.lineSlice pa) = sget 0 s.logOver (s.lineSlice pa) + 1)) ∧
       (k = 0 ∨ k = 11 → ∀ a, t.byteAt a = s.byteAt a) ∧ (k = 1 → BytesPut s t pa data) ∧
       (2 ≤ k → k ≤ 10 → BytesPut s t pa (leBytes n (atomNew (k - 2) et (mode.toNat / 256 % 8) (mode.getLsbD 12)
         (BitVec.ofNat 64 (leNat (s.bytesAt pa n))) (if k = 10 then BitVec.ofNat 64 (cmp.toNat % 2 ^ (8 * n)) else x) x).toNat)) ∧
       (k = 11 → s.memGood = true →
         (cmp.toNat ≤ leNat (s.bytesAt pa 8) → t.monitors = s.monitors) ∧
         (leNat (s.bytesAt pa 8) < cmp.toNat → (s.monitors.filter fun m => m.home == s.lineSlice pa && !m.retry).length < 3840 →
           ∃ m, t.monitors = s.monitors ++ [m] ∧ m.peer = some cmp ∧ m.key = pa ∧ m.line = pa / 128 ∧ m.retry = false ∧ m.fired = false))) ∧
   (∀ (s : State) (host : Bool) (win off len : Nat) (data : List Byte),
     let r := winRecord (s.window win)
     let j := (blockOf r (off / 8)).1
     let pos := (blockOf r (off / 8)).2
     let x := winBlock r j
     s.memGood = true →
     (∃ t, exec (.apertureAccess host win off false len data) s = .next t ∧ { t with preds := s.preds } = s) ∧
     (s.dev.stage = 3 → s.windowOk win off 8 = true → data.length = 8 → off % 8 = 0 → s.blockLocked x.key = false → bufEnc r = 3 → bufErrs r = 0 →
       (∀ m, x.mapKey = some m → s.byteAt m = 31 ∧ (m < x.key ∨ x.key + 128 ≤ m)) → (∀ i, i < 16 → isPadding r j i = false) →
       ∃ t, exec (.apertureAccess host win off true len data) s = .next t ∧ OnlyMemory s { t with raceBlk := s.raceBlk } ∧ BytesPut s t (x.key + 8 * pos) data ∧
           ∀ y, sget 0 t.raceBlk y = (if y = x.key then sget 0 s.raceBlk y &&& 0xFF else sget 0 s.raceBlk y))) ∧
   (∀ (s : State) (pa : Nat) (data : List Byte), ∃ t, exec (.hostLineInvalidation pa data) s = .next t ∧ OnlyMemory s t ∧
     BytesPut s t (hostBit + pa) data ∧
     ∀ c ∈ t.cores, ∀ a, hostBit + pa ≤ a → a < hostBit + pa + data.length → a / 128 ∉ c.2.l1 ∧ ∀ o ∈ c.2.l1Old, o.1 / 128 ≠ a / 128) ∧
   (∀ (s : State) (i : Nat) (q : PeerReq), s.peerReqs[i]? = some q →
     let more := s.peerReqs.any fun y => y.id != q.id && y.res == q.res
     ∃ t, exec (.peerResponseTimeout i) s = .next t ∧
     { t with blocks := s.blocks, peerReqs := s.peerReqs, reports := s.reports, peerMem := s.peerMem } = s ∧ (q.kind = 0 → t.peerMem = s.peerMem) ∧
     t.peerReqs = s.peerReqs.filter (fun y => y.id != q.id) ∧
     t.reports = s.reports ++ [{ b := q.b, w := q.w, d := { cause := if q.kind = 2 then 24 else 21, sub := 0, info := q.va, site := q.site, seq := q.seq } }] ∧
     (∀ b w, { t.wave b w with outst := (s.wave b w).outst } = s.wave b w) ∧ (∀ b w, (b, w) ≠ (q.b, q.w) → t.wave b w = s.wave b w) ∧
     (t.wave q.b q.w).outst = (s.wave q.b q.w).outst.map fun z =>
       if q.kind ≠ 1 ∧ z.id = q.res then
         { z with eff := { z.eff with v := z.eff.v.filter (fun y => y.1 % 1024 != q.lane), k := [] }
                  kind := if more then z.kind else match z.kind with | .peer _ => .plain | k => k }
       else z) ∧
   (∀ (s : State) (port : Nat),
     let cut := s.peerReqs.filter fun q => Config.fabricPort q.dev == port
     let waits : List Cursor := (s.monitors.filter fun m => m.peer.isNone && decide (peerBit ≤ m.key) && Config.fabricPort (m.key / peerBit - 1) == port).map
       fun m => ⟨m.b, m.w, m.armB⟩
     (16 ≤ port → exec (.fabricLinkDown port) s = .next s) ∧
     (port < 16 → (s.peerReqs.map (·.id)).Nodup → waits.Nodup → ∃ t, exec (.fabricLinkDown port) s = .next t ∧ port ∈ t.dev.linksDown ∧
       (∀ q, q ∈ t.peerReqs ↔ q ∈ s.peerReqs ∧ Config.fabricPort q.dev ≠ port) ∧
       t.reports = s.reports ++
         (cut.map fun q => { b := q.b, w := q.w, d := { cause := if q.kind = 2 then 24 else 21, sub := 0, info := q.va, site := q.site, seq := q.seq } }) ++
         (waits.map fun u => { b := u.b, w := u.w, d := { cause := 21, sub := 0, site := (s.arm u).pc - 8, seq := (s.launch (s.block u.b).launch).seq
                                                          info := match (s.arm u).st with | .waitge va _ _ _ => va | .fwait g q _ _ => (s.graph g).front + BitVec.ofNat 64 (128 * q) | _ => 0 } }) ∧
       (∀ u ∈ waits, u.b < s.blocks.length → u.w < (s.block u.b).waves.length → (u.armB = true → (s.wave u.b u.w).b.isSome = true) →
         t.arm u = { s.arm u with st := .ready, reason := 0, waited := 0 }) ∧
       (∀ m ∈ t.monitors, m.peer = none → (⟨m.b, m.w, m.armB⟩ : Cursor) ∉ waits) ∧
       (cut = [] → waits = [] → { t with dev := s.dev } = s))) ∧
   (∀ (s : State) (x n memb off : Nat) (row : List Word) (c : Coll), x < s.ctxs.length → (n, c) ∈ (s.ctx x).colls →
     (∀ y ∈ (s.ctx x).colls, y.1 = n → y = (n, c)) →
     let members := sget [] s.dev.groups c.group
     let now : Coll := { c with rows := c.rows ++ [(memb, off, row)] }
     let of' := fun m => now.rows.filter fun r => r.1 == m
     let expect := fun m => if m = s.dev.number then c.expect else max 1 (Config.memberExpect m n)
     let full := members ≠ [] ∧ ∀ m ∈ members, expect m ≤ (of' m).length
     let rows := (members.map fun m => (of' m).take (expect m)).flatten
     let left : Coll := if full then { now with rows := (members.map fun m => (of' m).drop (expect m)).flatten } else now
     let holds := fun (t : State) => (∀ y, y ≠ x → t.ctx y = s.ctx y) ∧
       t.ctx x = { s.ctx x with colls := (s.ctx x).colls.map fun y => if y.1 = n then (n, left) else y }
     (¬ full → ∃ t, exec (.collectiveContribution x n memb off row) s = .next t ∧ { t with ctxs := s.ctxs } = s ∧ holds t) ∧
     (∀ key, full → c.caddr = 0 → s.memGood = true → key + (now.results rows).length ≤ peerBit →
       s.engineKeys 8 (s.ctx x) c.result true ((now.results rows).length / 4096 + 2) (now.results rows).length = .ok (span key (now.results rows).length) →
       ∃ t, exec (.collectiveContribution x n memb off row) s = .next t ∧ OnlyMemory s { t with ctxs := s.ctxs } ∧ holds t ∧
         BytesPut s t key (now.results rows))) ∧
   (∀ (s : State) (unit bank off : Nat),
     let c := unit / 128 * 64 + unit % 128
     let l := (16 * (unit / 128) + (unit % 128 - 64)) * 9 + bank
     let logged := s.collect { type := 2, die := unit / 128, place := unit % 64 + 256 * (bank % 8), time := s.timeOf 8, payload := [] }
     let there := unit / 128 ∈ s.dies ∧ unit % 128 < 80 ∧ bank ≤ 8
     (¬ there → exec (.bankLoss unit bank) s = .next s) ∧
     (there → unit % 128 < 64 → ∃ t, exec (.bankLoss unit bank) s = .next t ∧
       { t with cores := s.cores } = (if (s.core c).lost.getLsbD bank then s else logged) ∧ (∀ y, y ≠ c → t.core y = s.core y) ∧
       { t.core c with lost := (s.core c).lost } = s.core c ∧ (∀ i, i < 9 → (t.core c).lost.getLsbD i = ((s.core c).lost.getLsbD i || decide (i = bank))) ∧
       ∀ a, bank ∈ (t.core c).failing a) ∧
     (there → 64 ≤ unit % 128 → exec (.bankLoss unit bank) s = .next (if l ∈ s.l2Lost then s else { logged with l2Lost := s.l2Lost ++ [l] })) ∧
     (unit < 1024 → unit % 128 < 64 → ∃ t, exec (.patrolScrub unit off) s = .next t ∧ { t with cores := s.cores, dev := s.dev } = s ∧
       (∀ a y, t.scrByte y a = s.scrByte y a) ∧ ((s.core c).failing off = [] ∨ 2 ≤ ((s.core c).failing off).length → t = s) ∧
       ∀ i, (s.core c).failing off = [i] → (s.core c).lost.getLsbD i = false →
         (t.core c).failing off = if (t.core c).lost.getLsbD i then [i] else []) ∧
     (1024 ≤ unit ∨ 64 ≤ unit % 128 → (s.badIn off 4 = true → exec (.patrolScrub unit off) s = .next s) ∧
       (s.badIn off 4 = false → s.l2Fail = [] → s.l2Lost = [] → ∃ t, exec (.patrolScrub unit off) s = .next t ∧
         { t with memFail := s.memFail, dev := s.dev } = s ∧
         ∀ y, y ∈ t.memFail ↔ y ∈ s.memFail ∧ (y / 32 * 64 + 64 ≤ off ∨ off + 4 ≤ y / 32 * 64))))) ∧
  (let digits := fun (u : Nat) => ((List.range 66).map fun k => if u.testBit k then (-2 : Int) ^ k else 0).sum
   let zeros := fun (x : List DWord) => ∀ v ∈ x, v.toNat % 2 ^ 63 = 0
   let special := fun (v : DWord) => v.toNat / 2 ^ 52 % 2048 = 2047
   let expo := fun (v : DWord) => max (v.toNat / 2 ^ 52 % 2048) 1
   (∀ v : Int, v.natAbs < 2 ^ 64 → negabinary v < 2 ^ 66 ∧ negaValue (negabinary v) = v ∧ digits (negabinary v) = v ∧
     ∀ u, u < 2 ^ 66 → digits u = v → u = negabinary v) ∧
   (∀ q : Quad, inv4 (fwd4 q) = q) ∧
   (∀ t, t < 16 → zOrder.getD t 16 < 16 ∧ zRank.getD (zOrder.getD t 16) 16 = t) ∧
   (∀ (u : List Nat) (tail : List Bool), u.length = 16 → (∀ x ∈ u, x < 2 ^ 66) → readPlanes 66 (planesFrom u 66 0 ++ tail) 0 (List.replicate 16 0) = u) ∧
   (∀ (e : Nat) (v : DWord),
     let m := v.toNat % 2 ^ 52 + if v.toNat / 2 ^ 52 % 2048 = 0 then 0 else 2 ^ 52
     let c := scaleIn e v
     c.natAbs * 2 ^ e ≤ m * 2 ^ (expo v + 9) ∧ m * 2 ^ (expo v + 9) < (c.natAbs + 1) * 2 ^ e ∧ if 2 ^ 63 ≤ v.toNat then c ≤ 0 else 0 ≤ c) ∧
   (∀ (x : List DWord) (tail : List Bool), x.length = 16 →
     (zeros x → encodeBits x = [false] ∧ decodeBits (encodeBits x ++ tail) = some (List.replicate 16 0)) ∧
     (¬ zeros x → (∃ v ∈ x, special v) → encodeBits x = List.replicate 12 true ∧
       decodeBits (encodeBits x ++ tail) = some (List.replicate 16 0x7FF8000000000000#64)) ∧
     (¬ zeros x → (¬ ∃ v ∈ x, special v) → ∃ e planes,
       (∃ v ∈ x, v.toNat % 2 ^ 63 ≠ 0 ∧ expo v = e) ∧ (∀ v ∈ x, v.toNat % 2 ^ 63 ≠ 0 → expo v ≤ e) ∧
       encodeBits x = true :: (List.range 11).map e.testBit ++ planes ∧
       decodeBits (encodeBits x ++ tail) =
         some (x.map fun v => dyToF64 (decide (scaleIn e v < 0)) (scaleIn e v).natAbs ((e : Int) - 1084)))) ∧
   (∀ (b : Nat) (x : List DWord), (encodeFixed b x).length = 2 * b ∧ decodeFixed (encodeFixed b x) = decodeBits (unpackBits (encodeFixed b x)) ∧
     ∀ t, t < 16 * b → ((encodeFixed b x).getD (t / 8) 0).getLsbD (t % 8) = (encodeBits x).getD t false) ∧
   (∀ (x : List DWord) (tail : List Byte), x.length = 16 →
     decodeRev (BitVec.ofNat 8 (encodeRev x).1) ((encodeRev x).2 ++ tail) = some x ∧ ((encodeRev x).1 ≤ 16 ∨ (encodeRev x).1 = 31) ∧
     ((encodeRev x).1 = 0 ↔ ∀ v ∈ x, v = 0) ∧ ((∃ v ∈ x, special v ∧ v.toNat % 2 ^ 52 ≠ 0) → (encodeRev x).1 = 31)) ∧
   ∀ (code : Byte) (slot : List Byte), 17 ≤ code.toNat → code.toNat ≠ 31 → decodeRev code slot = none)

/-- ARBITER_GRANT grants the first grantable entry in the order of class and age, or first a calibration of its stale bank. ARRAY_ENTRY_COMPLETE carries an entry out and removes it: a switch to memory mode frees its banks, one to compute mode loads their exponents and calibrates what is stale, and the arm goes on, but a bank lost meanwhile traps; an exact mmac adds to each tile element the dot product of its lane's aligned vector with the bank's column, rounded once and then added; mzero clears its tile; mdrain gives its result, the scratchpad or a collective the converted elements; mpack lays the columns out bit by bit; mcal makes its banks' calibration current, as it stays for 10 ms or while the hottest sensor is within 2.0 °C, and CALIBRATION_LAPSE asks for another of a compute bank whose calibration is not. COPY_CAPTURE keeps the parameter block's bytes or reports its page, and binds the cstat results that waited; COPY_COMPLETE of a valid copy writes every element of its box, to the scratchpad or to memory, one into the scratchpad adds to its counter too, and an invalid one reports COPY_PARAM. The model's choices are in it: how a gap is judged by the lengths of what the waiting entries wait for, that a calibration runs within the grant when the table is full, and when CALIBRATION_LAPSE asks (log 31); that FZ does not act in step 5 of R88 (log 39); when a cached leaf is used (log 11). A converted pass of R275 has a free deviation (log 8) and is not stated.
(R88, R219, R277, R281, R283, R284, R285, R286, R335, R336, R339, R341) -/
def Obligations.ArrayPassesAndCopies : Prop :=
  (∀ (s : State) (core : Nat),
    let l := (s.core core).arb
    let order := (l.filter fun x => x.cls == 0) ++ l.filter fun x => x.cls != 0
    let ahead := fun (x : ArbEntry) => l.filter fun y => !y.granted && y.before x && decide (y.id < x.id)
    (∀ x ∈ l, s.grantable core x = true → x.granted = false ∧
      (∀ y ∈ l, y.granted = true → y.banks &&& x.banks = 0 ∧ (x.id < y.id → y.cls < x.cls)) ∧
      (∀ y ∈ l, y.id < x.id → y.tiles &&& x.tiles = 0 ∧ (y.granted = false → y.isAmode = true → y.banks &&& x.banks = 0)) ∧
      (∀ y ∈ l, y.granted = false → y.before x = true → x.id < y.id → y.banks &&& x.banks = 0 ∨
        ∃ z ∈ l, z.granted = false ∧ z.isAmode = true ∧ x.id ≤ z.id ∧ z.id < y.id ∧ z.banks &&& y.banks ≠ 0) ∧
      (∀ y ∈ ahead x, y.waitsFor l = [] ∨ ∃ h ∈ y.waitsFor l, x.length ≤ h.length) ∧
      (∀ y, (ahead x).head? = some y → ∃ h ∈ y.waitsFor l, x.length ≤ h.length) ∧
      (x.isAmode = true → (∀ y ∈ l, x.id ≤ y.id) ∧ (∀ c ∈ (s.core core).copies, c.b = x.b → x.id ≤ c.id) ∧
        ∀ v ∈ (s.block x.b).waves, ∀ r ∈ v.outst, r.id ≤ x.id → r.kind ≠ .scratch ∧ ∀ n, r.kind ≠ .drain n)) ∧
    (∀ x ∈ l, x.granted = false → x.isAmode = false → (∀ y ∈ l, y.granted = false → y.before x = false) →
      (∀ y ∈ l, y.granted = true → y.banks &&& x.banks = 0 ∧ (x.id < y.id → y.cls < x.cls)) →
      (∀ y ∈ l, y.id < x.id → y.tiles &&& x.tiles = 0 ∧ (y.granted = false → y.isAmode = true → y.banks &&& x.banks = 0)) →
      s.grantable core x = true) ∧
    (order.find? (s.grantable core) = none → exec (.arbiterGrant core) s = .next s) ∧
    ∀ x, order.find? (s.grantable core) = some x →
      let started := l.map fun y => if y.id = x.id then { y with granted := true, hot := s.tj (core / 64) } else y
      (∀ tl b g rep r, x.op = .mmac tl b g rep r → rep ≠ 5 → s.current core b = false → l.length < 32 →
        ∃ t y, exec (.arbiterGrant core) s = .next t ∧ { t with cores := s.cores, nextId := s.nextId } = s ∧ (∀ c, c ≠ core → t.core c = s.core c) ∧
          t.core core = { s.core core with arb := l ++ [y] } ∧ y.op = .mcal (1#8 <<< b) ∧ y.granted = true ∧ y.length = 128 ∧ y.cls = 0 ∧
          y.banks = (1#8 <<< b).setWidth 9) ∧
      (∀ tl b g rep r, x.op = .mmac tl b g rep r → rep ≠ 5 → s.current core b = false → 32 ≤ l.length → (s.core core).scrFail = [] →
        ∃ t, exec (.arbiterGrant core) s = .next t ∧ { t with cores := s.cores } = s ∧ (t.core core).arb = started ∧ t.current core b = true) ∧
      ((∀ tl b g rep r, x.op = .mmac tl b g rep r → rep = 5 ∨ s.current core b = true) →
        ∃ t, exec (.arbiterGrant core) s = .next t ∧ { t with cores := s.cores } = s ∧ (∀ c, c ≠ core → t.core c = s.core c) ∧
          t.core core = { s.core core with arb := started })) ∧
  (∀ (s : State) (core i : Nat) (x : ArbEntry), (s.core core).arb.find? (fun y => y.id == i && y.granted) = some x →
    let k := s.block x.b
    let lanes := (List.range 1024).filter fun i => decide (i < (s.launch k.launch).lanes) && x.act.getLsbD i && decide (x.lanesDone ≤ i)
    let tile := fun (s : State) key => sget 0 (s.core core).tiles key
    let rest := fun (c : Core) => { c with arb := (s.core core).arb.filter fun y => y.id != i }
    let only := fun (t : State) => (∀ c, c ≠ core → t.core c = s.core c) ∧ (t.core core).arb = (s.core core).arb.filter fun y => y.id != i
    (∀ banks ww o, x.op = .amode banks false ww o → x.b < s.blocks.length → x.w < k.waves.length → (x.armB = true → (s.wave x.b x.w).b.isSome = true) →
      let u : Cursor := ⟨x.b, x.w, x.armB⟩
      ∃ t, exec (.arrayEntryComplete core i) s = .next t ∧ { t with cores := s.cores, blocks := s.blocks } = s ∧ PlacesKept s t u ∧ only t ∧
        t.arm u = { s.arm u with st := .ready, pc := (s.arm u).pc + 8, reason := 0, waited := 0 } ∧
        { t.wave x.b x.w with a := (s.wave x.b x.w).a, b := (s.wave x.b x.w).b } = s.wave x.b x.w ∧
        { t.core core with banks := (s.core core).banks } = rest (s.core core) ∧
        ∀ j, t.bank core j = if j < 8 ∧ banks.getLsbD j = true then { s.bank core j with compute := false } else s.bank core j) ∧
    (∀ banks ww o, x.op = .amode banks true ww o → x.b < s.blocks.length → x.w < k.waves.length → (x.armB = true → (s.wave x.b x.w).b.isSome = true) →
      (s.core core).scrFail = [] → (s.core core).lost = 0 →
      let u : Cursor := ⟨x.b, x.w, x.armB⟩
      ∃ t, exec (.arrayEntryComplete core i) s = .next t ∧ { t with cores := s.cores, blocks := s.blocks } = s ∧ PlacesKept s t u ∧ only t ∧
        t.arm u = { s.arm u with st := .ready, pc := (s.arm u).pc + 8, reason := 0, waited := 0 } ∧
        { t.wave x.b x.w with a := (s.wave x.b x.w).a, b := (s.wave x.b x.w).b } = s.wave x.b x.w ∧
        { t.core core with banks := (s.core core).banks } = rest (s.core core) ∧
        ∀ j, if j < 8 ∧ banks.getLsbD j = true then
            (∀ n, sget 0 (t.bank core j).exps n = if n < 2048 / ww then s.scrByte core (k.base + (256 * o + 1024 * j) + n) else 0) ∧
            { t.bank core j with exps := (s.bank core j).exps } =
              (if (s.bank core j).compute = true ∨ s.current core j = true then { s.bank core j with compute := true, ww := ww }
               else { s.bank core j with compute := true, ww := ww, calibrated := true, calTemp := some (BitVec.ofInt 16 (s.tj (core / 64))), calAt := s.raw })
          else t.bank core j = s.bank core j) ∧
    (∀ banks ww o, x.op = .amode banks true ww o → x.b < s.blocks.length → x.w < k.waves.length → (x.armB = true → (s.wave x.b x.w).b.isSome = true) →
      banks.setWidth 9 &&& (s.core core).lost ≠ 0 → TakesTraps s ⟨x.b, x.w, x.armB⟩ →
      ∃ t, exec (.arrayEntryComplete core i) s = .next t ∧ { t with cores := s.cores, blocks := s.blocks, sendReqs := s.sendReqs } = s ∧ only t ∧
        (∀ j, t.bank core j = s.bank core j) ∧ (t.arm ⟨x.b, x.w, x.armB⟩).pc = (s.launch k.launch).handler ∧
        (t.wave x.b x.w).status.getLsbD 8 = true ∧ (t.wave x.b x.w).fault1 = banks.setWidth 64 ∧
        (t.wave x.b x.w).fault0 = BitVec.ofNat 5 15 ++ 0#1 ++ 0#1 ++ (s.arm ⟨x.b, x.w, x.armB⟩).pc.setWidth 57) ∧
    (∀ tl, x.op = .mzero tl → ∃ t, exec (.arrayEntryComplete core i) s = .next t ∧ { t with cores := s.cores } = s ∧ only t ∧
      { t.core core with tiles := (s.core core).tiles, badTiles := (s.core core).badTiles, softTiles := (s.core core).softTiles } = rest (s.core core) ∧
      (∀ key, tile t key = if key / 8192 = tl then 0 else tile s key) ∧
      (∀ key, key ∈ (t.core core).softTiles ↔ key ∈ (s.core core).softTiles ∧ key / 8192 ≠ tl) ∧ ∀ key, key ∈ (t.core core).badTiles ↔ key ∈ (s.core core).badTiles ∧ key / 8192 ≠ tl) ∧
    (∀ tl bank gain rec', x.op = .mmac tl bank gain 5 rec' → (s.core core).scrFail = [] → (s.core core).lost = 0 → (s.core core).softTiles = [] →
      let ww := (s.bank core bank).ww
      let wx := modeET x.mode - 15
      let cols := 2048 / ww
      let byte := fun lane a => s.mxByte core (k.base + (recBase rec' + lane * (32 * wx + 8)) + a)
      let ee := fun lane m => (byte lane (32 * wx + m)).toNat
      let ex := fun lane => (List.range 8).foldl (fun a m => max a (ee lane m)) 0
      let img := fun lane m => leNat ((List.range (4 * wx)).map fun j => byte lane (4 * wx * m + j))
      let v := fun lane i => mantissaAt wx (img lane (i / 32)) (i % 32) / (2 ^ (min wx (ex lane - ee lane (i / 32))) : Int)
      let dot := fun lane n => (List.range 256).foldl (fun (a : Int) i => a + v lane i * weightAt (fun o => s.scrByte core (65536 * bank + o)) ww i n) 0
      let key := fun lane n => (tl + lane / 32 * (cols / 256) + n / 256) * 8192 + lane % 32 * 256 + n % 256
      let ew := fun n => (sget 0 (s.bank core bank).exps n).toNat
      let term := fun (lane n : Nat) =>
        if ex lane = 255 ∨ ew n = 255 then 0x7FC00000#64
        else BitVec.ofNat 64 (pack (fmtOf 8) (modeRM x.mode) (modeFZ x.mode) false false
          (.fin (decide (dot lane n < 0)) (dot lane n).natAbs ((ex lane : Int) + ew n - 254 - (wx - 1 : Nat) - (ww - 1 : Nat)))).1
      (ww = 2 ∨ ww = 4 ∨ ww = 8) → 2 ≤ wx → wx ≤ 8 →
      ∃ t, exec (.arrayEntryComplete core i) s = .next t ∧ { t with cores := s.cores, blocks := s.blocks } = s ∧ only t ∧
        { t.core core with tiles := (s.core core).tiles } = rest (s.core core) ∧
        (∀ lane ∈ lanes, ∀ n, n < cols → tile t (key lane n) =
          (fpAdd (fmtOf 8) (modeRM x.mode) false false ((tile s (key lane n)).setWidth 64) (term lane n)).1.setWidth 32) ∧
        (∀ a, (∀ lane ∈ lanes, ∀ n, n < cols → a ≠ key lane n) → tile t a = tile s a) ∧
        ∀ b w, { t.wave b w with status := (s.wave b w).status } = s.wave b w) ∧
    (∀ d tl cnt col zero slot offs, x.op = .mdrain d tl cnt col zero 0 slot offs → col + cnt ≤ 256 → x.b < s.blocks.length → (s.core core).softTiles = [] →
      let at' := fun lane j => (tl + lane / 32) * 8192 + lane % 32 * 256 + col + j
      let got := (lanes.map fun lane => (List.range cnt).map fun j =>
        ((d + j) * 1024 + lane, (drainValue ((s.launch k.launch).slots.getD slot 0) x.mode (tile s (at' lane j))).1.setWidth 32)).flatten
      ∃ t fl, exec (.arrayEntryComplete core i) s = .next t ∧ { t with cores := s.cores, blocks := s.blocks } = s ∧ only t ∧
        { t.core core with tiles := (s.core core).tiles } = rest (s.core core) ∧
        (∀ a, tile t a = if zero = true ∧ ∃ lane ∈ lanes, ∃ j, j < cnt ∧ a = at' lane j then 0 else tile s a) ∧
        (∀ b w, { t.wave b w with outst := (s.wave b w).outst } = s.wave b w) ∧
        (t.wave x.b x.w).outst = (s.wave x.b x.w).outst.map fun o =>
          if o.kind = .drain x.id then { o with kind := .scratch, eff := { o.eff with v := o.eff.v ++ got, flags := o.eff.flags ||| fl } } else o) ∧
    (∀ d tl cnt col zero slot offs, x.op = .mdrain d tl cnt col zero 1 slot offs → (s.core core).scrFail = [] → (s.core core).softTiles = [] →
      (s.launch k.launch).racing = false →
      let desc := (s.launch k.launch).slots.getD slot 0
      let size := etBytes (slotFmt desc)
      let row := fun lane => (tl + lane / 32) * 8192 + lane % 32 * 256
      let dst := fun lane => k.base + (sget 0 offs lane).toNat
      ∃ t fl, exec (.arrayEntryComplete core i) s = .next t ∧ { t with cores := s.cores, blocks := s.blocks } = s ∧ only t ∧
        { t.core core with tiles := (s.core core).tiles, scratch := (s.core core).scratch } = rest (s.core core) ∧
        (∀ lane ∈ lanes, ∀ q, q < 256 * size → (∀ y ∈ lanes, lane < y → dst lane + q < dst y ∨ dst y + 256 * size ≤ dst lane + q) →
          t.scrByte core (dst lane + q) =
            BitVec.ofNat 8 ((drainValue desc x.mode (tile s (row lane + q / size))).1.toNat / 2 ^ (8 * (q % size)))) ∧
        (∀ a, (∀ lane ∈ lanes, a < dst lane ∨ dst lane + 256 * size ≤ a) → t.scrByte core a = s.scrByte core a) ∧
        (∀ a, tile t a = if zero = true ∧ ∃ lane ∈ lanes, row lane ≤ a ∧ a < row lane + 256 then 0 else tile s a) ∧
        (∀ b w, { t.wave b w with status := (s.wave b w).status } = s.wave b w) ∧
        (x.b < s.blocks.length → x.w < k.waves.length → (t.wave x.b x.w).status = (s.wave x.b x.w).status ||| fl)) ∧
    (∀ d tl cnt col zero slot offs, x.op = .mdrain d tl cnt col zero 2 slot offs → (s.core core).softTiles = [] →
      let desc := (s.launch k.launch).slots.getD slot 0
      let row := fun lane => (tl + lane / 32) * 8192 + lane % 32 * 256
      let given := fun (z : State) (lane : Nat) =>
        match exec (.collectiveContribution (s.launch k.launch).ctx ((sget 0 offs lane).toNat / 2 ^ 24) s.dev.number ((sget 0 offs lane).toNat % 2 ^ 24)
          ((List.range 256).map fun j => (drainValue desc x.mode (tile s (row lane + j))).1.setWidth 32)) z with | .next y => y | _ => z
      let y := lanes.foldl given s
      ∃ t, exec (.arrayEntryComplete core i) s = .next t ∧ { t with cores := y.cores, blocks := y.blocks } = y ∧
        (∀ c, c ≠ core → t.core c = y.core c) ∧
        { t.core core with tiles := (s.core core).tiles } = { y.core core with arb := (s.core core).arb.filter fun e => e.id != i, tiles := (s.core core).tiles } ∧
        (∀ a, tile t a = if zero = true ∧ ∃ lane ∈ lanes, row lane ≤ a ∧ a < row lane + 256 then 0 else tile s a) ∧
        ∀ b w, { t.wave b w with status := (s.wave b w).status } = s.wave b w) ∧
    (∀ bank src, x.op = .mpack bank src → (s.core core).scrFail = [] → (s.core core).lost = 0 → (s.launch k.launch).racing = false →
      let ww := modeET x.mode - 15
      let cols := 2048 / ww
      2 ≤ ww → ww ≤ 8 →
      ∃ t, exec (.arrayEntryComplete core i) s = .next t ∧ { t with cores := s.cores, blocks := s.blocks } = s ∧ only t ∧
        { t.core core with scratch := (s.core core).scratch } = rest (s.core core) ∧
        (∀ o j, o < 65536 → j < 8 → (t.scrByte core (65536 * bank + o)).getLsbD j =
          let c := o % 256 * 8 + j
          let z := o / 256 * ww + c / cols
          (s.mxByte core (k.base + src + 32 * ww * (c % cols) + z / 8)).getLsbD (z % 8)) ∧
        (∀ a, a < 65536 * bank ∨ 65536 * (bank + 1) ≤ a → t.scrByte core a = s.scrByte core a) ∧
        ∀ b w, { t.wave b w with status := (s.wave b w).status } = s.wave b w) ∧
    (∀ banks, x.op = .mcal banks → ∃ t, exec (.arrayEntryComplete core i) s = .next t ∧ { t with cores := s.cores, dev := s.dev } = s ∧ only t ∧
      ∀ j, t.bank core j = if j < 8 ∧ banks.getLsbD j = true then
        { s.bank core j with calibrated := true, calTemp := some (BitVec.ofInt 16 (s.tj (core / 64))), calAt := s.raw } else s.bank core j)) ∧
  (∀ (s : State) (core bank : Nat),
    let k := s.bank core bank
    let user := fun (b : Nat) => b < s.blocks.length ∧ (s.block b).resident = true ∧ (s.block b).core = core ∧ (s.launch (s.block b).launch).arrays = true
    let asked := (∃ b, user b) ∧ s.current core bank = false ∧ k.compute = true ∧ (s.core core).calRun bank = false ∧ (s.core core).arb.length < 32
    (s.current core bank = true ↔ k.calibrated = true ∧
      (s.raw < k.calAt + 1000000 ∨ ∃ t, k.calTemp = some t ∧ (s.tj (core / 64) - t.toInt).natAbs ≤ 8)) ∧
    (¬ asked → exec (.calibrationLapse core bank) s = .next s) ∧
    (asked → ∃ t y, exec (.calibrationLapse core bank) s = .next t ∧ { t with cores := s.cores, nextId := s.nextId } = s ∧
      (∀ c, c ≠ core → t.core c = s.core c) ∧ t.core core = { s.core core with arb := (s.core core).arb ++ [y] } ∧
      y.op = .mcal (1#8 <<< bank) ∧ y.cls = 0 ∧ y.granted = false ∧ y.length = 128)) ∧
  (∀ (s : State) (core i : Nat) (c : Copy), (s.core core).copies.find? (fun y => y.id == i && y.block.isNone) = some c →
    let cx := s.ctx (s.launch (s.block c.b).launch).ctx
    (∀ x key, s.translate (core / 64) cx c.ka false false = .ok x → flatPage x = none → s.place x.pa x.host = .mem key → s.badIn key 128 = false →
      ∃ t, exec (.copyCapture core i) s = .next t ∧
        { t with cores := s.cores, blocks := s.blocks, dev := s.dev, memFail := s.memFail, l2Fail := s.l2Fail, l2Lost := s.l2Lost, preds := s.preds
                 tlb := s.tlb, walks := s.walks } = s ∧ (∀ p ∈ t.preds, p.line = key / 128 → p.st ≠ 1) ∧
        (∀ j, j ≠ core → t.core j = s.core j) ∧ { t.core core with copies := (s.core core).copies, pcache := (s.core core).pcache } = s.core core ∧
        (t.core core).copies = (s.core core).copies.map (fun y => if y.id = i then { y with block := some (s.bytesAt key 128) } else y) ∧
        (∀ b w, { t.wave b w with outst := (s.wave b w).outst } = s.wave b w) ∧
        ∀ w, ∀ r ∈ (s.wave c.b w).outst, ∀ a, r.kind = .cstat a → t.allCaptured core c.b r.id = true →
          { r.add { k := [(r.kd, t.copySnapshot core c.b r.id a)] } with kind := .plain } ∈ (t.wave c.b w).outst) ∧
    (∀ e, (s.translate (core / 64) cx c.ka false false = .error e ∨
        ∃ x, s.translate (core / 64) cx c.ka false false = .ok x ∧ flatPage x = some e) → (∃ v ∈ (s.block c.b).waves, v.done = false) →
      ∃ t, exec (.copyCapture core i) s = .next t ∧ { t with cores := s.cores, blocks := s.blocks, reports := s.reports } = s ∧
        (t.core core).copies = (s.core core).copies.filter (fun y => y.id != i) ∧
        t.reports = s.reports ++ [{ b := c.b, w := c.w, d := { cause := e.1, sub := e.2, info := c.ka, site := c.site
                                                               seq := (s.launch (s.block c.b).launch).seq } }])) ∧
  (∀ (s : State) (core i : Nat) (c : Copy) (p : List Byte), (s.core core).copies.find? (fun y => y.id == i) = some c → c.block = some p →
    s.copyReady core c = true → (∃ v ∈ (s.block c.b).waves, v.done = false) → c.b < s.blocks.length → s.memGood = true →
    c.progress = 0 → c.busy = false → c.fault = none →
    let n := s.launch (s.block c.b).launch
    let cx := s.ctx n.ctx
    let x := tensorOf p
    let dst := fun q => (s.block c.b).base + x.obase.toNat + x.dense q
    let counted := fun (t : State) =>
      (x.caddr = 0 → ∀ a, t.byteAt a = s.byteAt a) ∧
      (∀ key, x.caddr ≠ 0 → s.engineKeys 8 cx x.caddr false 2 8 = .ok (span key 8) → s.engineKeys 8 cx x.caddr true 2 8 = .ok (span key 8) →
        BytesPut s t key (leBytes 8 (leNat (s.bytesAt key 8) + x.cinc.toNat)))
    let gone := (s.core core).copies.filter fun y => y.id != i
    (∀ key : List Nat → Nat, x.valid (s.allocation (s.block c.b)) = true → x.dir = 0 → n.racing = false → (s.core core).scrFail = [] → (s.core core).lost = 0 →
      (∀ j, (s.bank core j).compute = false) →
      (x.caddr = 0 ∨ (∃ k, s.engineKeys 8 cx x.caddr false 2 8 = .ok (span k 8) ∧ s.engineKeys 8 cx x.caddr true 2 8 = .ok (span k 8)) ∧
        ∃ y k, s.translate (core / 64) cx x.caddr true false = .ok y ∧ flatPage y = none ∧ s.place y.pa y.host = .mem k) →
      TablesSettled s cx (fun va => va = x.caddr ∨ ∃ q ∈ positions x.box, va = x.address q) (fun _ => False) →
      (∀ q ∈ positions x.box, x.clipped q = false → s.copyKey (core / 64) cx (x.address q) false = .ok (key q) ∧ key q < peerBit) →
      ∃ t, exec (.copyComplete core i) s = .next t ∧ t.blocks = s.blocks ∧ t.reports = s.reports ∧ counted t ∧ (t.core core).copies = gone ∧
        (∀ q ∈ positions x.box, ∀ j, j < x.size → t.scrByte core (dst q + j) =
          if x.clipped q then (leBytes x.size x.fill.toNat).getD j 0 else s.byteAt (key q + j)) ∧
        ∀ a, (∀ q ∈ positions x.box, a < dst q ∨ dst q + x.size ≤ a) → t.scrByte core a = s.scrByte core a) ∧
    (∀ src dst : List Nat → Nat, x.valid (s.allocation (s.block c.b)) = true → x.dir = 1 ∨ x.dir = 2 → x.caddr = 0 →
      (s.core core).scrFail = [] → (s.core core).lost = 0 → (∀ j, (s.bank core j).compute = false) →
      let put := fun q => q ∈ positions x.box ∧ (x.dir = 1 ∨ x.clipped q = false)
      let out := fun q => if x.dir = 1 then x.obase + BitVec.ofNat 64 (x.dense q) else x.address q
      (∀ q, put q → s.copyKey (core / 64) cx (out q) true = .ok (dst q) ∧ dst q + x.size ≤ peerBit) →
      (∀ q, put q → x.dir = 1 → x.clipped q = false → s.copyKey (core / 64) cx (x.address q) false = .ok (src q) ∧ src q < peerBit) →
      (∀ q r, put q → put r → (q ≠ r → dst q + x.size ≤ dst r ∨ dst r + x.size ≤ dst q) ∧
        (x.dir = 1 → src q + x.size ≤ dst r ∨ dst r + x.size ≤ src q)) →
      TablesSettled s cx (fun va => ∃ q, put q ∧ (va = out q ∨ va = x.address q)) (fun a => ∃ q, put q ∧ dst q ≤ a ∧ a < dst q + x.size) →
      ∃ t, exec (.copyComplete core i) s = .next t ∧ t.blocks = s.blocks ∧ t.reports = s.reports ∧ (t.core core).copies = gone ∧
        (∀ q, put q → ∀ j, j < x.size → t.byteAt (dst q + j) = if x.clipped q then (leBytes x.size x.fill.toNat).getD j 0
          else if x.dir = 1 then s.byteAt (src q + j) else s.scrByte core (dst q + j)) ∧
        (∀ a, (∀ q, put q → a < dst q ∨ dst q + x.size ≤ a) → t.byteAt a = s.byteAt a) ∧ ∀ a, t.scrByte core a = s.scrByte core a) ∧
    (x.valid (s.allocation (s.block c.b)) = false → x.caddr = 0 →
      ∃ t, exec (.copyComplete core i) s = .next t ∧ { t with cores := s.cores, blocks := s.blocks, reports := s.reports } = s ∧
        (t.core core).copies = gone ∧ t.block c.b = { s.block c.b with copyFaults := min 65535 ((s.block c.b).copyFaults + 1) } ∧
        t.reports = s.reports ++ [{ b := c.b, w := c.w, d := { cause := 25, sub := 0, info := c.ka, site := c.site, seq := n.seq } }]))

/-- BATCH_FULL and BATCH_TIMER close a batch into pieces of at most 64 deltas, in order; BATCH_APPLY applies the core's oldest closed batch that fits, whole: each count moves by its deltas and never below zero, and the words that now differ are due. INBOX_DELIVERY marks the entry; after either event every pending entry that has arrived, whose +1 is applied and that no earlier one of its sender keeps back, is shown and its inbox's TAIL counts it, and a single one is written at the ring's TAIL with its header. FRONTIER_WORD_WRITE writes GEN + 1, the announced timestamps, their number and OVF, or posts a record. CREDIT_GRANT gives all of a send's credits, none beyond an inbox's free places, or waits, and lends them likewise to another device. EXTERNAL_RECORD_TAKE advances XHEAD and applies a record's capability change, of either kind, or sends its entry, here with a credit or to the port's owner; it waits for a credit, and for a record. In a shared graph REMOTE_ENTRY_ARRIVAL uses a lent credit and makes an entry pending with its +1, SEND_ACKNOWLEDGE ends one send, FRONTIER_TOKEN merges the local frontiers and passes the token on once no send is unacknowledged, and FRONTIER_DECLARE shows the declared frontiers. Nothing else changes. The model's choices are in it (log 22): an unwritable frontier word posts a record with INFO its address and GEN stays; how the rotation restarts; SEND_ACKNOWLEDGE names a send by its place; credits that other devices hold are held here, and a remote port's are taken as granted at the sender.
(R353, R356, R357, R358, R360, R361, R363, R364, R431, R432) -/
def Obligations.ChannelEvents : Prop :=
  (∀ (s : State) (core g : Nat) (x : Batch), s.openBatches.find? (fun y => y.core == core && y.graph == g) = some x →
    let closed := fun (i : Instr) => ∃ t l, exec i s = .next t ∧ { t with openBatches := s.openBatches, closedBatches := s.closedBatches } = s ∧
      t.openBatches = s.openBatches.filter (fun y => !(y.core == core && y.graph == g)) ∧ t.closedBatches = s.closedBatches ++ l ∧
      (∀ y ∈ l, y.core = core ∧ y.graph = g ∧ y.deltas ≠ [] ∧ y.deltas.length ≤ 64) ∧ (l.map (·.deltas)).flatten = x.deltas
    x.core = core → x.graph = g → closed (.batchTimer core g) ∧ (64 ≤ x.deltas.length → closed (.batchFull core g)) ∧
      (x.deltas.length < 64 → exec (.batchFull core g) s = .next s)) ∧
  (∀ (c : List (Nat × DWord × Nat)) (p p' : Nat) (t t' : DWord) (d : Int),
    countOf (countAdd c p t d) p' t' = if p' = p ∧ t' = t then ((countOf c p t : Int) + d).toNat else countOf c p' t') ∧
  (∀ (s : State) (core : Nat) (x : Batch), s.closedBatches.find? (fun y => y.core == core) = some x →
    (s.entries.map (·.id)).Pairwise (· < ·) → (s.batchFits x = false → s.entries = [] → exec (.batchApply core) s = .next s) ∧
    (s.batchFits x = true → x.graph < s.graphs.length →
      ∃ t, exec (.batchApply core) s = .next t ∧
        { t with closedBatches := s.closedBatches, graphs := s.graphs, entries := s.entries, blocks := s.blocks, cores := s.cores, dev := s.dev } = s ∧
        EntriesShown s t (s.entries.map fun e => if x.deltas.any fun d => d.entry == some e.id then { e with applied := true } else e) ∧
        (s.entries = [] → t.blocks = s.blocks ∧ t.cores = s.cores ∧ t.dev = s.dev) ∧
        (∃ l r, s.closedBatches = l ++ x :: r ∧ (∀ y ∈ l, y.core ≠ core) ∧ t.closedBatches = l ++ r) ∧
        (∀ g, g ≠ x.graph → t.graph g = s.graph g) ∧
        { t.graph x.graph with counts := (s.graph x.graph).counts, dirty := (s.graph x.graph).dirty } = s.graph x.graph ∧
        (t.graph x.graph).counts = x.deltas.foldl (fun c d => countAdd c d.port d.ts d.add) (s.graph x.graph).counts ∧
        ∀ q, q ∈ (t.graph x.graph).dirty ↔ q < (s.graph x.graph).ports.length ∧
          (((t.graph x.graph).ann.getD q ([], false, 0)).1, ((t.graph x.graph).ann.getD q ([], false, 0)).2.1) ≠ (t.graph x.graph).shown q)) ∧
  (∀ (s : State) (e : Entry), e ∈ s.entries → e.arrived = false → (s.entries.map (·.id)).Pairwise (· < ·) →
    ∃ t, exec (.inboxDelivery e.id) s = .next t ∧ { t with entries := s.entries, blocks := s.blocks, cores := s.cores, dev := s.dev } = s ∧
      EntriesShown s t (s.entries.map fun y => if y.id = e.id then { y with arrived := true } else y)) ∧
  (∀ (s : State) (e : Entry), s.entries = [e] → e.arrived = false →
    (e.applied = false → exec (.inboxDelivery e.id) s = .next { s with entries := [{ e with arrived := true }] }) ∧
    (∀ b x, e.applied = true → e.cons = some b → b < s.blocks.length → (s.block b).inbox e.port = some x → (s.block b).saved = none →
      (s.launch (s.block b).launch).racing = false → (s.core (s.block b).core).scrFail = [] →
      (∀ w, ∀ r ∈ (s.wave b w).outst, r.kind ≠ .recv e.graph e.port) →
      let p := (s.graph e.graph).port e.port
      let a := (s.block b).base + (p.inbox + p.entryBytes * (x.tail % p.ring))
      let bytes := leBytes 8 e.ts.toNat ++ leBytes 2 e.chan ++ leBytes 2 (4 * e.payload.length) ++ leBytes 4 e.sender.toNat ++
        (e.payload.map fun w => leBytes 4 w.toNat).flatten
      ∃ t, exec (.inboxDelivery e.id) s = .next t ∧ { t with entries := s.entries, blocks := s.blocks, cores := s.cores } = s ∧ t.entries = [] ∧
        (∀ j, j < bytes.length → t.scrByte (s.block b).core (a + j) = bytes.getD j 0) ∧
        (∀ c j, c ≠ (s.block b).core ∨ j < a ∨ a + bytes.length ≤ j → t.scrByte c j = s.scrByte c j) ∧
        (∀ k, k ≠ b → t.block k = s.block k) ∧ { t.block b with inboxes := (s.block b).inboxes } = s.block b ∧
        (t.block b).inboxes = (s.block b).inboxes.map fun i => if i.port = e.port then { i with tail := i.tail + 1 } else i)) ∧
  (∀ (s : State) (g q : Nat), g < s.graphs.length →
    let h := s.graph g
    let gen := (h.ann.getD q ([], false, 0)).2.2
    let l := (h.shown q).1
    let va := h.front + BitVec.ofNat 64 (128 * q)
    let clean := { h with dirty := h.dirty.filter fun x => x != q }
    let bytes := leBytes 8 (gen + 1) ++ [BitVec.ofNat 8 l.length, if (h.shown q).2 then 1 else 0] ++ leBytes 6 0 ++
      ((List.range 8).map fun i => leBytes 8 (l.getD i 0xFFFFFFFFFFFFFFFF#64).toNat).flatten ++ leBytes 48 0
    (q ∉ h.dirty → exec (.frontierWordWrite g q) s = .next s) ∧
    (∀ key, q ∈ h.dirty → q < h.ann.length → s.memGood = true → key + 128 ≤ peerBit → s.engineKeys 8 (s.ctx h.ctx) va true 2 128 = .ok (span key 128) →
      ∃ t, exec (.frontierWordWrite g q) s = .next t ∧ OnlyMemory s { t with graphs := s.graphs } ∧ BytesPut s t key bytes ∧
        (∀ j, j ≠ g → t.graph j = s.graph j) ∧ { t.graph g with ann := h.ann } = clean ∧
        (∀ j, (t.graph g).ann.getD j ([], false, 0) = if j = q then (l, (h.shown q).2, gen + 1) else h.ann.getD j ([], false, 0))) ∧
    (∀ e, q ∈ h.dirty → s.engineKeys 8 (s.ctx h.ctx) va true 2 128 = .error e →
      exec (.frontierWordWrite g q) s = .next ((s.modGraph g fun _ => clean).post h.ctx { cause := e.1, sub := e.2, nowave := true, info := va }))) ∧
  (∀ (s : State) (g q n pos : Nat) (l : List Nat), s.grant g q n = some (l, pos) →
    l.length = n ∧ (∀ b ∈ l, b ∈ s.consumers g q) ∧ ∀ b, l.count b ≤ s.freePlaces g q b) ∧
  (∀ (s : State) (i : Nat) (r : SendReq), s.sendReqs[i]? = some r →
    let q := ((s.graph r.graph).edge r.chan).dst
    let given := fun (l : List (Option Nat)) => s.sendReqs.set i { r with granted := some l }
    (r.granted.isSome = true → exec (.creditGrant (.inl i)) s = .next s) ∧
    (r.granted = none → s.remotePort r.graph q = true → exec (.creditGrant (.inl i)) s = .next { s with sendReqs := given (List.replicate r.lanes none) }) ∧
    (r.granted = none → s.remotePort r.graph q = false →
      (s.grant r.graph q r.lanes = none → exec (.creditGrant (.inl i)) s = .next s) ∧
      ∀ l pos, s.grant r.graph q r.lanes = some (l, pos) → ∃ t, exec (.creditGrant (.inl i)) s = .next t ∧
        { t with sendReqs := s.sendReqs, graphs := s.graphs } = s ∧ t.sendReqs = given (l.map some) ∧
        t.graphs = (s.modGraph r.graph fun h => { h with rotation := sset 0 h.rotation q pos }).graphs)) ∧
  (∀ (s : State) (g chan n : Nat), g < s.graphs.length →
    let h := s.graph g
    let q := (h.edge chan).dst
    let mine := h.group.isSome = true ∧ chan < h.edges.length ∧ s.remotePort g q = false
    (¬ mine → exec (.creditGrant (.inr (g, chan, n))) s = .next s) ∧
    (mine → s.grant g q n = none → exec (.creditGrant (.inr (g, chan, n))) s = .next s) ∧
    ∀ l pos, mine → s.grant g q n = some (l, pos) → ∃ t, exec (.creditGrant (.inr (g, chan, n))) s = .next t ∧ { t with graphs := s.graphs } = s ∧
      (∀ j, j ≠ g → t.graph j = s.graph j) ∧ t.graph g = { h with rotation := sset 0 h.rotation q pos, lent := h.lent ++ l.map fun b => (chan, b) }) ∧
  (∀ (s : State) (g headKey recKey key : Nat),
    let h := s.graph g
    let c := s.ctx h.ctx
    let head := leNat (s.bytesAt headKey 8)
    let tail := leNat (s.bytesAt (headKey + 8) 8)
    let byte := fun o n => leNat (s.bytesAt (recKey + o) n)
    let port := byte 16 2
    let ts : DWord := BitVec.ofNat 64 (byte 24 8)
    let chan := byte 0 2
    let d := h.edge chan
    let q := d.dst
    let op := byte 4 1
    let taken := fun (t : State) => ∃ t', t' = { t with graphs := s.graphs, closedBatches := s.closedBatches, entries := s.entries, nextId := s.nextId } ∧
      OnlyMemory s t' ∧ BytesPut s t key (leBytes 8 (head + 1)) ∧ ∀ j, j ≠ g → t.graph j = s.graph j
    let waits := ∃ t, exec (.externalRecordTake g) s = .next t ∧ OnlyMemory s t ∧ ∀ a, t.byteAt a = s.byteAt a
    (h.xring = 0 ∨ s.stalled 1024 = true ∨ (∃ m ∈ s.agentMons, m.who = (g, 16) ∧ m.fired = false) → exec (.externalRecordTake g) s = .next s) ∧
    (h.xring ≠ 0 → s.stalled 1024 = false → (∀ m ∈ s.agentMons, m.who = (g, 16) → m.fired = true) → s.memGood = true → g < s.graphs.length →
      s.engineKeys 8 c (h.image + 32) false 2 16 = .ok (span headKey 16) → headKey + 16 ≤ peerBit →
      s.engineKeys 8 c (h.image + 32) true 2 8 = .ok (span key 8) → key + 8 ≤ peerBit →
      (tail ≤ head → waits) ∧
      (head < tail → tail ≤ head + 2 ^ h.xlog2n → (∀ x ∈ s.openBatches, ¬ (x.core = 1024 ∧ x.graph = g)) →
        s.engineKeys 8 c (h.xring + BitVec.ofNat 64 (320 * (head % 2 ^ h.xlog2n))) false 2 320 = .ok (span recKey 320) → recKey + 320 ≤ peerBit →
        (chan = 0xFFFF → op = 0 → ∃ t, exec (.externalRecordTake g) s = .next t ∧ OnlyMemory s t ∧ taken t) ∧
        (∀ add : Int, chan = 0xFFFF → port < h.ports.length → validAt (h.port port).depth ts = true →
          op = 1 ∧ add = 1 ∧ (∃ u n, (port, u, n) ∈ h.extCaps ∧ tsLe u ts = true) ∨ op = 2 ∧ add = -1 ∧ (∃ n, (port, ts, n) ∈ h.extCaps) →
          ∃ t, exec (.externalRecordTake g) s = .next t ∧ taken t ∧ t.entries = s.entries ∧ t.nextId = s.nextId ∧
            t.graph g = { h with extCaps := countAdd h.extCaps port ts add } ∧
            t.closedBatches = s.closedBatches ++ [{ core := 1024, graph := g, deltas := [{ port := port, ts := ts, add := add }] }]) ∧
        (∀ sent, chan < h.edges.length → chan ≠ 0xFFFF → op = 0 → byte 2 2 ≤ 256 → byte 2 2 % 4 = 0 → byte 2 2 ≤ 16 * (h.port q).plen →
          validAt (h.port d.src).depth (BitVec.ofNat 64 (byte 8 8)) = true →
          (∃ u n, (d.src, u, n) ∈ h.extCaps ∧ tsLe u (BitVec.ofNat 64 (byte 8 8)) = true) →
          (edgeSummary (h.port d.src).depth d).exact (BitVec.ofNat 64 (byte 8 8)) = some sent → validAt (h.port q).depth sent = true →
          (s.remotePort g q = true → ∃ t, exec (.externalRecordTake g) s = .next t ∧ taken t ∧ t.entries = s.entries ∧ t.closedBatches = s.closedBatches ∧
            t.graph g = { h with unacked := h.unacked ++ [{ chan := chan, b := 0xFFFF, w := 0xFFFF, id := s.nextId, ts := sent }]
                                 sentBack := h.sentBack || s.ownedBefore h q }) ∧
          (s.remotePort g q = false → s.consumers g q ≠ [] → s.grant g q 1 = none → waits) ∧
          ∀ b pos, s.remotePort g q = false → s.grant g q 1 = some ([b], pos) →
            ∃ t, exec (.externalRecordTake g) s = .next t ∧ taken t ∧ t.graph g = { h with rotation := sset 0 h.rotation q pos } ∧
              t.entries = s.entries ++ [{ graph := g, chan := 0xFFFF, port := q, cons := some b, ts := sent, sender := 0, core := 1024, b := 0xFFFF
                                          w := 0xFFFF, id := s.nextId
                                          payload := (List.range (byte 2 2 / 4)).map fun i => BitVec.ofNat 32 (byte (32 + 4 * i) 4) }] ∧
              t.closedBatches = s.closedBatches ++ [{ core := 1024, graph := g, deltas := [{ port := q, ts := sent, add := 1, entry := some s.nextId }] }])))) ∧
  (∀ (s : State) (g chan : Nat) (ts : DWord) (sender : Word) (payload : List Word) (b : Nat) (l r : List (Nat × Nat)),
    let h := s.graph g
    let q := (h.edge chan).dst
    (h.group = none ∨ (∀ y ∈ h.lent, y.1 ≠ chan) → exec (.remoteEntryArrival g chan ts sender payload) s = .next s) ∧
    (h.group.isSome = true → chan < h.edges.length → s.remotePort g q = false → h.lent = l ++ (chan, b) :: r → (∀ y ∈ l, y.1 ≠ chan) → b ∈ s.consumers g q →
      (∀ x ∈ s.openBatches, ¬ (x.core = 1025 ∧ x.graph = g)) → g < s.graphs.length →
      ∃ t, exec (.remoteEntryArrival g chan ts sender payload) s = .next t ∧
        { t with entries := s.entries, nextId := s.nextId, graphs := s.graphs, closedBatches := s.closedBatches } = s ∧
        t.entries = s.entries ++ [{ graph := g, chan := chan, port := q, cons := some b, ts := ts, sender := sender, payload := payload
                                    core := 1025, b := 0xFFFF, w := 0xFFFF, id := s.nextId }] ∧
        (∀ j, j ≠ g → t.graph j = s.graph j) ∧ t.graph g = { h with lent := l ++ r } ∧
        t.closedBatches = s.closedBatches ++ [{ core := 1025, graph := g, deltas := [{ port := q, ts := ts, add := 1, entry := some s.nextId }] }])) ∧
  (∀ (s : State) (g i round : Nat) (black : Bool) (chains : List (List DWord × Bool)), g < s.graphs.length →
    let h := s.graph g
    let becomes := fun (j : Instr) (h' : Graph) => exec j s = .next (s.modGraph g fun _ => h')
    let merged := fun (chains : List (List DWord × Bool)) => (List.range h.ports.length).map fun q => mergeChains (chains.getD q ([], false)) (h.frontier q)
    let due := fun (h' : Graph) => { h' with dirty := (List.range h'.ports.length).filter fun q =>
      ((h'.ann.getD q ([], false, 0)).1, (h'.ann.getD q ([], false, 0)).2.1) != h'.shown q }
    (h.unacked.length ≤ i → exec (.sendAcknowledge g i) s = .next s) ∧
    (i < h.unacked.length → h.token = none ∨ 2 ≤ h.unacked.length → becomes (.sendAcknowledge g i) { h with unacked := h.unacked.eraseIdx i }) ∧
    (∀ k, h.unacked.length = 1 → i = 0 → h.token = some k → becomes (.sendAcknowledge g i)
      { h with unacked := [], token := none, sentBack := false, passed := some { round := k.round, black := k.black || h.sentBack, chains := merged k.chains } }) ∧
    (h.group.isSome = true → becomes (.frontierDeclare g chains) (due { h with declared := chains })) ∧
    (h.group = none → exec (.frontierDeclare g chains) s = .next s ∧ exec (.frontierToken g round black chains) s = .next s) ∧
    (h.group.isSome = true → h.token = none → s.leads g = false →
      (h.unacked = [] → becomes (.frontierToken g round black chains)
        { h with sentBack := false, passed := some { round := round, black := black || h.sentBack, chains := merged chains } }) ∧
      (h.unacked ≠ [] → becomes (.frontierToken g round black chains) { h with token := some { round := round, black := black, chains := chains } })) ∧
    (h.group.isSome = true → h.token = none → s.leads g = true →
      let h' := if black then h else due { h with declared := chains }
      let start := h.ports.map fun _ => (([] : List DWord), false)
      (h.unacked ≠ [] → becomes (.frontierToken g round black chains) { h' with token := some { round := round + 1, black := false, chains := start } }) ∧
      (h.unacked = [] → becomes (.frontierToken g round black chains)
        { h' with sentBack := false, passed := some { round := round + 1, black := h.sentBack, chains := merged start } })))

/-- An engine's write to a writable range stores exactly its bytes, and its read answers them and recalls ownerships. A valid record at a queue's HEAD becomes a launch and HEAD advances. DISTRIBUTOR_ROUND, outside stage 3 nothing, starts a waiting gang where its core has room (waves at the entry with their arguments, a zeroed range, L1 emptied); else it counts the wait, promotes at the 16th, and asks a lower gang with what is lacking to stop. GANG_PROMOTION promotes after 16 rounds. TIME_SLICE_EXPIRY marks a placed gang of a sliced level. LAUNCH_COMPLETE, once every gang is done and nothing is on its way, adds to the counter and frees the graph, or posts why it cannot. DIE_STABLE ends the holds that wait for the die; OPERATING_POINT_IDLE_LOWER lowers a point to the highest that a resident launch asks for. Choices: the events and a descriptor's reading (logs 17, 24), the rate of rounds (log 9); for shape 0 where a gang is placed.
A save record holds the header, each wave's record and vector registers, and the scratchpad. SWAP_OUT writes a record of KIND 2, gives up the slots and keeps the range; GANG_STOP_COMPLETE, for every block of a stopped gang, writes a record of KIND 1 with the scratchpad and zeroes the range, ends warp-wide waits and yields at their instruction, drops monitors and send requests, and puts the gang among the waiting, promoted, or behind its level after a slice; GANG_RESTORE_COMPLETE brings a block (no arm in waitge or fwait) and its scratchpad back under a new residency. HANG_WATCHDOG posts a record of an arm's wait of the context's hang time and restarts its count. RESUME, RESUME_AT and END_LAUNCH do their command or answer why not; SHOOTDOWN removes translations, SHOOTDOWN_DONE answers, NOTIFICATION_HOLDOFF writes a due notification. Choices: the sub-layouts of the record (log 18), free counts of a stop, which the premises rule out (log 20), the events (log 17), rates (log 9), the order of a stopped gang (log 24), what a wave keeps (log 36).
(R162, R165, R172, R209, R210, R221, R383, R385, R397, R404, R405, R408) -/
def Obligations.LaunchEvents : Prop :=
  ((∀ (s : State) (c : Context) (va : DWord) (l : List Byte) (key : Nat), s.RangeAt c va true l.length key →
     ∃ t, s.ctxStore c va l = .ok t ∧ OnlyMemory s t ∧ BytesPut s t key l) ∧
   (∀ (s : State) (c : Context) (va : DWord) (n key : Nat), s.RangeAt c va false n key →
     s.ctxLoad c va n = .ok (s.bytesAt key n) ∧ { s.ctxFix c va n with preds := s.preds } = s) ∧
   (∀ (s : State) (x q kd kr key : Nat),
     let c := s.ctx x
     let at' := c.ccb + BitVec.ofNat 64 (1024 + 64 * q)
     let d := s.bytesAt kd 64
     let head := field d 16 8
     let l := s.bytesAt kr 512
     s.RangeAt c at' false 64 kd → field d 9 1 = 1 → queueOk d = true → head < field d 24 8 → field d 24 8 ≤ head + 2 ^ field d 8 1 →
     s.RangeAt c (BitVec.ofNat 64 (field d 0 8 + 512 * (head % 2 ^ field d 8 1))) false 512 kr → recordOk c l = true → field l 24 2 = 0 →
     field l 40 2 = 0xFFFF → s.RangeAt c (at' + 16) true 8 key → x < s.ctxs.length →
     let n := launchOf s x q head none l []
     BytesPut s (s.acceptQueue x q 1) key (leBytes 8 (head + 1)) ∧ (s.acceptQueue x q 1).launches = s.launches ++ [n] ∧
     OnlyMemory s { s.acceptQueue x q 1 with launches := s.launches, ctxs := s.ctxs, nextId := s.nextId } ∧
     (s.acceptQueue x q 1).ctx x = { c with ordinals := c.ordinals + 1 } ∧ n.entry.toNat = field l 0 8 ∧ n.handler.toNat = field l 8 8 ∧
     n.waves = field l 26 1 ∧ n.lanes = field l 28 2 ∧ n.octets = field l 30 1 ∧ n.pool = field l 31 1 ∧ n.granules = field l 32 1 ∧
     n.priority = field l 33 1 ∧ n.hint = field l 34 1 ∧ (n.arrays = true ↔ field l 42 1 = 1) ∧ n.seq = BitVec.ofNat 32 head ∧
     ∀ i, i < 16 → (n.args.getD i 0).toNat = field l (112 + 8 * i) 8) ∧
   (∀ (s : State) (l g a : Nat),
     let n := s.launch l
     let y := s.gang l g
     let core := y.die * 64 + 8 * y.y0 + y.x0
     let cores := (gangCores n y).map fun x => x.2
     let waits := s.modGang l g fun z => { z with waited := y.waited + 1, promoted := y.promoted || decide (15 ≤ y.waited) }
     let alone := s.dev.stage = 3 ∧ s.acceptAll = s ∧ (∀ k ∈ s.blocks, k.st ≠ .swapped) ∧ s.waitingGangs = [(l, g)] ∧ y.st = .waiting ∧ n.hint = 0 ∧ n.priority ≠ 0
     (s.dev.stage ≠ 3 → exec .distributorRound s = .next s) ∧
     (alone → ∀ c ∈ cores, s.roomOn n c = false →
       ((∀ c' ∈ cores, ∀ k ∈ s.onCore c', n.priority ≤ s.levelOfBlock k ∧ (s.gang k.launch k.gang).sliceDone = false) → exec .distributorRound s = .next waits) ∧
       (∀ k p, cores = [c] → s.onCore c = [k] → k.st = .resident → s.levelOfBlock k < n.priority → (s.gang k.launch k.gang).st = .placed →
         (s.gang k.launch k.gang).stopReq = false → s.gangPlaces k.launch k.gang = some p → s.roomAmong [] n = true →
         exec .distributorRound s = .next (waits.modGang k.launch k.gang fun z => { z with stopReq := true, behind := false, places := p }))) ∧
     (alone → n.shape = 0 → n.graph = none → 1 ≤ n.waves → s.roomOn n core = true → s.rangeFor core n = some a → l < s.launches.length → g < n.gangs.length →
       ∃ t k, exec .distributorRound s = .next t ∧ { t with blocks := s.blocks, launches := s.launches, cores := s.cores } = s ∧
         t.blocks = s.blocks ++ [k] ∧ (∀ c, c ≠ core → t.core c = s.core c) ∧ (t.core core).l1 = [] ∧ (t.core core).l1Old = [] ∧
         (t.core core).decoded = [] ∧
         t.gang l g = { y with
           st := .placed, blocks := y.blocks ++ [s.blocks.length], waited := 0, promoted := false, behind := false, sliceDone := false
           since := s.raw, late := 0, placedAt := s.ticks } ∧
         (∀ j, j ≠ g → t.gang l j = s.gang l j) ∧ { t.launch l with gangs := n.gangs } = n ∧ (∀ j, j ≠ l → t.launch j = s.launch j) ∧
         k.launch = l ∧ k.gang = g ∧ k.index = 0 ∧ k.die = y.die ∧ k.core = core ∧ k.vdie = y.vdie ∧ k.base = 4096 * a ∧ k.pool = n.pool ∧ k.st = .resident ∧
         k.waves.length = n.waves ∧
         (∀ i, i < n.waves → let v := k.waves.getD i {}
           v.idx = i ∧ v.octets = n.octets ∧ v.a.pc = n.entry ∧ v.a.mask = BitVec.ofNat 1024 (2 ^ n.lanes - 1) ∧ v.a.mode = 0 ∧ v.a.dmask = 0 ∧
           v.a.scope = 4 ∧ v.a.st = .ready ∧ v.a.lastIssue = s.ticks ∧ v.b = none ∧ v.stack = [] ∧ v.outst = [] ∧ v.status = 0 ∧ v.late = [] ∧ v.fault0 = 0 ∧
           v.fault1 = 0 ∧ v.exited = 0 ∧
           (∀ r, v.kreg r = if r < 16 then n.args.getD r 0 else 0) ∧ (∀ r i, v.vreg r i = 0) ∧ (∀ p, p ≠ 0 → v.preg p = 0)) ∧
         (∀ o, o < 4096 * n.granules → t.scrByte core (4096 * a + o) = 0) ∧
         ∀ c o, c ≠ core ∨ o < 4096 * a ∨ 4096 * (a + n.granules) ≤ o → t.scrByte c o = s.scrByte c o) ∧
     (let due := (y.st = .waiting ∨ y.st = .preempted) ∧ 16 ≤ y.waited ∧ y.promoted = false
      (due → exec (.gangPromotion l g) s = .next (s.modGang l g fun z => { z with promoted := true })) ∧ (¬ due → exec (.gangPromotion l g) s = .next s)) ∧
     (let runs := y.st = .placed ∧ n.priority ≠ 0 ∧ (s.ctx n.ctx).slices.getD (n.priority - 1) 0 ≠ 0
      (runs → exec (.timeSliceExpiry l g) s = .next (s.modGang l g fun z => { z with sliceDone := true })) ∧
      (¬ runs → exec (.timeSliceExpiry l g) s = .next s)) ∧
     (let past := l < s.launches.length ∧ n.done = false ∧ (∀ z ∈ n.gangs, z.st = .done) ∧ s.launchQuiet l = true
      let sent : State := { s with peerReqs := s.peerReqs.filter fun r => !(r.silent && (s.block r.b).launch == l) }
      (¬ past → exec (.launchComplete l) s = .next s) ∧
      (past → n.caddr = 0 ∨ (∃ k, s.RangeAt (s.ctx n.ctx) n.caddr false 8 k ∧ s.RangeAt (s.ctx n.ctx) n.caddr true 8 k) →
        ∃ t, exec (.launchComplete l) s = .next t ∧ OnlyMemory sent { t with launches := s.launches, graphs := s.graphs } ∧ (∀ j, j ≠ l → t.launch j = s.launch j) ∧
        t.launch l = { n with done := true } ∧
        (∀ j, t.graph j = if n.graph = some j ∧ (s.graph j).bound = some l ∧ j < s.graphs.length then { s.graph j with bound := none } else s.graph j) ∧
        (n.caddr = 0 → ∀ b, t.byteAt b = s.byteAt b) ∧
        ∀ k, n.caddr ≠ 0 → s.RangeAt (s.ctx n.ctx) n.caddr false 8 k → s.RangeAt (s.ctx n.ctx) n.caddr true 8 k →
          BytesPut s t k (leBytes 8 (leNat (s.bytesAt k 8) + n.cinc.toNat))) ∧
      (∀ e, past → n.graph = none → n.caddr ≠ 0 → s.translate 8 (s.ctx n.ctx) n.caddr true false = .error e →
        exec (.launchComplete l) s = .next ((sent.post n.ctx { cause := e.1, sub := e.2, nowave := true, seq := n.seq, queue := n.queue, info := n.caddr }).modLaunch l
          fun n => { n with done := true })))) ∧
   (∀ (s : State) (die : Nat),
     let most := ((s.blocks.filter fun k => k.die == die && (k.st == .resident || k.st == .swapped)).map fun k => (s.launch k.launch).hint).foldl max 0
     (die ∉ s.dev.unstable → exec (.dieStable die) s = .next s) ∧
     (die ∈ s.dev.unstable → ∃ t, exec (.dieStable die) s = .next t ∧ { t with dev := s.dev, launches := s.launches } = s ∧
       t.dev = { s.dev with unstable := s.dev.unstable.filter fun d => d != die } ∧
       t.launches = s.launches.map fun n => if die ∈ n.asked ∧ die ∉ n.released then { n with released := die :: n.released } else n) ∧
     (s.grantedOf die ≤ most → exec (.operatingPointIdleLower die) s = .next s) ∧
     (most < s.grantedOf die → ∃ t, exec (.operatingPointIdleLower die) s = .next t ∧ { t with dev := s.dev } = s ∧ t.grantedOf die = most ∧
       t.pointOf die = min most (s.pointOf die) ∧ { t.dev with granted := s.dev.granted, point := s.dev.point, unstable := s.dev.unstable } = s.dev ∧
       ∀ d, d ≠ die → t.pointOf d = s.pointOf d ∧ t.grantedOf d = s.grantedOf d))) ∧
  ((∀ (s : State) (b kind : Nat),
     let k := s.block b
     let n := s.launch k.launch
     let l := s.saveRecord b kind
     let f := field l
     let words := (n.lanes + 31) / 32
     let vec := fun (w : Nat) => ((k.waves.take w).map fun v => 1024 * v.octets * words).foldl (· + ·) 0
     let waves := k.waves.length
     k.claims.length ≤ 16 → (∀ v ∈ k.waves, v.pend.length ≤ 4 ∧ v.stack.length ≤ 16) →
     f 0 4 = 1 ∧ f 4 4 = l.length % 2 ^ 32 ∧ f 8 4 = n.seq.toNat ∧ f 12 1 = n.queue % 256 ∧ f 13 1 = n.priority % 256 ∧ f 14 1 = kind % 256 ∧ f 15 1 = waves % 256 ∧
     f 16 4 = (s.gang k.launch k.gang).number % 2 ^ 32 ∧ f 20 1 = k.index % 256 ∧ f 21 1 = k.die % 256 ∧ f 22 1 = k.core % 64 ∧
     f 23 1 = (if n.arrays then 1 else 0) ∧ f 24 2 = n.lanes % 2 ^ 16 ∧ f 26 1 = n.granules % 256 ∧ f 27 1 = k.pool % 256 ∧ f 28 1 = k.claims.length ∧
     (∀ i, i < k.claims.length → f (32 + 2 * i) 1 = (k.claims.getD i (0, 0)).1 % 256 ∧ f (33 + 2 * i) 1 = (k.claims.getD i (0, 0)).2 % 256) ∧
     f 64 8 = (s.timeOf k.die).toNat ∧
     (∀ w, w < waves → let v := s.wave b w; let o := 512 + 8192 * w
       f o 1 = v.stateCode ∧ f (o + 1) 1 = (if v.b.isSome then 1 else 0) ∧ f (o + 2) 1 = (if v.hnd then 1 else 0) ∧ f (o + 3) 1 = v.pend.length ∧
       f (o + 4) 1 = v.octets % 256 ∧ f (o + 5) 1 = v.stack.length ∧ f (o + 8) 4 = v.status.toNat ∧ f (o + 16) 8 = v.fault0.toNat ∧ f (o + 24) 8 = v.fault1.toNat ∧
       (∀ r, r < 64 → f (o + 32 + 8 * r) 8 = (v.kreg r).toNat) ∧ (∀ p, p < 7 → f (o + 544 + 128 * p) 128 = (v.preg (p + 1)).toNat) ∧
       f (o + 1440) 128 = v.exited.toNat ∧
       ∀ armB : Bool, (armB = true → v.b.isSome = true) → let a := v.arm armB; let q := o + 1568 + (if armB then 256 else 0)
         f q 8 = a.pc.toNat ∧ f (q + 8) 4 = a.mode.toNat ∧ f (q + 12) 1 = a.scope % 256 ∧
         f (q + 13) 1 = 1 + (if a.arrival.isSome then 2 else 0) + (if a.fence.isSome then 4 else 0) ∧ f (q + 32) 32 = a.dmask.toNat ∧ f (q + 64) 128 = a.mask.toNat ∧
         f (q + 192) 8 = (v.waitKind armB).1 ∧ (∀ i, i < 3 → f (q + 200 + 8 * i) 8 = ((v.waitKind armB).2.2.getD i 0) % 2 ^ 64)) ∧
     (∀ w r i, w < waves → r < 8 * (s.wave b w).octets → i < 32 * words → f (512 + 8192 * waves + vec w + 4 * (32 * words * r + i)) 4 = ((s.wave b w).vreg r i).toNat) ∧
     (kind ≠ 2 → ∀ o, o < 4096 * n.granules → f (512 + 8192 * waves + vec waves + o) 1 = (sget 0 (k.saved.getD {}).scratch o).toNat) ∧
     (n.arrays = false → n.graph = none → (k.saved.getD {}).copies = [] →
       l.length = 512 + 8192 * waves + vec waves + (if kind = 2 then 0 else 4096 * n.granules))) ∧
   (∀ (s : State) (b o len : Nat),
     let k := s.block b
     let x := (s.launch k.launch).ctx
     let plain := (∀ v ∈ k.waves, ∀ r ∈ v.outst, r.kind.bound = false) ∧ (∀ y ∈ (s.core k.core).arb, y.b ≠ b) ∧ k.savedArb = [] ∧ s.openBatches = []
     let l := (s.modBlock b fun k => { k with waves := k.waves.map Wave.settle }).saveRecord b 2
     (s.swappable b = false → exec (.swapOut b) s = .next s) ∧
     (s.swappable b = true → plain → s.placeRecords x false [b] (s.savedIn x) = some [(b, o, len)] →
       ∃ t, exec (.swapOut b) s = .next t ∧ OnlyMemory s { t with blocks := s.blocks } ∧ (∀ j, j ≠ b → t.block j = s.block j) ∧
         BytesPut s t ((s.ctx x).saveBase + o) l ∧
         (∀ w, { t.wave b w with status := (s.wave b w).status, late := (s.wave b w).late } = s.wave b w ∧
           (t.wave b w).status = (s.wave b w).status ||| (s.wave b w).lateFlags.setWidth 32 ∧ (t.wave b w).late = []) ∧
         { t.block b with waves := k.waves } = { k with st := .swapped, placed := s.ticks, save := some (o, l.length) })) ∧
   (∀ (s : State) (l g : Nat),
     let y := s.gang l g
     let n := s.launch l
     let base := (s.ctx n.ctx).saveBase
     let size := 4096 * n.granules
     let stops := y.st = .placed ∧ y.stopReq = true ∧ s.gangStopped l g = true
     let kept := fun (b : Nat) => ((s.core (s.block b).core).scratch.filter fun z => decide ((s.block b).base ≤ z.1) && decide (z.1 < (s.block b).base + size)).map
       fun z => (z.1 - (s.block b).base, z.2)
     let saved := fun (b : Nat) => { s.block b with
       waves := (s.block b).waves.map Wave.stop, savedArb := [], st := .preempted, saved := some { scratch := kept b }, coming := false }
     let rec' := fun (b : Nat) => (s.modBlock b fun _ => saved b).saveRecord b 1
     let plain := fun (p : Nat × Nat × Nat) => let k := s.block p.1
       p.1 < s.blocks.length ∧ k.launch = l ∧ k.st = .resident ∧ (∀ v ∈ k.waves, v.outst = []) ∧ (s.core k.core).arb = [] ∧ (s.core k.core).copies = [] ∧
       (rec' p.1).length ≤ p.2.2
     (¬ stops → exec (.gangStopComplete l g) s = .next s) ∧
     (stops → g < n.gangs.length → y.places.map (fun p => p.1) = y.blocks → y.blocks.Nodup → (∀ b ∈ y.blocks, ∀ b' ∈ y.blocks, (s.block b).core = (s.block b').core → b = b') →
       y.places.Pairwise (fun p q => p.2.1 + p.2.2 ≤ q.2.1 ∨ q.2.1 + q.2.2 ≤ p.2.1) → (∀ p ∈ y.places, plain p) → s.openBatches = [] → n.arrays = false →
       (∀ j ∈ s.blocks, j.coming = false) →
       ∃ t, exec (.gangStopComplete l g) s = .next t ∧
         { t with mem := s.mem, memFail := s.memFail, memBad := s.memBad, l2Fail := s.l2Fail, race := s.race, monitors := s.monitors, preds := s.preds
                  agentMons := s.agentMons, cores := s.cores, blocks := s.blocks, launches := s.launches, sendReqs := s.sendReqs, dev := s.dev, nextId := s.nextId } = s ∧
         t.dev = (if n.priority = 0 then { s.dev with outOfBand := 100 } else s.dev) ∧
         (∀ a, (∀ p ∈ y.places, a < base + p.2.1 ∨ base + p.2.1 + p.2.2 ≤ a) → t.byteAt a = s.byteAt a) ∧
         (∀ p ∈ y.places, let b := p.1; let k := s.block b
           (∀ j, j < (rec' b).length → t.byteAt (base + p.2.1 + j) = (rec' b).getD j 0) ∧
           { t.block b with waves := k.waves } =
             { k with savedArb := [], st := .preempted, saved := some { scratch := kept b }, coming := false, save := some (p.2.1, (rec' b).length) } ∧
           (∀ i, i < size → t.scrByte k.core (k.base + i) = 0) ∧ (∀ i, i < k.base ∨ k.base + size ≤ i → t.scrByte k.core i = s.scrByte k.core i) ∧
           ∀ w, { t.wave b w with a := (s.wave b w).a, b := (s.wave b w).b, status := (s.wave b w).status, late := (s.wave b w).late } = s.wave b w ∧
             (t.wave b w).status = (s.wave b w).status ||| (s.wave b w).lateFlags.setWidth 32 ∧ (t.wave b w).late = [] ∧
             (t.wave b w).b.isSome = (s.wave b w).b.isSome ∧
             ∀ armB : Bool, (armB = true → (s.wave b w).b.isSome = true) → let a := (s.wave b w).arm armB
               ((a.st = .ready ∨ (∃ va q d c, a.st = .waitge va q d c) ∨ (∃ h q i ts, a.st = .fwait h q i ts) ∨ (∃ ka h, a.st = .barw ka h)) → (t.wave b w).arm armB = a) ∧
               (((∃ z, a.st = .warp z) ∨ ∃ z, a.st = .yield z) → (t.wave b w).arm armB = { a with st := .ready })) ∧
         (∀ b ∉ y.blocks, t.block b = s.block b) ∧ (∀ c, (∀ b ∈ y.blocks, (s.block b).core ≠ c) → ∀ i, t.scrByte c i = s.scrByte c i) ∧
         (∀ m ∈ t.monitors, m.peer.isSome = true ∨ m.b ∉ y.blocks) ∧ (∀ r, r ∈ t.sendReqs ↔ r ∈ s.sendReqs ∧ r.b ∉ y.blocks) ∧
         (∀ j, j ≠ l → t.launch j = s.launch j) ∧ { t.launch l with gangs := n.gangs } = n ∧ (∀ j, j ≠ g → t.gang l j = s.gang l j) ∧
         t.gang l g = { y with st := .preempted, stopReq := false, sliceDone := false, waited := 0, promoted := !y.behind, places := []
                               late := if y.behind then s.nextId else 0 })) ∧
   (∀ (s : State) (l g b : Nat) (z : Saved),
     let y := s.gang l g
     let k := s.block b
     let n := s.launch k.launch
     let size := 4096 * n.granules
     y.blocks = [b] → b < s.blocks.length → (s.core k.core).copies.length ≤ 32 → (s.core k.core).arb.length ≤ 32 →
     (∀ m ∈ s.monitors, m.peer = none → m.b ≠ b) → k.restoring = true → k.saved = some z → k.savedArb = [] → z.copies = [] → n.arrays = false → n.graph = none →
     (∀ i e, (i, e) ∈ z.scratch → i < size) →
     (∀ v ∈ k.waves, v.b = none ∧ (∀ va a' tg c, v.a.st ≠ .waitge va a' tg c) ∧ ∀ g' q a' ts, v.a.st ≠ .fwait g' q a' ts) →
     ∃ t, exec (.gangRestoreComplete l g) s = .next t ∧ { t with blocks := s.blocks, cores := s.cores, launches := s.launches } = s ∧
       (g < (s.launch l).gangs.length → t.gang l g = { y with since := s.raw }) ∧ (∀ j, j ≠ b → t.block j = s.block j) ∧
       { t.block b with waves := k.waves } = { k with restoring := false, saved := none, save := none } ∧
       (swf 0 z.scratch = true → ∀ i, i < size → t.scrByte k.core (k.base + i) = sget 0 z.scratch i) ∧
       (∀ c i, c ≠ k.core ∨ i < k.base ∨ k.base + size ≤ i → t.scrByte c i = s.scrByte c i) ∧
       ∀ w, w < k.waves.length → { t.wave b w with epoch := (s.wave b w).epoch, res := (s.wave b w).res, a := (s.wave b w).a } = s.wave b w ∧
         { (t.wave b w).a with lastIssue := (s.wave b w).a.lastIssue } = (s.wave b w).a ∧
         ((s.wave b w).done = false → (t.wave b w).epoch = 0 ∧ (t.wave b w).a.lastIssue = s.ticks)) ∧
   (∀ (s : State) (b w : Nat) (armB : Bool),
     let k := s.block b
     let x := (s.launch k.launch).ctx
     let v := s.wave b w
     let id := waveId k.core v.slot v.res
     let watched := (s.ctx x).hang ≠ 0 ∧ (k.st = .resident ∨ k.st = .swapped) ∧ v.done = false ∧ (armB = true → v.b.isSome = true) ∧
       v.waitsNow armB = true ∧ s.participantHalted b w armB = false ∧ (s.ctx x).hang * 1000000 ≤ (v.arm armB).waited
     let posted := fun (n : Nat) => exec (.hangWatchdog b w armB) s = .next ((s.modWave b w fun v => v.modArm armB fun a => { a with waited := 0 }).post x
       { cause := 0, nowave := true, info := BitVec.ofNat 64 n, die := k.die })
     (¬ watched → exec (.hangWatchdog b w armB) s = .next s) ∧
     (watched →
       (∀ va a t cont, (v.arm armB).st = .waitge va a t cont → posted ((if cont.isSome then 2 else 1) * 2 ^ 60 + va.toNat % 2 ^ 57)) ∧
       (∀ g q a t, (v.arm armB).st = .fwait g q a t → posted (3 * 2 ^ 60 + id * 2 ^ 24 + q % 2 ^ 24)) ∧
       (∀ ka gen, (v.arm armB).st = .barw ka gen → posted (5 * 2 ^ 60 + id * 2 ^ 24 + ka.toNat % 2 ^ 24)) ∧
       (∀ q kd, (v.arm armB).st = .parked → v.recvPort armB = some (q, kd) → posted (4 * 2 ^ 60 + id * 2 ^ 24 + q % 2 ^ 24)) ∧
       (∀ p n, (v.arm armB).st = .claim p n → posted (6 * 2 ^ 60 + id * 2 ^ 24))) ∧
     ((v.arm armB).st = .ready → v.waitsNow armB = false)) ∧
   (∀ (s0 t1 u : State) (x kc : Nat),
     let c := s0.ctx x
     let s := s0.ctxFix c (c.ccb + 128) 64
     let l := s0.bytesAt kc 64
     let op := field l 30 1
     let seq := field l 0 8
     let queue := field l 20 1
     let go := fun (i : Instr) (result : Nat) (s' : State) => s'.ctxStore c (c.ccb + 168) (leBytes 4 result) = .ok t1 →
       t1.ctxStore c (c.ccb + 136) (leBytes 8 seq) = .ok u → exec i s0 = .next u
     let mine := if op = 2 then Instr.resumeAt x else if op = 3 then .endLaunch x else .resume x
     let freed := fun (t : State) (b w : Nat) => t.modWave b w fun v => { v with halted := false, a := { v.a with reason := 0 }, b := v.b.map fun a => { a with reason := 0 } }
     c.live = true → s0.RangeAt c (c.ccb + 128) false 64 kc → seq ≠ field l 8 8 →
     (op = 0 ∨ 3 < op → go mine 3 s) ∧
     (1 ≤ op → op ≤ 3 → s.launchNamed x (BitVec.ofNat 32 (field l 16 4)) queue = none → go mine 1 s) ∧
     (∀ n, s.launchNamed x (BitVec.ofNat 32 (field l 16 4)) queue = some n →
       (n < s.launches.length ∧ (s.launch n).ctx = x ∧ (s.launch n).seq = BitVec.ofNat 32 (field l 16 4) ∧ (s.launch n).queue = queue ∧ ∃ k ∈ s.blocks, k.launch = n) ∧
       (op = 3 → go mine 0 (s.endLaunch n) ∧ ((s.endLaunch n).launch n).ended = true ∧
         ∀ b, (s.block b).launch = n → (s.block b).st ≠ .done → ∀ w, w < (s.block b).waves.length → ((s.endLaunch n).wave b w).done = true) ∧
       (op = 1 ∨ op = 2 →
         (s.waveNamed n (field l 24 4) (field l 28 1) (field l 29 1) = none → go mine 1 s) ∧
         ∀ b w, s.waveNamed n (field l 24 4) (field l 28 1) (field l 29 1) = some (b, w) →
           let v := s.wave b w
           let arm := v.divided && field l 31 1 == 1
           (v.done = true ∨ v.halted = false → go mine 2 s) ∧
           (v.done = false → v.halted = true →
             (op = 1 → go mine 0 (freed s b w)) ∧
             (op = 2 → v.divided = true → 1 < field l 31 1 → go mine 1 s) ∧
             (op = 2 → v.divided = false ∨ field l 31 1 ≤ 1 → go mine 0 ((freed (s.dropSend ⟨b, w, arm⟩) b w).modWave b w fun v => v.modArm arm fun a =>
               { a with pc := BitVec.ofNat 64 (field l 32 8), dmask := 0, st := .ready, skipBp := false, skipAt := none, waited := 0 })))))) ∧
   (∀ (s : State) (x key kc : Nat), x < s.ctxs.length →
     let c := s.ctx x
     let l := s.bytesAt kc 64
     let seq := field l 0 8
     let first := field l 16 8
     let pages := field l 24 8
     (c.live = true → c.shootPending = false → s.RangeAt c (c.ccb + 64) false 64 kc →
       (seq = field l 8 8 → ∃ t, exec (.shootdown x) s = .next t ∧ { t with preds := s.preds } = s) ∧
       (seq ≠ field l 8 8 → (∃ i, 32 ≤ i ∧ i < 64 ∧ l.getD i 0 ≠ 0) ∨ first % 4096 ≠ 0 ∨ canonical (BitVec.ofNat 64 first) = false →
         exec (.shootdown x) s = .next (((s.ctxFix c (c.ccb + 64) 64).post x { cause := 3, sub := 5, nowave := true, info := BitVec.ofNat 64 first }).shootAnswer x (BitVec.ofNat 64 seq))) ∧
       (seq ≠ field l 8 8 → (∀ i, 32 ≤ i → i < 64 → l.getD i 0 = 0) → first % 4096 = 0 → canonical (BitVec.ofNat 64 first) = true →
         ∃ t, exec (.shootdown x) s = .next t ∧ { t with tlb := s.tlb, walks := s.walks, cores := s.cores, ctxs := s.ctxs, preds := s.preds } = s ∧
           (∀ y, y ∈ t.tlb ↔ y ∈ s.tlb ∧ ¬ (y.asid = c.asid ∧ (pages = 0 ∨ (y.va < first + pages * 4096 ∧ first < y.va + y.size)))) ∧
           (∀ y, y ∈ t.walks ↔ y ∈ s.walks ∧ ¬ (y.asid = c.asid ∧ (pages = 0 ∨
             (y.page * 2 ^ (12 + 9 * y.lvl) < first + pages * 4096 ∧ first < (y.page + 1) * 2 ^ (12 + 9 * y.lvl))))) ∧
           (∀ i, { t.core i with pcache := (s.core i).pcache } = s.core i) ∧
           (∀ y, y ≠ x → t.ctx y = s.ctx y) ∧ t.ctx x = { c with shootPending := true, shootSeq := BitVec.ofNat 64 seq })) ∧
     (let mine := fun (b : Nat) => (s.launch (s.block b).launch).ctx = x
      let still := ∀ u ∈ s.armsIn x (fun k => (k.st == .resident && !k.restoring) || k.st == .swapped), (∀ va k t c, (s.arm u).st ≠ .waitge va k t c) ∧
        (∀ g q k t, (s.arm u).st ≠ .fwait g q k t) ∧ ∀ m ∈ s.monitors, m.waits u = true → m.fired = false
      let quiet := (∀ r ∈ s.atomReqs, ¬ mine r.b) ∧ (∀ q ∈ s.peerReqs, mine q.b → q.silent = true) ∧
        (∀ j ∈ s.sumac, ∀ b w a, j.who = some (b, w, a) → ¬ mine b) ∧
        ∀ b w armB m, mine b → (s.block b).st ≠ .done → w < (s.block b).waves.length → (s.arm ⟨b, w, armB⟩).st ≠ .rehome m
      (¬ (c.shootPending = true ∧ quiet) → exec (.shootdownDone x) s = .next s) ∧
      (c.shootPending = true → quiet → (∀ q ∈ s.peerReqs, ¬ mine q.b) → still → s.RangeAt c (c.ccb + 72) true 8 key →
        ∃ t, exec (.shootdownDone x) s = .next t ∧ OnlyMemory s { t with ctxs := s.ctxs } ∧ BytesPut s t key (leBytes 8 c.shootSeq.toNat) ∧
          (∀ y, y ≠ x → t.ctx y = s.ctx y) ∧ t.ctx x = { c with shootPending := false } ∧ t.agentMons = [])) ∧
     (c.notifyDue = false → exec (.notificationHoldoff x) s = .next (s.modCtx x fun c => { c with notifyHeld := false })) ∧
     (c.notifyDue = true → s.RangeAt c c.ccb false 64 kc →
       (field l 40 8 = 0 → ∃ t, exec (.notificationHoldoff x) s = .next t ∧ { t with preds := s.preds } = s.modCtx x fun c => { c with notifyHeld := false, notifyDue := false }) ∧
       (field l 40 8 ≠ 0 → s.RangeAt c (BitVec.ofNat 64 (field l 40 8)) true 4 key →
         ∃ t, exec (.notificationHoldoff x) s = .next t ∧ OnlyMemory s { t with ctxs := s.ctxs } ∧ BytesPut s t key (slice l 48 4) ∧
           (∀ y, y ≠ x → t.ctx y = s.ctx y) ∧ t.ctx x = { c with notifyHeld := true, notifyDue := false }))))

/-- While a command is in progress set-up waits. Outside stage 3 a set-up command is answered BUSY and has no other effect; in stage 3 one whose arguments break a limit is refused, and otherwise CONTEXT_CREATE, CONTEXT_DESTROY, VIRTUAL_DIE_TABLE_SET, TIME_SLICE_SET, APERTURE_WINDOW_SET, DEVICE_NUMBER_SET, DEVICE_GROUP_REGISTER, IMPORT_WINDOW_SET, COLLECTIVE_REGISTER, HOME_OVERRIDE_CLEAR, ENCG_SET and GRAPH_REGISTER change exactly what they name; a context's times have their defaults where none is given, and its end ends its launches; an accepted graph image makes a graph with its ports, edges, summaries and ICAP counts, its XHEAD 0 and its frontier word written once. A mailbox command that is not waiting has no effect; in a stage that does not serve it, it is answered 2; refused, 1; otherwise STATUS, SET_THR, SET_POWER, DUMPREAD, DEBUGSET, LOGREAD, REPLAY, MONSET and MONREAD do what they name and are answered 0, an unassigned number 3. IMAGE_WRITE and RESTART begin, and are done at a later event; an IMAGE_WRITE is BUSY in stages 1 to 3 and while either is in progress; a RESTART in stage 3 ends every launch first. Choices of the model: set-up events answer the waiting commands 16 to 25 (log 17); the offsets of argument blocks, STATUS answering an unassigned number, FAILCODE 0 after RESTART, what a later answered command keeps (log 26); ordinals restart at 0 (log 23).
(R207, R351, R414, R416, R417, R424, R428, R438, R440, R441, R443, R450) -/
def Obligations.SetUpAndMailbox : Prop :=
  ∀ (s : State),
    let d := s.dev
    let waits := d.mbSeq ≠ d.mbDone ∧ d.job = none
    let answered := fun (r : Nat) (t : State) => { t with dev := { t.dev with mbResult := BitVec.ofNat 64 r, mbDone := t.dev.mbSeq } }
    let told := fun (r : Nat) (t : State) => if d.mbSeq ≠ d.mbDone ∧ 16 ≤ d.mbCmd.toNat ∧ d.mbCmd.toNat ≤ 25 then answered r t else t
    let setUp := fun (i : Instr) (ok : Prop) (t : State) =>
      (d.job ≠ none → exec i s = .next s) ∧ (d.job = none → (d.stage ≠ 3 → exec i s = .next (told 2 s)) ∧
        (d.stage = 3 → ¬ ok → exec i s = .next (told 1 s)) ∧ (d.stage = 3 → ok → exec i s = .next (told 0 t)))
    (∀ (number asid root : Nat) (rootHost : Bool) (ccb : DWord) (vdies : List Byte) (saveBase saveSize : Nat) (swap wait : Option Nat)
        (times : Option (List Nat)),
      let swapUs := swap.getD 50
      let hang := wait.getD 1000
      let slices := times.getD (List.replicate 7 1000)
      setUp (.contextCreate number asid root rootHost ccb vdies saveBase saveSize swap wait times)
        (number < 2 ^ 32 ∧ asid < 4096 ∧ (∀ c ∈ s.ctxs, c.live = true → c.asid ≠ asid ∧ c.number ≠ number) ∧ ccb.toNat % 4096 = 0 ∧
          ccb = (ccb.setWidth 57).signExtend 64 ∧ root % 4096 = 0 ∧ vdiesOk d.dieEn vdies = true ∧ saveBase % 4096 = 0 ∧ saveSize % 4096 = 0 ∧ saveBase + saveSize ≤ s.memSize ∧
          swapUs ≤ 1000000 ∧ hang ≤ 65535 ∧ slices.length = 7 ∧ ∀ n ∈ slices, n ≤ 65535)
        { s with ctxs := s.ctxs ++ [{ number := number, asid := asid, root := root, rootHost := rootHost, ccb := ccb, vdies := vdies,
                                      saveBase := saveBase, saveSize := saveSize, swapUs := swapUs, hang := hang, slices := slices }] }) ∧
    (∀ (x : Nat) (vdies : List Byte) (slices : List Nat),
      (d.job = none → d.stage = 3 → (s.ctx x).live = true → ∃ t, exec (.contextDestroy x) s = .next t ∧ (x < s.ctxs.length → (t.ctx x).live = false) ∧
        (∀ l, l < s.launches.length → (s.launch l).ctx = x → (s.launch l).done = false → (t.launch l).ended = true) ∧ ∀ e ∈ t.tlb, e.asid ≠ (s.ctx x).asid) ∧
      ((∀ n ∈ s.launches, n.ctx = x → n.done = true) → d.job = none → d.stage = 3 → (s.ctx x).live = true → ∃ t, exec (.contextDestroy x) s = .next (told 0 t) ∧
        { t with ctxs := s.ctxs, tlb := s.tlb, walks := s.walks, cores := s.cores } = s ∧ (∀ y, y ≠ x → t.ctx y = s.ctx y) ∧ t.ctx x = { s.ctx x with live := false } ∧
        (∀ e, e ∈ t.tlb ↔ e ∈ s.tlb ∧ e.asid ≠ (s.ctx x).asid) ∧ ∀ e, e ∈ t.walks ↔ e ∈ s.walks ∧ e.asid ≠ (s.ctx x).asid) ∧
      ((s.ctx x).live = false → d.job = none → d.stage = 3 → exec (.contextDestroy x) s = .next (told 1 s)) ∧
      setUp (.virtualDieTableSet x vdies) ((s.ctx x).live = true ∧ vdiesOk d.dieEn vdies = true ∧ ∀ n ∈ s.launches, n.ctx = x → n.done = true)
        (s.modCtx x fun c => { c with vdies := vdies }) ∧
      setUp (.timeSliceSet x slices) ((s.ctx x).live = true ∧ slices.length = 7 ∧ ∀ n ∈ slices, n ≤ 65535) (s.modCtx x fun c => { c with slices := slices })) ∧
    (∀ (win : Nat) (w0 w1 w2 w3 : DWord),
      setUp (.apertureWindowSet win w0 w1 w2 w3) (win < 64 ∧ (windowLegal w0 w1 w2 w3 = true ∨ (w0 = 0 ∧ w1 = 0 ∧ w2 = 0 ∧ w3 = 0)))
        { s with dev := { d with windows := sset [] d.windows win (if w1.getLsbD 63 then [w0, w1, w2, w3] else []) } }) ∧
    (∀ (n group : Nat) (members : List Nat),
      setUp (.deviceNumberSet n) (n < 2 ^ 20) { s with dev := { d with number := n } } ∧
      setUp (.deviceGroupRegister group members) (group < 2 ^ 32 ∧ 1 ≤ members.length ∧ members.length ≤ 1048576 ∧ (∀ m ∈ members, m < 2 ^ 20) ∧
          d.number ∈ members ∧ (d.groups.length < 64 ∨ group ∈ d.groups.map (·.1)))
        { s with dev := { d with groups := sset [] d.groups group members } }) ∧
    (∀ (i size dev peerPa : Nat), setUp (.importWindowSet i size dev peerPa) (i < 64 ∧ size ≤ 2 ^ 40 ∧ dev < 2 ^ 20)
      { s with dev := { d with imports := sset { size := 0, dev := 0, peerPa := 0 } d.imports i { size := size, dev := dev, peerPa := peerPa } } }) ∧
    (∀ (x coll : Nat) (w0 w1 w2 w3 w4 : DWord),
      let fmt := w1.toNat / 2 ^ 32 % 256
      let group := w2.toNat % 2 ^ 32
      let none' : Coll := { result := 0, nblk := 0, fmt := 0, group := 0, expect := 0, caddr := 0, cinc := 0 }
      setUp (.collectiveRegister x coll [w0, w1, w2, w3, w4, 0, 0, 0])
        ((s.ctx x).live = true ∧ coll < 256 ∧ w1.toNat < 2 ^ 40 ∧ w0 = (w0.setWidth 57).signExtend 64 ∧ (fmt = 8 ∨ fmt = 10 ∨ fmt = 11) ∧
          w0.toNat % (if fmt = 8 then 4 else 2) = 0 ∧ 1 ≤ w1.toNat % 2 ^ 32 ∧ w1.toNat % 2 ^ 32 ≤ 2 ^ 24 ∧ group ∈ d.groups.map (·.1) ∧ 1 ≤ w2.toNat / 2 ^ 32 ∧
          w3 = (w3.setWidth 57).signExtend 64 ∧ w3.toNat % 8 = 0)
        (let new : Coll := { result := w0, nblk := w1.toNat % 2 ^ 32, fmt := fmt, group := group, expect := w2.toNat / 2 ^ 32, caddr := w3, cinc := w4 }
         s.modCtx x fun k => { k with colls := sset none' k.colls coll new })) ∧
    (∀ (pa len x : Nat) (on : Bool), d.job = none → d.stage = 3 → pa + len ≤ s.memSize → 1 ≤ len →
      let inside := fun (g : Nat) => pa < 65536 * (g + 1) ∧ 65536 * g < pa + len
      let byte := fun (t : State) (g : Nat) => sget (0 : Byte) t.dev.homeDir g
      (s.memGood = true → ∃ t, exec (.homeOverrideClear pa len x) s = .next (told 0 t) ∧
        { t with dev := { t.dev with homeDir := d.homeDir }, preds := s.preds, monitors := s.monitors } = s ∧
        ∀ g, byte t g = if inside g ∧ (byte s g).getLsbD 7 = true then byte s g &&& 0x40#8 else byte s g) ∧
      (∃ t, exec (.encgSet pa len on) s = .next (told 0 t) ∧ { t with dev := { t.dev with homeDir := d.homeDir } } = s ∧
        ∀ g, byte t g = if inside g then (if on then byte s g ||| 0x40#8 else byte s g &&& 0xBF#8) else byte s g)) ∧
    (∀ (pa len x : Nat) (on : Bool) (i : Instr), i = .homeOverrideClear pa len x ∨ i = .encgSet pa len on →
      (d.job ≠ none → exec i s = .next s) ∧ (d.job = none → d.stage ≠ 3 → exec i s = .next (told 2 s)) ∧
      (d.job = none → d.stage = 3 → s.memSize < pa + len → exec i s = .next (told 1 s))) ∧
    (∀ (x : Nat) (image : DWord) (group : Option Nat) (place : List Nat),
      let t := s.registerGraph x image group place
      setUp (.graphRegister x image group place) ((s.ctx x).live = true ∧ s.graphs.length < t.graphs.length) t ∧
      ∀ k, s.RangeAt (s.ctx x) image false 64 k →
        let hd := s.bytesAt k 64
        let np := field hd 0 2
        let ne := field hd 2 2
        let len := 64 + 16 * np + 16 * ne
        let l := s.bytesAt k len
        let port := fun (i : Nat) => ({ depth := field l (64 + 16 * i) 1, plen := field l (65 + 16 * i) 1, log2e := field l (66 + 16 * i) 1
                                        inbox := field l (68 + 16 * i) 4, icap := field l (72 + 16 * i) 4 } : Port)
        let o := fun (i : Nat) => 64 + 16 * np + 16 * i
        let edge := fun (i : Nat) => ({ src := field l (o i) 2, dst := field l (o i + 2) 2, kind := field l (o i + 4) 1, vec := BitVec.ofNat 64 (field l (o i + 8) 8) } : Edge)
        let sums := (List.range np).map (summariesFrom ((List.range np).map port) ((List.range ne).map edge))
        let good := 1 ≤ np ∧ np ≤ 1024 ∧ ne ≤ 1024 ∧ s.RangeAt (s.ctx x) image false len k ∧ imageOk l = true ∧ s.placeOk group place np = true ∧
          identityCycle ((List.range np).map port) ((List.range ne).map edge) sums = false ∧ (∀ r ∈ sums, ∀ z ∈ r, z.length ≤ 4)
        ((np = 0 ∨ 1024 < np ∨ 1024 < ne ∨ field hd 32 8 ≠ 0 ∨ 2 ^ field hd 24 1 < field hd 40 8) → { t with preds := s.preds, peerMem := s.peerMem } = s) ∧
        (good → ∀ kx, s.RangeAt (s.ctx x) (image + 32) true 8 kx → x < s.ctxs.length → group = none →
          t.graphs.length = s.graphs.length + 1 ∧ (∀ j, j < s.graphs.length → t.graph j = s.graph j) ∧
          (let g := t.graph s.graphs.length
           g.ctx = x ∧ g.num = (s.graphs.filter fun h => h.ctx == x).length ∧ g.image = image ∧ g.ports = (List.range np).map port ∧
           g.edges = (List.range ne).map edge ∧ g.front.toNat = field hd 8 8 ∧ g.xring.toNat = field hd 16 8 ∧ g.xlog2n = field hd 24 1 ∧ g.sums = sums ∧
           g.bound = none ∧ g.group = none ∧ g.token = none ∧
           ∀ q ts n, (q, ts, n) ∈ g.counts ↔ ts = 0 ∧ q < np ∧ n = (port q).icap ∧ n ≠ 0) ∧
          (np = 1 → ne = 0 → ∀ kf, s.RangeAt (s.ctx x) (BitVec.ofNat 64 (field hd 8 8)) true 128 kf → kx + 8 ≤ kf ∨ kf + 128 ≤ kx →
            TablesSettled s (s.ctx x) (fun va => va = BitVec.ofNat 64 (field hd 8 8)) (fun a => kx ≤ a ∧ a < kx + 8) →
            (∀ i, i < 8 → t.byteAt (kx + i) = 0) ∧ (∀ a, a < kx ∨ kx + 8 ≤ a → a < kf ∨ kf + 128 ≤ a → t.byteAt a = s.byteAt a) ∧
            (let w := t.bytesAt kf 128
             let n := if (port 0).icap = 0 then 0 else 1
             field w 0 8 = 1 ∧ field w 8 1 = n ∧ field w 9 1 = 0 ∧ (∀ i, i < 8 → BitVec.ofNat 64 (field w (16 + 8 * i) 8) = if i < n then 0 else NONE) ∧
             ∀ i, 80 ≤ i → i < 128 → w.getD i 0 = 0)))) ∧
    (let a := s.bytesAt (hostBit + d.mbArg.toNat) 64
     let box := fun (i : Instr) (cmd : Nat) (stages : List Nat) (ok : Prop) (t : State) =>
       (¬ (d.powered = true ∧ waits ∧ d.mbCmd.toNat = cmd) → exec i s = .next s) ∧
       (d.powered = true → waits → d.mbCmd.toNat = cmd →
         (d.stage ∉ stages → exec i s = .next (answered 2 s)) ∧
         (d.stage ∈ stages → (2 ^ 56 < d.mbArg.toNat + 64 ∨ ¬ ok) → exec i s = .next (answered 1 s)) ∧
         (d.stage ∈ stages → d.mbArg.toNat + 64 ≤ 2 ^ 56 → ok → exec i s = .next (answered 0 t)))
     let v : DWord := BitVec.ofNat 64 (field a 8 8)
     let die := field a 0 8
     let p : DWord := BitVec.ofNat 64 (field a 0 8)
     (d.powered = true → waits → exec .status s = .next
       (if d.mbCmd = 1 then answered 0 s else if (2 ≤ d.mbCmd.toNat ∧ d.mbCmd.toNat ≤ 5) ∨ (16 ≤ d.mbCmd.toNat ∧ d.mbCmd.toNat ≤ 31) then s else answered 3 s)) ∧
     (let asks := fun (cmd : Nat) => d.powered = true ∧ d.mbSeq ≠ d.mbDone ∧ d.mbCmd.toNat = cmd ∧ (d.job.map fun j => j.seq) ≠ some d.mbSeq
      let ends := fun (j : Job) (t : State) => t.dev.job = none ∧
        (d.mbDone = d.mbSeq → t.dev.mbResult = d.mbResult ∧ t.dev.mbDone = d.mbDone) ∧ (d.mbDone ≠ d.mbSeq → t.dev.mbResult = 0 ∧ t.dev.mbDone = j.seq)
      let begun := fun (cmd : Nat) => ({ s with dev := { d with job := some { cmd := cmd, seq := d.mbSeq, args := a } } } : State)
      (asks 2 → d.stage ≠ 0 ∨ d.job ≠ none → exec .imageWrite s = .next (answered 2 s)) ∧
      (asks 2 → d.stage = 0 → d.job = none →
        (d.mbArg.toNat + 64 ≤ 2 ^ 56 ∧ field a 8 8 + field a 16 8 ≤ 2 ^ 26 ∧ field a 0 8 + field a 16 8 ≤ 2 ^ 56 → exec .imageWrite s = .next (begun 2)) ∧
        (2 ^ 56 < d.mbArg.toNat + 64 ∨ 2 ^ 26 < field a 8 8 + field a 16 8 ∨ 2 ^ 56 < field a 0 8 + field a 16 8 → exec .imageWrite s = .next (answered 1 s))) ∧
      (¬ asks 2 → (∀ j, d.job = some j → j.cmd ≠ 2) → exec .imageWrite s = .next s) ∧
      (∀ j, ¬ asks 2 → d.job = some j → j.cmd = 2 → field j.args 8 8 + field j.args 16 8 ≤ 2 ^ 26 → field j.args 0 8 + field j.args 16 8 ≤ 2 ^ 56 →
        (d.hold = true ∨ d.failCode ≠ 1 → ∃ t, exec .imageWrite s = .next t ∧ ends j t ∧
          { t with dev := { t.dev with slot := d.slot, job := d.job, mbResult := d.mbResult, mbDone := d.mbDone } } = s ∧ ∀ i, t.imageByte i =
            if field j.args 8 8 ≤ i ∧ i < field j.args 8 8 + field j.args 16 8 then s.byteAt (hostBit + field j.args 0 8 + (i - field j.args 8 8)) else s.imageByte i) ∧
        (d.hold = false → d.failCode = 1 → (∃ i, i < field j.args 16 8 ∧ s.byteAt (hostBit + field j.args 0 8 + i) ≠ 0) →
          ∃ t, exec .imageWrite s = .next t ∧ ends j t ∧ t.dev.stage = 1 ∧ t.dev.failCode = 0 ∧ ∀ i, i < field j.args 16 8 →
            t.imageByte (field j.args 8 8 + i) = s.byteAt (hostBit + field j.args 0 8 + i))) ∧
      (asks 3 → d.job = none → 2 ^ 56 < d.mbArg.toNat + 64 ∨ 2 ≤ field a 0 1 ∨ (∃ i, 1 ≤ i ∧ i < 64 ∧ a.getD i 0 ≠ 0) → exec .restart s = .next (answered 1 s)) ∧
      ((d.job = none → ¬ asks 3) → (∀ j, d.job = some j → j.cmd ≠ 3) → exec .restart s = .next s) ∧
      (∀ j : Job, (asks 3 ∧ d.job = none ∧ d.mbArg.toNat + 64 ≤ 2 ^ 56 ∧ field a 0 1 < 2 ∧ (∀ i, 1 ≤ i → i < 64 → a.getD i 0 = 0) ∧ j = { cmd := 3, seq := d.mbSeq, args := a }) ∨
          (d.job = some j ∧ j.cmd = 3 ∧ j.stopped = false) →
        (d.stage = 3 → s.openLaunches ≠ [] → ∃ t, exec .restart s = .next t ∧ t.dev.stage = 3 ∧ t.dev.job = some j ∧ t.dev.mbDone = d.mbDone ∧
          ∀ l ∈ s.openLaunches, (t.launch l).ended = true) ∧
        (d.stage ≠ 3 ∨ s.openLaunches = [] → ∃ t, exec .restart s = .next t ∧ t.dev.stage = 0 ∧ t.dev.failCode = 0 ∧ (t.dev.hold = true ↔ field j.args 0 1 = 1) ∧
          t.dev.job = some { j with stopped := true } ∧ t.dev.mbDone = d.mbDone ∧ t.ctxs = [] ∧ t.blocks = [] ∧ t.launches = [] ∧ t.dev.slot = d.slot ∧
          t.dev.dump = d.dump ∧ (d.dump = true → t.dev.dumpMem = d.dumpMem) ∧ ∀ b, t.byteAt b = if hostBit ≤ b then s.byteAt b else 0)) ∧
      (∀ j, d.job = some j → j.cmd = 3 → j.stopped = true → ∃ t, exec .restart s = .next t ∧ ends j t ∧ t.dev.slot = d.slot ∧
        (d.hold = true → { t with dev := { t.dev with job := d.job, mbResult := d.mbResult, mbDone := d.mbDone } } = s) ∧
        (d.hold = false → d.slot = [] → t.dev.stage = 0 ∧ t.dev.failCode = 1) ∧ (d.hold = false → d.slot ≠ [] → t.dev.stage = 1 ∧ t.dev.failCode = 0))) ∧
     (d.stage ≤ 3 → box .setThr 4 [0, 1, 2, 3] (die ≤ 8 ∧ (die = 8 ∨ d.dieEn.getLsbD die = true) ∧ (v.extractLsb' 0 16).toInt < (v.extractLsb' 16 16).toInt ∧
         (v.extractLsb' 16 16).toInt < (v.extractLsb' 32 16).toInt ∧ (v.extractLsb' 32 16).toInt ≤ 0x1F4)
       { s with dev := { d with thr := sset thrReset d.thr die ((s.thrOf die &&& 0x0003000000000000#64) ||| (v &&& 0xFFFFFFFFFFFF#64)) } }) ∧
     box .setPower 5 [3] (1000 ≤ p.toNat % 2 ^ 16 ∧ p.toNat % 2 ^ 16 ≤ 4000 ∧
         (p.toNat / 2 ^ 16 % 2 ^ 16 = 0 ∨ (1000 ≤ p.toNat / 2 ^ 16 % 2 ^ 16 ∧ p.toNat / 2 ^ 16 % 2 ^ 16 ≤ p.toNat % 2 ^ 16)))
       { s with dev := { d with pctl := p &&& 0x1FFFFFFFF#64 } } ∧
     (∀ (pa : Nat) (l : List Byte), pa + l.length ≤ 2 ^ 56 → ∃ t, s.hostPut pa l = some t ∧ OnlyMemory s t ∧ BytesPut s t (hostBit + pa) l) ∧
     (∀ t, s.hostPut (field a 0 8) (slice d.dumpMem (field a 8 8) (field a 16 8)) = some t →
       box .dumpread 26 [3] (d.dump = true ∧ field a 8 8 + field a 16 8 ≤ 2 ^ 26) t) ∧
     (s.ctxNumbered (field a 0 4) = none → box .debugset 27 [3] False s) ∧
     (s.ctxNumbered (field a 0 4) = none ∨ 2 < field a 4 1 → box .replay 29 [3] False s) ∧
     (∀ t, s.replaySet a = some t → box .replay 29 [3] True t) ∧
     (∀ x, s.ctxNumbered (field a 0 4) = some x →
       box .debugset 27 [3] (∀ i, i < 4 → BitVec.ofNat 64 (field a (8 + 8 * i) 8) &&& 0xFE00000000000002#64 = 0#64)
         (s.modCtx x fun c => { c with debug := decide (field a 4 1 % 2 = 1), bps := (List.range 4).map fun i => BitVec.ofNat 64 (field a (8 + 8 * i) 8) }) ∧
       (d.powered = true → waits → d.mbCmd = 29 → d.stage = 3 → d.mbArg.toNat + 64 ≤ 2 ^ 56 → field a 4 1 ≤ 2 →
         ∃ t, exec .replay s = .next (answered 0 t) ∧ (t.ctx x).replayMode = field a 4 1 ∧ (t.ctx x).replayVa = BitVec.ofNat 64 (field a 8 8) ∧
           (t.ctx x).replayBytes = field a 16 8 ∧ (t.ctx x).ordinals = 0 ∧ t.blocks = s.blocks ∧
           ∀ r ∈ t.atomReqs, s.reqCtx r = x → r.held = false)) ∧
     (∀ t u, let all := s.collectorAll
       let n := min all.length (field a 8 8)
       s.hostPut (field a 0 8) ((all.take n).map CollRec.bytes).flatten = some t → t.hostPut (d.mbArg.toNat + 16) (leBytes 8 n) = some u →
       box .logread 28 [3] True { u with dev := { u.dev with collector := d.collector.drop n, dropped := if d.collector.length < n then 0 else d.dropped } }) ∧
     (let key := field a 0 1 * 64 + field a 1 1
      let old : MonUnit := sget {} d.units key
      let kept : MonUnit := if 2 ≤ field a 5 1 then {} else old
      let new : MonUnit := { kept with
        src := field a 2 1, log2 := decide (field a 3 1 = 1), shift := field a 4 1, en := decide (field a 5 1 % 2 = 1 ∧ field a 2 1 ≠ 0)
        sel := field a 6 2, base := (BitVec.ofNat 32 (field a 8 4)).toInt }
      box .monset 30 [3] (monOk d.dieEn a = true) { s with dev := { d with units := sset {} d.units key new } } ∧
      ∀ t, s.hostPut (field a 8 8) (leBytes 4 (BitVec.ofInt 32 old.lo).toNat ++ leBytes 4 (BitVec.ofInt 32 old.hi).toNat ++ leBytes 8 old.count ++
          ((List.range 32).map fun i => leBytes 4 (sget 0 old.bins i)).flatten) = some t →
        box .monread 31 [3] ((field a 0 1 = 8 ∨ (field a 0 1 < 8 ∧ d.dieEn.getLsbD (field a 0 1) = true)) ∧ field a 1 1 < 64) t))

/-- COMPUTE_DIE_RESET empties the die's cores, ends its waves, drops its translations and restarts its time; TIME_STEER sets OFS and RATE where they keep the die's time. POWER_GOOD and POWER_REMOVAL leave only the slot, the fuses and host memory; ROM then begins stage 1 at an image, and its verdict is FAILCODE 2, 3 or 4, or stage 2; STAGE3_ENTRY calibrates every bank of the enabled dies; STAGE2_FAILURE stops the start with its FAILCODE. DEVSTAT, THR, PCTL and mailbox registers take the writes their rules allow (of PCTL and THR's limits a value that the mailbox would take: the model's reading, log 40). SENSOR_READING sets a reading and the warnings, SENSOR_READING_STALE clears VALID; FATAL_ERROR, of an enabled die or the control die, stops the device, writes the dump, whose bytes are said, and sets FAILCODE. THROTTLE_STEP and THROTTLE_RISE move the points of enabled dies one index, the first sets their THROTTLED, POWER_MEASUREMENT sets PMEAS and, with no ballast placed, the limits on it, POWER_CAP_STEP and POWER_CAP_RESTORE move points; L2_QUEUE_DEPTH_SAMPLE reaches its unit. Nothing else changes. Choices of the model: what a die reset leaves (log 25); imageCode of an empty slot and of the signature's constants (logs 7, 26); INBAND after a break, 4,000 W as a sample's limit, the hungriest die, the ballast gate (log 27); what a fatal error or a stop keeps (log 29); TIME_STEER out of its limits does nothing (log 17).
(R154, R420, R437, R438, R439, R442, R443, R444, R446, R447, R458, R463) -/
def Obligations.DeviceEvents : Prop :=
  ∀ (s : State),
    let d := s.dev
    let there := fun (die : Nat) => die = 8 ∨ (die < 8 ∧ d.dieEn.getLsbD die = true)
    let limits := fun (v : DWord) => (v.extractLsb' 0 16).toInt < (v.extractLsb' 16 16).toInt ∧ (v.extractLsb' 16 16).toInt < (v.extractLsb' 32 16).toInt ∧
      (v.extractLsb' 32 16).toInt ≤ 0x1F4
    let emptied := fun (t : State) => t.ctxs = [] ∧ t.launches = [] ∧ t.blocks = [] ∧ t.cores = [] ∧ t.graphs = [] ∧
      ∀ a, t.byteAt a = if hostBit ≤ a then s.byteAt a else 0
    (∀ die, 8 ≤ die → exec (.computeDieReset die) s = .next s) ∧
    (∀ die, die < 8 → ∃ t, exec (.computeDieReset die) s = .next t ∧ (∀ a, t.byteAt a = s.byteAt a) ∧
      (∀ c, t.core c = if c / 64 = die then {} else s.core c) ∧ (∀ e, e ∈ t.tlb ↔ e ∈ s.tlb ∧ dieOf e.holder ≠ die) ∧
      (∀ b, (s.block b).die ≠ die → t.block b = s.block b) ∧ (∀ b, b < s.blocks.length → (s.block b).die = die → ∀ v ∈ (t.block b).waves, v.done = true ∨ (s.block b).st = .done) ∧
      t.clkOf die = 0 ∧ t.timeOf die = 0 ∧ t.rateOf die = 0x40000000 ∧ (∀ e, e ≠ die → t.clkOf e = s.clkOf e ∧ t.timeOf e = s.timeOf e) ∧
      t.launches = s.launches ∧ t.ctxs = s.ctxs) ∧
    (∀ die ofs rate,
      let now := conv (s.rawOf die) ofs rate
      let near := fun (a b : DWord) => (a - b).toNat ≤ 4 ∨ (b - a).toNat ≤ 4
      let legal := die ≤ 8 ∧ 0x3FEF9DB2 ≤ rate.toNat ∧ rate.toNat ≤ 0x4010624E ∧ (now - s.timeOf die).toNat < 2 ^ 63 ∧
        ∀ e, e ≤ 8 → e ≠ die → (e = 8 ∨ d.dieEn.getLsbD e = true) → near now (s.timeOf e) ∨ ¬ near (s.timeOf e) (s.timeOf 8)
      (¬ legal → exec (.timeSteer die ofs rate) s = .next s) ∧
      (legal → ∃ t, exec (.timeSteer die ofs rate) s = .next t ∧ { t with dev := { t.dev with ofs := d.ofs, rate := d.rate, steered := d.steered } } = s ∧
        t.timeOf die = now ∧ ∀ e, t.ofsOf e = (if e = die then ofs else s.ofsOf e) ∧ t.rateOf e = if e = die then rate else s.rateOf e)) ∧
    (∃ t, exec .powerGood s = .next t ∧ emptied t ∧ t.dev.powered = true ∧ t.dev.slot = d.slot ∧ t.dev.dieEn = d.dieEn ∧ t.clk = 0 ∧ t.raw = 0 ∧
      t.dev.stage = (if d.slot = [] then 0 else 1) ∧ t.dev.failCode = (if d.slot = [] then 1 else 0) ∧ t.dev.dump = false ∧ t.dev.mbSeq = 0 ∧ t.dev.mbDone = 0) ∧
    (d.stage ≠ 1 → s.authenticate = s) ∧
    (d.stage = 1 → (s.imageCode = 0 → s.authenticate = { s with dev := { d with stage := 2 } }) ∧
      (s.imageCode ≠ 0 → emptied s.authenticate ∧ s.authenticate.dev.stage = 0 ∧ s.authenticate.dev.failCode = BitVec.ofNat 8 s.imageCode ∧ s.authenticate.dev.slot = d.slot)) ∧
    (let im := fun (o n : Nat) => (span o n).map s.imageByte
     let body := leNat (im 8 8)
     let headed := im 0 4 = [0x49#8, 0x4B#8, 0x46#8, 0x57#8] ∧ 1 ≤ body ∧ body ≤ 2 ^ 26 - 256 ∧ ∀ x ∈ d.slot, (x.1 < 144 ∨ 256 ≤ x.1) ∧ x.1 < 256 + body
     let signed := sm2Valid (im 16 64) (im 80 64) (im 0 80 ++ im 256 body) = true
     (d.slot = [] → s.imageCode = 1) ∧ (d.slot ≠ [] → ¬ headed → s.imageCode = 2) ∧
     (d.slot ≠ [] → headed → (sm3 (im 16 64) ≠ Config.keyHash → s.imageCode = 3) ∧
       (sm3 (im 16 64) = Config.keyHash → (¬ signed → s.imageCode = 4) ∧ (signed → s.imageCode = 0)))) ∧
    (∃ t, exec .powerRemoval s = .next t ∧ emptied t ∧ t.dev.powered = false ∧ t.dev.slot = d.slot) ∧
    (d.powered = true ∧ d.stage = 2 → ∃ t, exec .stage3Entry s = .next t ∧ t.dev.stage = 3 ∧ (∀ a, t.byteAt a = s.byteAt a) ∧
      ∀ die ∈ s.dies, ∀ c i, c < 64 → i < 8 → (t.bank (die * 64 + c) i).calibrated = true ∧ (t.bank (die * 64 + c) i).compute = false) ∧
    (¬ (d.powered = true ∧ d.stage = 2) → exec .stage3Entry s = .next s) ∧
    (∀ code mask, ¬ (d.stage = 2 ∧ 5 ≤ code ∧ code ≤ 7) → exec (.stage2Failure code mask) s = .next s) ∧
    (∀ code mask, d.stage = 2 → 5 ≤ code → code ≤ 7 → ∃ t, exec (.stage2Failure code mask) s = .next t ∧ emptied t ∧ t.dev.stage = 0 ∧
      t.dev.failCode = BitVec.ofNat 8 code ∧
      t.dev.mbResult.toNat = let n := if code = 5 then 2 ^ 16 else if code = 6 then 2 ^ 8 else 1
        d.mbResult.toNat / n * n + mask % n) ∧
    (∀ v : DWord, exec (.devstatWrite v) s = .next (if d.powered = true ∧ v.getLsbD 27 = true then { s with dev := { d with dump := false } } else s)) ∧
    (∀ die v, d.powered = true → die ≤ 8 → ∃ t, exec (.thrWrite die v) s = .next t ∧ { t with dev := { t.dev with thr := d.thr } } = s ∧
      (∀ e, e ≠ die → t.thrOf e = s.thrOf e) ∧ ∀ i, i < 64 → (t.thrOf die).getLsbD i =
        if limits v ∧ i ≠ 48 ∧ i ≠ 49 then v.getLsbD i && decide (i < 48) else (s.thrOf die).getLsbD i && !((i == 48 || i == 49) && v.getLsbD i)) ∧
    (∀ off v, d.powered = true →
      (off = 0 → exec (.managementRegisterWrite off v) s = exec (.devstatWrite v) s) ∧
      (∀ die, die ≤ 8 → off = 0x2000 + 64 * die → exec (.managementRegisterWrite off v) s = exec (.thrWrite die v) s) ∧
      (off ≠ 0 → (∀ die, die ≤ 8 → off ≠ 0x2000 + 64 * die) → exec (.managementRegisterWrite off v) s = .next
        (if off = 256 then { s with dev := { d with mbSeq := v } } else if off = 272 then { s with dev := { d with mbCmd := v } }
         else if off = 280 then { s with dev := { d with mbArg := v } }
         else if off = 0x3000 ∧ 1000 ≤ v.toNat % 2 ^ 16 ∧ v.toNat % 2 ^ 16 ≤ 4000 ∧
           (v.toNat / 2 ^ 16 % 2 ^ 16 = 0 ∨ (1000 ≤ v.toNat / 2 ^ 16 % 2 ^ 16 ∧ v.toNat / 2 ^ 16 % 2 ^ 16 ≤ v.toNat % 2 ^ 16))
         then { s with dev := { d with pctl := v &&& 0x1FFFFFFFF#64 } } else s))) ∧
    (∀ unit i temp, ¬ (d.powered = true ∧ s.sensorThere unit i = true) → exec (.sensorReading unit i temp) s = .next s) ∧
    (∀ unit i temp, d.powered = true → s.sensorThere unit i = true → unit ≤ 8 →
      let sensors := sset (false, (0 : Half)) d.sensors (unit * 32 + i) (true, temp)
      let tj := State.tj { s with dev := { d with sensors := sensors } } unit
      tj < s.critOf unit → (∀ k, unit < 8 → k / 2 = unit → s.stackHot k = false) →
      ∃ t, exec (.sensorReading unit i temp) s = .next t ∧
        { t with cores := s.cores, dev := { t.dev with sensors := d.sensors, thr := d.thr, units := d.units, ctlThrottled := d.ctlThrottled } } = s ∧
        (t.dev.ctlThrottled = true ↔ d.ctlThrottled = true ∧ ¬ (unit = 8 ∧ tj ≤ ((s.thrOf 8).extractLsb' 16 16).toInt - 8)) ∧
        (∀ c, t.core c = if c / 64 = unit then { s.core c with arb := (s.core c).arb.map fun x => { x with hot := max x.hot tj } } else s.core c) ∧
        t.dev.sensors = sensors ∧ (∀ e, e ≠ unit → t.thrOf e = s.thrOf e) ∧
        ∀ j, j < 64 → (t.thrOf unit).getLsbD j = ((s.thrOf unit).getLsbD j ||
          (j == 48 && decide (((s.thrOf unit).extractLsb' 0 16).toInt ≤ tj)) || (j == 49 && decide (((s.thrOf unit).extractLsb' 16 16).toInt ≤ tj)))) ∧
    (∀ i temp, d.powered = true → s.sensorThere 9 i = true → temp.toInt < s.critOf (i / 2) →
      ∃ t, exec (.sensorReading 9 i temp) s = .next t ∧ { t with dev := { t.dev with sensors := d.sensors, refresh := d.refresh, units := d.units } } = s ∧
        t.dev.sensors = sset (false, (0 : Half)) d.sensors (288 + i) (true, temp) ∧
        let x := temp.toInt
        let old := sget 0 d.refresh i
        let up := if 416 ≤ x then 3 else if 376 ≤ x then 2 else if 336 ≤ x then 1 else 0
        (old ≤ 3 → sget 0 t.dev.refresh i = if old < up then up else if old = 3 ∧ x ≤ 408 then (if 368 < x then 2 else if 328 < x then 1 else 0)
          else if old = 2 ∧ x ≤ 368 then (if 328 < x then 1 else 0) else if old = 1 ∧ x ≤ 328 then 0 else old)) ∧
    (∀ unit i, let x := sget (false, (0 : Half)) d.sensors (unit * 32 + i)
      (x.1 = false → exec (.sensorReadingStale unit i) s = .next s) ∧
      (x.1 = true → unit = 9 → exec (.sensorReadingStale unit i) s = .next
        { s with dev := { d with sensors := sset (false, (0 : Half)) d.sensors (unit * 32 + i) (false, x.2) } })) ∧
    (∀ cause die, ¬ (d.powered = true ∧ there die ∧ (cause = 2 ∨ cause = 3 ∨ (cause = 1 ∧ s.dieHot die = true))) → exec (.fatalError cause die) s = .next s) ∧
    (∀ cause die, d.powered = true → there die → (cause = 2 ∨ cause = 3 ∨ (cause = 1 ∧ s.dieHot die = true)) →
      ∃ t, exec (.fatalError cause die) s = .next t ∧ emptied t ∧ t.dev.stage = 0 ∧ t.dev.failCode = (if cause = 1 then 8 else 0) ∧
        t.dev.collector = d.collector ∧ t.dev.slot = d.slot ∧
        (d.stage = 3 → s.stackHot (2 * s.hostDie) = false → t.dev.dump = true ∧ t.dev.dumpMem = s.dumpBytes cause die) ∧
        (d.stage ≠ 3 → t.dev.dump = d.dump ∧ (d.dump = true → t.dev.dumpMem = d.dumpMem)) ∧
        (d.stage = 3 → s.stackHot (2 * s.hostDie) = true → t.dev.dump = d.dump ∧ t.dev.dumpMem = [])) ∧
    (∀ cause die,
      let l := s.dumpBytes cause die
      let f := field l
      let coll := s.collectorAll
      let live := s.ctxs.filter fun c => c.live
      let standing := ((List.range s.blocks.length).filter fun b => (s.block b).st != .done).map fun b => (List.range (s.block b).waves.length).map fun w => (b, w)
      let waves := standing.flatten
      let up := fun (n : Nat) => (n + 127) / 128 * 128
      let o0 := 4096
      let o1 := o0 + up (64 * coll.length)
      let o2 := o1 + 128 * live.length
      let o3 := o2 + up (64 * waves.length)
      let entry := fun (i n o : Nat) => f (104 + 8 * i) 8 = if n = 0 then 0 else (o + n * 2 ^ 32) % 2 ^ 64
      f 0 1 = 0x49 ∧ f 1 1 = 0x4B ∧ f 2 1 = 0x44 ∧ f 3 1 = 0x4D ∧ f 4 4 = 1 ∧ f 8 8 = l.length % 2 ^ 64 ∧ f 16 4 = cause % 2 ^ 32 ∧ f 20 1 = die % 256 ∧ f 21 1 = d.stage % 256 ∧
      f 22 1 = d.dieEn.toNat ∧ f 24 8 = (s.timeOf 8).toNat ∧
      (∀ e, e ≤ 8 → f (32 + 8 * e) 2 = (BitVec.ofInt 16 (s.tj e)).toNat ∧ f (34 + 8 * e) 1 = ((s.thrOf e).extractLsb' 48 2).toNat ∧
        f (35 + 8 * e) 1 = if e < 8 then s.pointOf e % 256 else 0) ∧
      ((∀ r ∈ coll, r.payload.length ≤ 48) → (∀ x ∈ s.atomLog, x.bytes.length ≤ 48) →
        entry 0 coll.length o0 ∧ entry 1 live.length o1 ∧ entry 2 waves.length o2 ∧ entry 3 s.atomLog.length o3 ∧
        (∀ i r, coll[i]? = some r → f (o0 + 64 * i) 2 = r.type % 2 ^ 16 ∧ f (o0 + 64 * i + 2) 1 = r.die % 256 ∧ f (o0 + 64 * i + 4) 4 = r.place % 2 ^ 32 ∧
          f (o0 + 64 * i + 8) 8 = r.time.toNat ∧ ∀ j, j < r.payload.length → l.getD (o0 + 64 * i + 16 + j) 0 = r.payload.getD j 0) ∧
        (∀ i c, live[i]? = some c → f (o1 + 128 * i) 4 = c.number % 2 ^ 32 ∧ f (o1 + 128 * i + 4) 4 = s.peek c (c.ccb + 16) 8 % 2 ^ 32 ∧
          f (o1 + 128 * i + 8) 4 = s.peek c (c.ccb + 24) 8 % 2 ^ 32) ∧
        (∀ i b w, waves[i]? = some (b, w) → let k := s.block b; let v := s.wave b w; let o := o2 + 64 * i
          f o 4 = (s.ctx (s.launch k.launch).ctx).number % 2 ^ 32 ∧ f (o + 4) 4 = (s.launch k.launch).seq.toNat ∧ f (o + 8) 4 = (s.gang k.launch k.gang).number % 2 ^ 32 ∧
          f (o + 12) 1 = k.index % 256 ∧ f (o + 13) 1 = w % 256 ∧ f (o + 14) 1 = v.stateCode ∧ f (o + 16) 8 = v.a.nextPc.toNat % 2 ^ 57 ∧ f (o + 24) 8 = v.fault0.toNat ∧
          f (o + 32) 8 = v.fault1.toNat ∧ f (o + 40) 4 = s.idOf b w % 2 ^ 32) ∧
        ∀ i x, s.atomLog[i]? = some x → ∀ j, j < x.bytes.length → l.getD (o3 + 48 * i + j) 0 = x.bytes.getD j 0)) ∧
    (∀ die, let reached := fun (e : Nat) => e ∈ s.dies ∧ (e = die ∨ die = 8)
      let step := fun (i : Instr) (f : Nat → Nat) (g : Nat → DWord) (c : Bool) => ∃ t, exec i s = .next t ∧ (∀ e, reached e → t.pointOf e = f e ∧ t.thrOf e = g e) ∧
        (∀ e, ¬ reached e → t.pointOf e = s.pointOf e ∧ t.thrOf e = s.thrOf e) ∧ t.dev.ctlThrottled = c ∧
        { t with dev := { t.dev with point := d.point, unstable := d.unstable, outOfBand := d.outOfBand, thr := d.thr, ctlThrottled := d.ctlThrottled } } = s
      (¬ there die ∨ s.tj die < ((s.thrOf die).extractLsb' 16 16).toInt → exec (.throttleStep die) s = .next s) ∧
      (there die → ((s.thrOf die).extractLsb' 16 16).toInt ≤ s.tj die → step (.throttleStep die) (fun e => if s.pointOf e ≤ 1 then s.pointOf e else s.pointOf e - 1)
        (fun e => s.thrOf e ||| 0x0002000000000000#64) (d.ctlThrottled || die == 8)) ∧
      (¬ there die → exec (.throttleRise die) s = .next s) ∧
      (there die → step (.throttleRise die) (fun e =>
        if e ∉ d.capped ∧ s.pointOf e < s.grantedOf e ∧ s.warm e = false ∧ ¬ (d.ctlThrottled = true ∧ s.warm 8 = true) then s.pointOf e + 1 else s.pointOf e)
        s.thrOf d.ctlThrottled)) ∧
    (∀ sample average ballast, d.powered = true → s.ballastGangs = [] →
      let cap := d.pctl.toNat % 2 ^ 16
      let target := d.pctl.toNat / 2 ^ 16 % 2 ^ 16
      let on := d.pctl.getLsbD 32 = true ∧ target ≠ 0
      let past := cap < average ∨ 4000 < sample
      ∃ t, exec (.powerMeasurement sample average ballast []) s = .next t ∧
        { t.dev with pmeas := d.pmeas, overCap := d.overCap, ballastStop := d.ballastStop, ballastGated := d.ballastGated, underCap := d.underCap
                     drawMost := d.drawMost, outOfBand := d.outOfBand } = d ∧ { t with dev := d } = s ∧
        t.dev.pmeas.toNat % 2 ^ 16 = average % 2 ^ 16 ∧ t.dev.pmeas.toNat / 2 ^ 16 % 2 ^ 16 = ballast % 2 ^ 16 ∧
        (t.dev.pmeas.getLsbD 33 = s.ballastShort) ∧
        (t.dev.pmeas.getLsbD 32 = true ↔ s.ballastShort = false ∧ ¬ (on ∧ ballast + target < sample) ∧ d.outOfBand = 0 ∧ absDiff average target * 50 ≤ target) ∧
        t.dev.outOfBand = (if s.ballastShort = true ∨ (on ∧ ballast + target < sample) then 99 else d.outOfBand - 1) ∧
        (t.dev.ballastGated = true ↔ on ∧ target ≤ average) ∧ (t.dev.overCap = true ↔ past) ∧ (t.dev.ballastStop = true ↔ past) ∧ (t.dev.underCap = true ↔ average * 100 ≤ cap * 95)) ∧
    (let low := d.drawMost
     let gone := ∀ x ∈ s.ballastGangs, (s.gang x.1 x.2).stopReq = false ∧ s.gangPlaces x.1 x.2 = none
     (¬ (d.overCap = true ∧ gone) → exec .powerCapStep s = .next s) ∧
     (d.overCap = true → gone → ∃ t, exec .powerCapStep s = .next t ∧
       t.pointOf low = (if s.pointOf low ≤ 1 then s.pointOf low else s.pointOf low - 1) ∧ (∀ e, e ≠ low → t.pointOf e = s.pointOf e) ∧
       (∀ e, e ∈ t.dev.capped ↔ e ∈ d.capped ∨ e = low) ∧
       { t with dev := { t.dev with point := d.point, unstable := d.unstable, capped := d.capped, outOfBand := d.outOfBand } } = s)) ∧
    (d.underCap = false → exec .powerCapRestore s = .next s) ∧
    (d.underCap = true → d.capped.Nodup → ∃ t, exec .powerCapRestore s = .next t ∧
      (∀ e, t.pointOf e = if e ∈ d.capped ∧ s.pointOf e < s.grantedOf e ∧ s.warm e = false ∧ ¬ (d.ctlThrottled = true ∧ s.warm 8 = true)
        then s.pointOf e + 1 else s.pointOf e) ∧
      (∀ e, e ∈ t.dev.capped ↔ e ∈ d.capped ∧ t.pointOf e < s.grantedOf e) ∧
      { t with dev := { t.dev with point := d.point, unstable := d.unstable, capped := d.capped } } = s) ∧
    (∀ (die unit : Nat) (depth : Int), let u : MonUnit := sget {} d.units (die * 64 + unit)
      (¬ (u.src = 2 ∧ u.en = true ∧ unit < 64) → exec (.l2QueueDepthSample die unit depth) s = .next s) ∧
      (u.src = 2 → u.en = true → unit < 64 → ∃ t, exec (.l2QueueDepthSample die unit depth) s = .next t ∧
        { t with dev := { t.dev with units := d.units } } = s ∧ (∀ k, k ≠ die * 64 + unit → sget {} t.dev.units k = sget {} d.units k) ∧
        (let v : MonUnit := sget {} t.dev.units (die * 64 + unit)
         let bin := if u.log2 then (if depth ≤ 0 then 0 else min (Nat.log2 depth.toNat + 1) 31) else (max 0 (min 31 ((depth - u.base) / (2 ^ u.shift : Int)))).toNat
         v.lo = min u.lo depth ∧ v.hi = max u.hi depth ∧ v.count = u.count + 1 ∧
         ∀ i, sget 0 v.bins i = if i = bin then min (2 ^ 32 - 1) (sget 0 u.bins i + 1) else sget 0 u.bins i)))

/-- Words written out from the encodings of R34 to R49, R95, R134, R184, R280, R288, R330 and R366 decode to the instruction they stand for.
(R34, R35, R95, R112, R134, R184, R280, R288, R366) -/
def Obligations.DecodeWords : Prop :=
  decode [0x00030102] = .ok (.add false 3 1 2) ∧ decode [0x1C120103] = .ok (.cmp false 2 2 1 3) ∧
  decode [0x60030100, 0xFFFFFFFB] = .ok (.addi false 3 1 0xFFFFFFFB) ∧ decode [0xA6080406] = .ok (.fmul true 8 4 6) ∧
  decode [0x63020B00, 0xFFFFFFF0] = .ok (.br false 2 ⟨true, 3⟩ 0x3FFFFFFC) ∧ decode [0x65060405, 0x00A00300] = .ok (.wscan false true 2 6 4 3) ∧
  decode [0x6A020401, 0x00000129] = .ok (.mmac false 2 4 1 5 2) ∧ decode [0x68060480, 0x00000702] = .ok (.atomPeer false 0 6 4 2 7) ∧
  decode [0x6C090806, 0x00030016] = .ok (.tadv false 9 8 2 1 1 3) ∧ decode [0x7C090000, 0x00000000, 0x00000040] = .ok (.movkk false 9 0x4000000000)

/-- Every well-formed instruction that has an encoding decodes from its words, whatever words follow, to itself with every operand as it was, and its words are as many as its opcode gives; and every list of words that decodes holds, at its head, exactly the encoding of the instruction it decodes to, which is well-formed: no bit of a word is dropped.
(R20, R33, R34, R35, R36, R38, R43, R45, R47, R48, R49) -/
def Obligations.EncodeDecode : Prop :=
  (∀ (i : Instr) (ws more : List Word), i.wf = true → encode i = some ws →
    decode (ws ++ more) = .ok i ∧ 4 * ws.length = opcodeLength (Base.ofWord (ws.headD 0)).op) ∧
  (∀ (ws : List Word) (i : Instr), decode ws = .ok i → i.wf = true ∧ ∃ more l, ws = l ++ more ∧ encode i = some l)

/-- For every state whose memory lists addresses in rising order, each once, with no entry equal to what an unlisted address reads as, a step that answers a next state leaves memory so (log 2 names the form, which is the model's).
(R31, R222) -/
def Obligations.MemoryStaysCanonical : Prop :=
  ∀ s t : State, s.memWf = true → step s = .next t → t.memWf = true

/-- At reset memory is in its canonical form and lists nothing; STAGE, FAILCODE and DUMP are 0 (R437); no context, launch, block or core state is there (R438); THR of every die is 0x000001D801B00190 (R443), PCTL is 0xE10 (R446), TIMEOFS is 0 and TIMERATE 0x40000000 (R420); no sensor has a reading (R442).
(R420, R437, R438, R442, R443, R446) -/
def Obligations.ResetState : Prop :=
  let s := State.reset
  s.memWf = true ∧ s.mem = [] ∧ s.devstat.toNat % 2 ^ 16 = 0 ∧ s.dev.dump = false ∧ s.ctxs = [] ∧ s.launches = [] ∧ s.blocks = [] ∧ s.cores = [] ∧
  (∀ die, s.thrOf die = 0x000001D801B00190#64) ∧ s.dev.pctl = 0x0000000000000E10#64 ∧
  (∀ die, s.ofsOf die = 0 ∧ s.rateOf die = 0x40000000#32) ∧ ∀ unit i, s.sensorReg unit i = 0

/-- A step lets time pass and does what the agenda's head names: an event, or a core's turn; a core's turn in stage 3 is the turn of its first candidate, where that is not held back. An arm's turn takes a rejoin, a deferred fault, or a breakpoint first; otherwise, where the words fetched at pc decode to i, it is exec of i, with its leaf noted in the TLBs; a tick changes of the waves only status flags that are due, counts of waits and the waits of yields, the claims of an ended clk apart (log 6), and no rate of its own is told (log 9); words that are no instruction take ILLEGAL_INSTRUCTION, and a failing fetch its trap. The words fetched are the little-endian words at pc, as many as the opcode gives; a pc that is no multiple of 4 takes ALIGNMENT.
(R20, R21, R22, R43, R186, R216, R379) -/
def Obligations.StepRunsDecoded : Prop :=
  (∀ s : State, step s = match s.agenda with
    | [] => s.tick.auto
    | .event i :: rest => exec i { s.tick with agenda := rest }
    | .core c :: rest => (coreStep c { s.tick with agenda := rest }).2) ∧
  (∀ s : State, s.dev.stage ≠ 1 → { s.tick with
      clk := s.clk, raw := s.raw, ticks := s.ticks, freeCount := s.freeCount, cur := s.cur, ran := s.ran, ranClk := s.ranClk, blocks := s.blocks, race := s.race } = s ∧
    s.clk ≤ s.tick.clk ∧ s.raw ≤ s.tick.raw ∧ s.tick.ticks = s.ticks + 1 ∧ s.tick.freeCount = s.freeCount + 1 ∧ s.tick.cur = none ∧ s.tick.ran = s.cur ∧
    s.tick.ranClk = s.clk ∧ s.tick.blocks.length = s.blocks.length ∧ (∀ x ∈ s.tick.race, x ∈ s.race) ∧
    ∀ b, (s.block b).claimNow = [] → { s.tick.block b with waves := (s.block b).waves } = s.block b ∧
      ∀ w, { s.tick.wave b w with status := (s.wave b w).status, late := (s.wave b w).late, a := (s.wave b w).a, b := (s.wave b w).b } = s.wave b w ∧
        ∀ armB : Bool, { (s.tick.wave b w).arm armB with st := ((s.wave b w).arm armB).st, waited := ((s.wave b w).arm armB).waited } = (s.wave b w).arm armB ∧
          ((∀ l, ((s.wave b w).arm armB).st ≠ .yield l) → ((s.tick.wave b w).arm armB).st = ((s.wave b w).arm armB).st)) ∧
  (∀ (s t : State) (core : Nat) (u : Cursor) (l : List Cursor) (o : Host.Outcome State Fault Refusal),
    s.dev.stage = 3 → t = (s.armsOf core).foldl State.rehomeWake ((s.armsOf core).foldl State.yieldWake
      ((s.armsOf core).foldl State.barWake ((s.armsOf core).foldl State.trapWake s))) → t.candidates core = u :: l →
    armStep u t = o → (∀ x, o = .next x → heldBack u t x = false) → coreStep core s = (true, o)) ∧
  (∀ (s : State) (u : Cursor),
    let s1 := { s.modArm u fun a => { a with reason := 0 } with cur := some u, ranPc := (s.arm u).pc }
    let v := s1.wave u.b u.w
    (v.atRejoin u.armB = true → armStep u s = exec .rejoin s1) ∧
    (v.atRejoin u.armB = false → v.pend ≠ [] → armStep u s = exec .takeDeferredFault s1) ∧
    (v.atRejoin u.armB = false → v.pend = [] → (s1.breakpoint u).isSome = true → armStep u s = exec .breakpointMatch s1) ∧
    (v.atRejoin u.armB = false → v.pend = [] → s1.breakpoint u = none →
      (∀ ws i, s1.fetch u = .ok ws → decode ws = .ok i → armStep u s = exec i (s1.noteFetch u ws.length)) ∧
      (∀ ws e, s1.fetch u = .ok ws → decode ws = .error e → armStep u s = .next ((s1.noteFetch u ws.length).takeTrap u 4 { cause := 1 })) ∧
      (∀ x, s1.fetch u = .error x → armStep u s = .next (s1.takeTrap u 4 x))) ∧
    (s1.memGood = true → ∀ n, { s1.noteFetch u n with tlb := s1.tlb, walks := s1.walks, preds := s1.preds, peerMem := s1.peerMem } = s1)) ∧
  (∀ (s : State) (u : Cursor) (words : Nat → Word),
    let pc := (s.arm u).pc
    let n := opcodeLength (Base.ofWord (words 0)).op / 4
    (pc.toNat % 4 ≠ 0 → s.fetch u = .error { cause := 2, info := pc, atWord := pc }) ∧
    (pc.toNat % 4 = 0 → (∀ i, i < n → s.fetchWord u i = .ok (words i)) → s.fetch u = .ok ((List.range n).map words)) ∧
    (∀ (i key : Nat) (x : Xlat),
      let k := s.block u.b
      s.translate (codeSide k.core) (s.ctx (s.launch k.launch).ctx) (pc + BitVec.ofNat 64 (4 * i)) false true = .ok x → flatPage x = none →
      s.place x.pa x.host = .mem key → s.badIn key 4 = false → (s.core k.core).icOld = [] →
      s.fetchWord u i = .ok (wordOfBytes (s.byteAt key) (s.byteAt (key + 1)) (s.byteAt (key + 2)) (s.byteAt (key + 3)))))
end

