-- ==== Sys2Proof/Laws/Sparse.lean ====
section
/-! SUPPORT. Sparse maps: reading after writing, and that every operation keeps the canonical form. -/
namespace Sys2Proof.Machine

variable {α : Type}

/-- Keys above a bound, in the order of the list: the part of the canonical form that speaks of keys. -/
theorem swfFrom_weaken [DecidableEq α] (d : α) {l : Sparse α} {lo lo' : Option Nat}
    (h : swfFrom d lo l = true) (hl : ∀ a, lo' = some a → ∃ b, lo = some b ∧ a ≤ b) : swfFrom d lo' l = true := by
  cases l with
  | nil => rfl
  | cons x t =>
    obtain ⟨k, y⟩ := x
    simp only [swfFrom, Bool.and_eq_true] at h ⊢
    refine ⟨⟨?_, h.1.2⟩, h.2⟩
    cases lo' with
    | none => rfl
    | some a =>
      obtain ⟨b, rfl, hab⟩ := hl a rfl
      have := h.1.1
      simp only [decide_eq_true_eq] at this ⊢
      omega

theorem sget_filter_self (d : α) (m : Sparse α) (n : Nat) : sget d (m.filter fun y => y.1 != n) n = d := by
  induction m with
  | nil => rfl
  | cons y t ih =>
    obtain ⟨k, v⟩ := y
    by_cases h : k = n <;> simp [sget, h, ih]
theorem sget_filter_other (d : α) (m : Sparse α) {n n' : Nat} (h : n' ≠ n) : sget d (m.filter fun y => y.1 != n) n' = sget d m n' := by
  induction m with
  | nil => rfl
  | cons y t ih =>
    obtain ⟨k, v⟩ := y
    by_cases hk : k = n
    · subst hk; simp [sget, h.symm, ih]
    · simp [sget, hk, ih]
theorem sget_sins_self (d : α) (m : Sparse α) (n : Nat) (x : α) : sget d (sins m n x) n = x := by
  induction m with
  | nil => simp [sins, sget]
  | cons y t ih =>
    obtain ⟨k, v⟩ := y
    unfold sins
    by_cases h1 : n < k
    · simp [h1, sget]
    · by_cases h2 : n = k
      · simp [h2, sget]
      · have hk : ¬ k = n := fun e => h2 e.symm
        simp [h1, h2, sget, hk, ih]
theorem sget_sins_other (d : α) (m : Sparse α) {n n' : Nat} (x : α) (hn : n' ≠ n) : sget d (sins m n x) n' = sget d m n' := by
  induction m with
  | nil => simp [sins, sget, hn.symm]
  | cons y t ih =>
    obtain ⟨k, v⟩ := y
    unfold sins
    by_cases h1 : n < k
    · simp [h1, sget, hn.symm]
    · by_cases h2 : n = k
      · subst h2; simp [sget, hn.symm]
      · simp only [h1, h2, if_false, sget, ih]

/-- Reading the written key: on any list, canonical or not. -/
@[simp] theorem sget_sset_self [DecidableEq α] (d : α) (m : Sparse α) (n : Nat) (x : α) : sget d (sset d m n x) n = x := by
  unfold sset
  by_cases h : x = d
  · simp [h, sget_filter_self]
  · simp [h, sget_sins_self]
/-- Reading another key. -/
theorem sget_sset_other [DecidableEq α] (d : α) (m : Sparse α) {n n' : Nat} (x : α) (hn : n' ≠ n) :
    sget d (sset d m n x) n' = sget d m n' := by
  unfold sset
  by_cases h : x = d
  · simp [h, sget_filter_other d m hn]
  · simp [h, sget_sins_other d m x hn]
theorem sget_sset [DecidableEq α] (d : α) (m : Sparse α) (n n' : Nat) (x : α) :
    sget d (sset d m n x) n' = if n' = n then x else sget d m n' := by
  by_cases e : n' = n
  · subst e; simp
  · simpa [e] using sget_sset_other d m x e

/-- A canonical map without some of its keys is canonical. -/
theorem swfFrom_filter [DecidableEq α] (d : α) (f : Nat → Bool) {m : Sparse α} {lo : Option Nat} (h : swfFrom d lo m = true) :
    swfFrom d lo (m.filter fun y => f y.1) = true := by
  induction m generalizing lo with
  | nil => rfl
  | cons x t ih =>
    obtain ⟨k, v⟩ := x
    simp only [swfFrom, Bool.and_eq_true] at h
    by_cases hf : f k = true
    · simp only [List.filter_cons, hf, if_true, swfFrom, Bool.and_eq_true]
      exact ⟨h.1, ih h.2⟩
    · simp only [List.filter_cons, hf, Bool.false_eq_true, if_false]
      refine swfFrom_weaken d (ih h.2) (fun a ha => ⟨k, rfl, ?_⟩)
      subst ha
      have := h.1.1
      simp only [decide_eq_true_eq] at this
      omega
/-- The canonical form survives a write above the bound. -/
theorem swfFrom_sins [DecidableEq α] (d : α) {m : Sparse α} {lo : Option Nat} (h : swfFrom d lo m = true) (n : Nat) {x : α} (hx : ¬ x = d)
    (hlo : ∀ a, lo = some a → a < n) : swfFrom d lo (sins m n x) = true := by
  have hd : (!(x = d : Bool)) = true := by simpa using hx
  induction m generalizing lo with
  | nil => simp only [sins, swfFrom, Bool.and_eq_true]; exact ⟨⟨by cases lo with | none => rfl | some a => simpa using hlo a rfl, hd⟩, trivial⟩
  | cons y t ih =>
    obtain ⟨k, v⟩ := y
    simp only [swfFrom, Bool.and_eq_true] at h
    unfold sins
    by_cases h1 : n < k
    · simp only [h1, if_true, swfFrom, Bool.and_eq_true]
      exact ⟨⟨by cases lo with | none => rfl | some a => simpa using hlo a rfl, hd⟩, ⟨by simp, h.1.2⟩, h.2⟩
    · by_cases h2 : n = k
      · subst h2
        simp only [Nat.lt_irrefl, if_false, if_true, swfFrom, Bool.and_eq_true]
        exact ⟨⟨by cases lo with | none => rfl | some a => simpa using hlo a rfl, hd⟩, h.2⟩
      · simp only [h1, h2, if_false, swfFrom, Bool.and_eq_true]
        exact ⟨h.1, ih h.2 (fun a ha => by cases ha; omega)⟩

theorem swf_sset [DecidableEq α] (d : α) {m : Sparse α} (h : swf d m = true) (n : Nat) (x : α) : swf d (sset d m n x) = true := by
  unfold sset
  by_cases hx : x = d
  · rw [if_pos hx]; exact swfFrom_filter d (fun k => k != n) h
  · rw [if_neg hx]; exact swfFrom_sins d h n hx (fun _ e => nomatch e)

theorem swf_ssetAll [DecidableEq α] (d : α) (l : Sparse α) {m : Sparse α} (h : swf d m = true) : swf d (ssetAll d m l) = true := by
  induction l generalizing m with
  | nil => exact h
  | cons x t ih => exact ih (swf_sset d h x.1 x.2)

theorem sget_ssetAll_other [DecidableEq α] (d : α) (l m : Sparse α) {n : Nat} (hn : ∀ x ∈ l, x.1 ≠ n) :
    sget d (ssetAll d m l) n = sget d m n := by
  induction l generalizing m with
  | nil => rfl
  | cons x t ih =>
    simp only [ssetAll, List.foldl_cons]
    have := ih (sset d m x.1 x.2) (fun y hy => hn y (List.mem_cons_of_mem _ hy))
    simp only [ssetAll] at this
    rw [this]
    exact sget_sset_other d m x.2 (fun e => hn x List.mem_cons_self e.symm)

theorem swf_sdrop [DecidableEq α] (d : α) (f : Nat → Bool) {m : Sparse α} (h : swf d m = true) : swf d (sdrop m f) = true :=
  swfFrom_filter d (fun k => !f k) h

/-- R31: a value's bytes, put together again. -/
theorem leNat_leBytes (n x : Nat) : leNat (leBytes n x) = x % 256 ^ n := by
  induction n generalizing x with
  | zero => simp [leBytes, leNat, Nat.mod_one]
  | succ n ih =>
    have h : x % 256 ^ (n + 1) = x % 256 + 256 * (x / 256 % 256 ^ n) := by
      rw [Nat.pow_succ, Nat.mul_comm (256 ^ n) 256, Nat.mod_mul]
    rw [h, ← ih (x / 256)]
    simp [leBytes, leNat]

@[simp] theorem length_leBytes (n x : Nat) : (leBytes n x).length = n := by
  induction n generalizing x with
  | zero => rfl
  | succ n ih => simp [leBytes, ih]

/-- Changing one element of a list. -/
@[simp] theorem length_upd (l : List α) (i : Nat) (f : α → α) : (upd l i f).length = l.length := by
  induction l generalizing i with
  | nil => rfl
  | cons x t ih => cases i <;> simp [upd, ih]
theorem getD_upd_self (l : List α) (i : Nat) (f : α → α) (d : α) (h : i < l.length) : (upd l i f).getD i d = f (l.getD i d) := by
  induction l generalizing i with
  | nil => simp at h
  | cons x t ih =>
    cases i with
    | zero => rfl
    | succ i => simpa [upd] using ih i (by simpa using h)
theorem getD_upd_other (l : List α) {i j : Nat} (f : α → α) (d : α) (h : j ≠ i) : (upd l i f).getD j d = l.getD j d := by
  induction l generalizing i j with
  | nil => rfl
  | cons x t ih =>
    cases i with
    | zero =>
      cases j with
      | zero => exact absurd rfl h
      | succ j => rfl
    | succ i =>
      cases j with
      | zero => rfl
      | succ j => simpa [upd] using ih (fun e => h (by rw [e]))

end Sys2Proof.Machine
end

