-- ==== Sys2Proof/Laws/State.lean ====
section
/-! SUPPORT. State: what each named update leaves of each field, and what it makes of the part it changes. -/
namespace Sys2Proof.Machine

/-! ### State.modBlock -/
@[simp] theorem modBlock_mem (s : State) (b : Nat) (f : Block → Block) : (s.modBlock b f).mem = s.mem := rfl
@[simp] theorem modBlock_memFail (s : State) (b : Nat) (f : Block → Block) : (s.modBlock b f).memFail = s.memFail := rfl
@[simp] theorem modBlock_memBad (s : State) (b : Nat) (f : Block → Block) : (s.modBlock b f).memBad = s.memBad := rfl
@[simp] theorem modBlock_l2Lost (s : State) (b : Nat) (f : Block → Block) : (s.modBlock b f).l2Lost = s.l2Lost := rfl
@[simp] theorem modBlock_l2Fail (s : State) (b : Nat) (f : Block → Block) : (s.modBlock b f).l2Fail = s.l2Fail := rfl
@[simp] theorem modBlock_race (s : State) (b : Nat) (f : Block → Block) : (s.modBlock b f).race = s.race := rfl
@[simp] theorem modBlock_raceBlk (s : State) (b : Nat) (f : Block → Block) : (s.modBlock b f).raceBlk = s.raceBlk := rfl
@[simp] theorem modBlock_sync (s : State) (b : Nat) (f : Block → Block) : (s.modBlock b f).sync = s.sync := rfl
@[simp] theorem modBlock_preds (s : State) (b : Nat) (f : Block → Block) : (s.modBlock b f).preds = s.preds := rfl
@[simp] theorem modBlock_monitors (s : State) (b : Nat) (f : Block → Block) : (s.modBlock b f).monitors = s.monitors := rfl
@[simp] theorem modBlock_tlb (s : State) (b : Nat) (f : Block → Block) : (s.modBlock b f).tlb = s.tlb := rfl
@[simp] theorem modBlock_walks (s : State) (b : Nat) (f : Block → Block) : (s.modBlock b f).walks = s.walks := rfl
@[simp] theorem modBlock_ctxs (s : State) (b : Nat) (f : Block → Block) : (s.modBlock b f).ctxs = s.ctxs := rfl
@[simp] theorem modBlock_launches (s : State) (b : Nat) (f : Block → Block) : (s.modBlock b f).launches = s.launches := rfl
@[simp] theorem modBlock_cores (s : State) (b : Nat) (f : Block → Block) : (s.modBlock b f).cores = s.cores := rfl
@[simp] theorem modBlock_graphs (s : State) (b : Nat) (f : Block → Block) : (s.modBlock b f).graphs = s.graphs := rfl
@[simp] theorem modBlock_entries (s : State) (b : Nat) (f : Block → Block) : (s.modBlock b f).entries = s.entries := rfl
@[simp] theorem modBlock_openBatches (s : State) (b : Nat) (f : Block → Block) : (s.modBlock b f).openBatches = s.openBatches := rfl
@[simp] theorem modBlock_closedBatches (s : State) (b : Nat) (f : Block → Block) : (s.modBlock b f).closedBatches = s.closedBatches := rfl
@[simp] theorem modBlock_sendReqs (s : State) (b : Nat) (f : Block → Block) : (s.modBlock b f).sendReqs = s.sendReqs := rfl
@[simp] theorem modBlock_atomReqs (s : State) (b : Nat) (f : Block → Block) : (s.modBlock b f).atomReqs = s.atomReqs := rfl
@[simp] theorem modBlock_sumac (s : State) (b : Nat) (f : Block → Block) : (s.modBlock b f).sumac = s.sumac := rfl
@[simp] theorem modBlock_reports (s : State) (b : Nat) (f : Block → Block) : (s.modBlock b f).reports = s.reports := rfl
@[simp] theorem modBlock_atomLog (s : State) (b : Nat) (f : Block → Block) : (s.modBlock b f).atomLog = s.atomLog := rfl
@[simp] theorem modBlock_logOver (s : State) (b : Nat) (f : Block → Block) : (s.modBlock b f).logOver = s.logOver := rfl
@[simp] theorem modBlock_peerReqs (s : State) (b : Nat) (f : Block → Block) : (s.modBlock b f).peerReqs = s.peerReqs := rfl
@[simp] theorem modBlock_peerMem (s : State) (b : Nat) (f : Block → Block) : (s.modBlock b f).peerMem = s.peerMem := rfl
@[simp] theorem modBlock_zwbs (s : State) (b : Nat) (f : Block → Block) : (s.modBlock b f).zwbs = s.zwbs := rfl
@[simp] theorem modBlock_replayLines (s : State) (b : Nat) (f : Block → Block) : (s.modBlock b f).replayLines = s.replayLines := rfl
@[simp] theorem modBlock_replaySegs (s : State) (b : Nat) (f : Block → Block) : (s.modBlock b f).replaySegs = s.replaySegs := rfl
@[simp] theorem modBlock_dev (s : State) (b : Nat) (f : Block → Block) : (s.modBlock b f).dev = s.dev := rfl
@[simp] theorem modBlock_clk (s : State) (b : Nat) (f : Block → Block) : (s.modBlock b f).clk = s.clk := rfl
@[simp] theorem modBlock_raw (s : State) (b : Nat) (f : Block → Block) : (s.modBlock b f).raw = s.raw := rfl
@[simp] theorem modBlock_ticks (s : State) (b : Nat) (f : Block → Block) : (s.modBlock b f).ticks = s.ticks := rfl
@[simp] theorem modBlock_nextId (s : State) (b : Nat) (f : Block → Block) : (s.modBlock b f).nextId = s.nextId := rfl
@[simp] theorem modBlock_freeCount (s : State) (b : Nat) (f : Block → Block) : (s.modBlock b f).freeCount = s.freeCount := rfl
@[simp] theorem modBlock_agenda (s : State) (b : Nat) (f : Block → Block) : (s.modBlock b f).agenda = s.agenda := rfl
@[simp] theorem modBlock_cur (s : State) (b : Nat) (f : Block → Block) : (s.modBlock b f).cur = s.cur := rfl
@[simp] theorem modBlock_agentMons (s : State) (b : Nat) (f : Block → Block) : (s.modBlock b f).agentMons = s.agentMons := rfl
@[simp] theorem modBlock_ran (s : State) (b : Nat) (f : Block → Block) : (s.modBlock b f).ran = s.ran := rfl
@[simp] theorem modBlock_ranClk (s : State) (b : Nat) (f : Block → Block) : (s.modBlock b f).ranClk = s.ranClk := rfl
@[simp] theorem modBlock_ranPc (s : State) (b : Nat) (f : Block → Block) : (s.modBlock b f).ranPc = s.ranPc := rfl

/-! ### State.modWave -/
@[simp] theorem modWave_mem (s : State) (b w : Nat) (f : Wave → Wave) : (s.modWave b w f).mem = s.mem := rfl
@[simp] theorem modWave_memFail (s : State) (b w : Nat) (f : Wave → Wave) : (s.modWave b w f).memFail = s.memFail := rfl
@[simp] theorem modWave_memBad (s : State) (b w : Nat) (f : Wave → Wave) : (s.modWave b w f).memBad = s.memBad := rfl
@[simp] theorem modWave_l2Lost (s : State) (b w : Nat) (f : Wave → Wave) : (s.modWave b w f).l2Lost = s.l2Lost := rfl
@[simp] theorem modWave_l2Fail (s : State) (b w : Nat) (f : Wave → Wave) : (s.modWave b w f).l2Fail = s.l2Fail := rfl
@[simp] theorem modWave_race (s : State) (b w : Nat) (f : Wave → Wave) : (s.modWave b w f).race = s.race := rfl
@[simp] theorem modWave_raceBlk (s : State) (b w : Nat) (f : Wave → Wave) : (s.modWave b w f).raceBlk = s.raceBlk := rfl
@[simp] theorem modWave_sync (s : State) (b w : Nat) (f : Wave → Wave) : (s.modWave b w f).sync = s.sync := rfl
@[simp] theorem modWave_preds (s : State) (b w : Nat) (f : Wave → Wave) : (s.modWave b w f).preds = s.preds := rfl
@[simp] theorem modWave_monitors (s : State) (b w : Nat) (f : Wave → Wave) : (s.modWave b w f).monitors = s.monitors := rfl
@[simp] theorem modWave_tlb (s : State) (b w : Nat) (f : Wave → Wave) : (s.modWave b w f).tlb = s.tlb := rfl
@[simp] theorem modWave_walks (s : State) (b w : Nat) (f : Wave → Wave) : (s.modWave b w f).walks = s.walks := rfl
@[simp] theorem modWave_ctxs (s : State) (b w : Nat) (f : Wave → Wave) : (s.modWave b w f).ctxs = s.ctxs := rfl
@[simp] theorem modWave_launches (s : State) (b w : Nat) (f : Wave → Wave) : (s.modWave b w f).launches = s.launches := rfl
@[simp] theorem modWave_cores (s : State) (b w : Nat) (f : Wave → Wave) : (s.modWave b w f).cores = s.cores := rfl
@[simp] theorem modWave_graphs (s : State) (b w : Nat) (f : Wave → Wave) : (s.modWave b w f).graphs = s.graphs := rfl
@[simp] theorem modWave_entries (s : State) (b w : Nat) (f : Wave → Wave) : (s.modWave b w f).entries = s.entries := rfl
@[simp] theorem modWave_openBatches (s : State) (b w : Nat) (f : Wave → Wave) : (s.modWave b w f).openBatches = s.openBatches := rfl
@[simp] theorem modWave_closedBatches (s : State) (b w : Nat) (f : Wave → Wave) : (s.modWave b w f).closedBatches = s.closedBatches := rfl
@[simp] theorem modWave_sendReqs (s : State) (b w : Nat) (f : Wave → Wave) : (s.modWave b w f).sendReqs = s.sendReqs := rfl
@[simp] theorem modWave_atomReqs (s : State) (b w : Nat) (f : Wave → Wave) : (s.modWave b w f).atomReqs = s.atomReqs := rfl
@[simp] theorem modWave_sumac (s : State) (b w : Nat) (f : Wave → Wave) : (s.modWave b w f).sumac = s.sumac := rfl
@[simp] theorem modWave_reports (s : State) (b w : Nat) (f : Wave → Wave) : (s.modWave b w f).reports = s.reports := rfl
@[simp] theorem modWave_atomLog (s : State) (b w : Nat) (f : Wave → Wave) : (s.modWave b w f).atomLog = s.atomLog := rfl
@[simp] theorem modWave_logOver (s : State) (b w : Nat) (f : Wave → Wave) : (s.modWave b w f).logOver = s.logOver := rfl
@[simp] theorem modWave_peerReqs (s : State) (b w : Nat) (f : Wave → Wave) : (s.modWave b w f).peerReqs = s.peerReqs := rfl
@[simp] theorem modWave_peerMem (s : State) (b w : Nat) (f : Wave → Wave) : (s.modWave b w f).peerMem = s.peerMem := rfl
@[simp] theorem modWave_zwbs (s : State) (b w : Nat) (f : Wave → Wave) : (s.modWave b w f).zwbs = s.zwbs := rfl
@[simp] theorem modWave_replayLines (s : State) (b w : Nat) (f : Wave → Wave) : (s.modWave b w f).replayLines = s.replayLines := rfl
@[simp] theorem modWave_replaySegs (s : State) (b w : Nat) (f : Wave → Wave) : (s.modWave b w f).replaySegs = s.replaySegs := rfl
@[simp] theorem modWave_dev (s : State) (b w : Nat) (f : Wave → Wave) : (s.modWave b w f).dev = s.dev := rfl
@[simp] theorem modWave_clk (s : State) (b w : Nat) (f : Wave → Wave) : (s.modWave b w f).clk = s.clk := rfl
@[simp] theorem modWave_raw (s : State) (b w : Nat) (f : Wave → Wave) : (s.modWave b w f).raw = s.raw := rfl
@[simp] theorem modWave_ticks (s : State) (b w : Nat) (f : Wave → Wave) : (s.modWave b w f).ticks = s.ticks := rfl
@[simp] theorem modWave_nextId (s : State) (b w : Nat) (f : Wave → Wave) : (s.modWave b w f).nextId = s.nextId := rfl
@[simp] theorem modWave_freeCount (s : State) (b w : Nat) (f : Wave → Wave) : (s.modWave b w f).freeCount = s.freeCount := rfl
@[simp] theorem modWave_agenda (s : State) (b w : Nat) (f : Wave → Wave) : (s.modWave b w f).agenda = s.agenda := rfl
@[simp] theorem modWave_cur (s : State) (b w : Nat) (f : Wave → Wave) : (s.modWave b w f).cur = s.cur := rfl
@[simp] theorem modWave_agentMons (s : State) (b w : Nat) (f : Wave → Wave) : (s.modWave b w f).agentMons = s.agentMons := rfl
@[simp] theorem modWave_ran (s : State) (b w : Nat) (f : Wave → Wave) : (s.modWave b w f).ran = s.ran := rfl
@[simp] theorem modWave_ranClk (s : State) (b w : Nat) (f : Wave → Wave) : (s.modWave b w f).ranClk = s.ranClk := rfl
@[simp] theorem modWave_ranPc (s : State) (b w : Nat) (f : Wave → Wave) : (s.modWave b w f).ranPc = s.ranPc := rfl

/-! ### State.modArm -/
@[simp] theorem modArm_mem (s : State) (u : Cursor) (f : Arm → Arm) : (s.modArm u f).mem = s.mem := rfl
@[simp] theorem modArm_memFail (s : State) (u : Cursor) (f : Arm → Arm) : (s.modArm u f).memFail = s.memFail := rfl
@[simp] theorem modArm_memBad (s : State) (u : Cursor) (f : Arm → Arm) : (s.modArm u f).memBad = s.memBad := rfl
@[simp] theorem modArm_l2Lost (s : State) (u : Cursor) (f : Arm → Arm) : (s.modArm u f).l2Lost = s.l2Lost := rfl
@[simp] theorem modArm_l2Fail (s : State) (u : Cursor) (f : Arm → Arm) : (s.modArm u f).l2Fail = s.l2Fail := rfl
@[simp] theorem modArm_race (s : State) (u : Cursor) (f : Arm → Arm) : (s.modArm u f).race = s.race := rfl
@[simp] theorem modArm_raceBlk (s : State) (u : Cursor) (f : Arm → Arm) : (s.modArm u f).raceBlk = s.raceBlk := rfl
@[simp] theorem modArm_sync (s : State) (u : Cursor) (f : Arm → Arm) : (s.modArm u f).sync = s.sync := rfl
@[simp] theorem modArm_preds (s : State) (u : Cursor) (f : Arm → Arm) : (s.modArm u f).preds = s.preds := rfl
@[simp] theorem modArm_monitors (s : State) (u : Cursor) (f : Arm → Arm) : (s.modArm u f).monitors = s.monitors := rfl
@[simp] theorem modArm_tlb (s : State) (u : Cursor) (f : Arm → Arm) : (s.modArm u f).tlb = s.tlb := rfl
@[simp] theorem modArm_walks (s : State) (u : Cursor) (f : Arm → Arm) : (s.modArm u f).walks = s.walks := rfl
@[simp] theorem modArm_ctxs (s : State) (u : Cursor) (f : Arm → Arm) : (s.modArm u f).ctxs = s.ctxs := rfl
@[simp] theorem modArm_launches (s : State) (u : Cursor) (f : Arm → Arm) : (s.modArm u f).launches = s.launches := rfl
@[simp] theorem modArm_cores (s : State) (u : Cursor) (f : Arm → Arm) : (s.modArm u f).cores = s.cores := rfl
@[simp] theorem modArm_graphs (s : State) (u : Cursor) (f : Arm → Arm) : (s.modArm u f).graphs = s.graphs := rfl
@[simp] theorem modArm_entries (s : State) (u : Cursor) (f : Arm → Arm) : (s.modArm u f).entries = s.entries := rfl
@[simp] theorem modArm_openBatches (s : State) (u : Cursor) (f : Arm → Arm) : (s.modArm u f).openBatches = s.openBatches := rfl
@[simp] theorem modArm_closedBatches (s : State) (u : Cursor) (f : Arm → Arm) : (s.modArm u f).closedBatches = s.closedBatches := rfl
@[simp] theorem modArm_sendReqs (s : State) (u : Cursor) (f : Arm → Arm) : (s.modArm u f).sendReqs = s.sendReqs := rfl
@[simp] theorem modArm_atomReqs (s : State) (u : Cursor) (f : Arm → Arm) : (s.modArm u f).atomReqs = s.atomReqs := rfl
@[simp] theorem modArm_sumac (s : State) (u : Cursor) (f : Arm → Arm) : (s.modArm u f).sumac = s.sumac := rfl
@[simp] theorem modArm_reports (s : State) (u : Cursor) (f : Arm → Arm) : (s.modArm u f).reports = s.reports := rfl
@[simp] theorem modArm_atomLog (s : State) (u : Cursor) (f : Arm → Arm) : (s.modArm u f).atomLog = s.atomLog := rfl
@[simp] theorem modArm_logOver (s : State) (u : Cursor) (f : Arm → Arm) : (s.modArm u f).logOver = s.logOver := rfl
@[simp] theorem modArm_peerReqs (s : State) (u : Cursor) (f : Arm → Arm) : (s.modArm u f).peerReqs = s.peerReqs := rfl
@[simp] theorem modArm_peerMem (s : State) (u : Cursor) (f : Arm → Arm) : (s.modArm u f).peerMem = s.peerMem := rfl
@[simp] theorem modArm_zwbs (s : State) (u : Cursor) (f : Arm → Arm) : (s.modArm u f).zwbs = s.zwbs := rfl
@[simp] theorem modArm_replayLines (s : State) (u : Cursor) (f : Arm → Arm) : (s.modArm u f).replayLines = s.replayLines := rfl
@[simp] theorem modArm_replaySegs (s : State) (u : Cursor) (f : Arm → Arm) : (s.modArm u f).replaySegs = s.replaySegs := rfl
@[simp] theorem modArm_dev (s : State) (u : Cursor) (f : Arm → Arm) : (s.modArm u f).dev = s.dev := rfl
@[simp] theorem modArm_clk (s : State) (u : Cursor) (f : Arm → Arm) : (s.modArm u f).clk = s.clk := rfl
@[simp] theorem modArm_raw (s : State) (u : Cursor) (f : Arm → Arm) : (s.modArm u f).raw = s.raw := rfl
@[simp] theorem modArm_ticks (s : State) (u : Cursor) (f : Arm → Arm) : (s.modArm u f).ticks = s.ticks := rfl
@[simp] theorem modArm_nextId (s : State) (u : Cursor) (f : Arm → Arm) : (s.modArm u f).nextId = s.nextId := rfl
@[simp] theorem modArm_freeCount (s : State) (u : Cursor) (f : Arm → Arm) : (s.modArm u f).freeCount = s.freeCount := rfl
@[simp] theorem modArm_agenda (s : State) (u : Cursor) (f : Arm → Arm) : (s.modArm u f).agenda = s.agenda := rfl
@[simp] theorem modArm_cur (s : State) (u : Cursor) (f : Arm → Arm) : (s.modArm u f).cur = s.cur := rfl
@[simp] theorem modArm_agentMons (s : State) (u : Cursor) (f : Arm → Arm) : (s.modArm u f).agentMons = s.agentMons := rfl
@[simp] theorem modArm_ran (s : State) (u : Cursor) (f : Arm → Arm) : (s.modArm u f).ran = s.ran := rfl
@[simp] theorem modArm_ranClk (s : State) (u : Cursor) (f : Arm → Arm) : (s.modArm u f).ranClk = s.ranClk := rfl
@[simp] theorem modArm_ranPc (s : State) (u : Cursor) (f : Arm → Arm) : (s.modArm u f).ranPc = s.ranPc := rfl

/-! ### State.advance -/
@[simp] theorem advance_mem (s : State) (u : Cursor) (pc : DWord) : (s.advance u pc).mem = s.mem := rfl
@[simp] theorem advance_memFail (s : State) (u : Cursor) (pc : DWord) : (s.advance u pc).memFail = s.memFail := rfl
@[simp] theorem advance_memBad (s : State) (u : Cursor) (pc : DWord) : (s.advance u pc).memBad = s.memBad := rfl
@[simp] theorem advance_l2Lost (s : State) (u : Cursor) (pc : DWord) : (s.advance u pc).l2Lost = s.l2Lost := rfl
@[simp] theorem advance_l2Fail (s : State) (u : Cursor) (pc : DWord) : (s.advance u pc).l2Fail = s.l2Fail := rfl
@[simp] theorem advance_race (s : State) (u : Cursor) (pc : DWord) : (s.advance u pc).race = s.race := rfl
@[simp] theorem advance_raceBlk (s : State) (u : Cursor) (pc : DWord) : (s.advance u pc).raceBlk = s.raceBlk := rfl
@[simp] theorem advance_sync (s : State) (u : Cursor) (pc : DWord) : (s.advance u pc).sync = s.sync := rfl
@[simp] theorem advance_preds (s : State) (u : Cursor) (pc : DWord) : (s.advance u pc).preds = s.preds := rfl
@[simp] theorem advance_monitors (s : State) (u : Cursor) (pc : DWord) : (s.advance u pc).monitors = s.monitors := rfl
@[simp] theorem advance_tlb (s : State) (u : Cursor) (pc : DWord) : (s.advance u pc).tlb = s.tlb := rfl
@[simp] theorem advance_walks (s : State) (u : Cursor) (pc : DWord) : (s.advance u pc).walks = s.walks := rfl
@[simp] theorem advance_ctxs (s : State) (u : Cursor) (pc : DWord) : (s.advance u pc).ctxs = s.ctxs := rfl
@[simp] theorem advance_launches (s : State) (u : Cursor) (pc : DWord) : (s.advance u pc).launches = s.launches := rfl
@[simp] theorem advance_cores (s : State) (u : Cursor) (pc : DWord) : (s.advance u pc).cores = s.cores := rfl
@[simp] theorem advance_graphs (s : State) (u : Cursor) (pc : DWord) : (s.advance u pc).graphs = s.graphs := rfl
@[simp] theorem advance_entries (s : State) (u : Cursor) (pc : DWord) : (s.advance u pc).entries = s.entries := rfl
@[simp] theorem advance_openBatches (s : State) (u : Cursor) (pc : DWord) : (s.advance u pc).openBatches = s.openBatches := rfl
@[simp] theorem advance_closedBatches (s : State) (u : Cursor) (pc : DWord) : (s.advance u pc).closedBatches = s.closedBatches := rfl
@[simp] theorem advance_sendReqs (s : State) (u : Cursor) (pc : DWord) : (s.advance u pc).sendReqs = s.sendReqs := rfl
@[simp] theorem advance_atomReqs (s : State) (u : Cursor) (pc : DWord) : (s.advance u pc).atomReqs = s.atomReqs := rfl
@[simp] theorem advance_sumac (s : State) (u : Cursor) (pc : DWord) : (s.advance u pc).sumac = s.sumac := rfl
@[simp] theorem advance_reports (s : State) (u : Cursor) (pc : DWord) : (s.advance u pc).reports = s.reports := rfl
@[simp] theorem advance_atomLog (s : State) (u : Cursor) (pc : DWord) : (s.advance u pc).atomLog = s.atomLog := rfl
@[simp] theorem advance_logOver (s : State) (u : Cursor) (pc : DWord) : (s.advance u pc).logOver = s.logOver := rfl
@[simp] theorem advance_peerReqs (s : State) (u : Cursor) (pc : DWord) : (s.advance u pc).peerReqs = s.peerReqs := rfl
@[simp] theorem advance_peerMem (s : State) (u : Cursor) (pc : DWord) : (s.advance u pc).peerMem = s.peerMem := rfl
@[simp] theorem advance_zwbs (s : State) (u : Cursor) (pc : DWord) : (s.advance u pc).zwbs = s.zwbs := rfl
@[simp] theorem advance_replayLines (s : State) (u : Cursor) (pc : DWord) : (s.advance u pc).replayLines = s.replayLines := rfl
@[simp] theorem advance_replaySegs (s : State) (u : Cursor) (pc : DWord) : (s.advance u pc).replaySegs = s.replaySegs := rfl
@[simp] theorem advance_dev (s : State) (u : Cursor) (pc : DWord) : (s.advance u pc).dev = s.dev := rfl
@[simp] theorem advance_clk (s : State) (u : Cursor) (pc : DWord) : (s.advance u pc).clk = s.clk := rfl
@[simp] theorem advance_raw (s : State) (u : Cursor) (pc : DWord) : (s.advance u pc).raw = s.raw := rfl
@[simp] theorem advance_ticks (s : State) (u : Cursor) (pc : DWord) : (s.advance u pc).ticks = s.ticks := rfl
@[simp] theorem advance_nextId (s : State) (u : Cursor) (pc : DWord) : (s.advance u pc).nextId = s.nextId := rfl
@[simp] theorem advance_freeCount (s : State) (u : Cursor) (pc : DWord) : (s.advance u pc).freeCount = s.freeCount := rfl
@[simp] theorem advance_agenda (s : State) (u : Cursor) (pc : DWord) : (s.advance u pc).agenda = s.agenda := rfl
@[simp] theorem advance_cur (s : State) (u : Cursor) (pc : DWord) : (s.advance u pc).cur = s.cur := rfl
@[simp] theorem advance_agentMons (s : State) (u : Cursor) (pc : DWord) : (s.advance u pc).agentMons = s.agentMons := rfl
@[simp] theorem advance_ran (s : State) (u : Cursor) (pc : DWord) : (s.advance u pc).ran = s.ran := rfl
@[simp] theorem advance_ranClk (s : State) (u : Cursor) (pc : DWord) : (s.advance u pc).ranClk = s.ranClk := rfl
@[simp] theorem advance_ranPc (s : State) (u : Cursor) (pc : DWord) : (s.advance u pc).ranPc = s.ranPc := rfl

/-! ### State.modLaunch -/
@[simp] theorem modLaunch_mem (s : State) (l : Nat) (f : Launch → Launch) : (s.modLaunch l f).mem = s.mem := rfl
@[simp] theorem modLaunch_memFail (s : State) (l : Nat) (f : Launch → Launch) : (s.modLaunch l f).memFail = s.memFail := rfl
@[simp] theorem modLaunch_memBad (s : State) (l : Nat) (f : Launch → Launch) : (s.modLaunch l f).memBad = s.memBad := rfl
@[simp] theorem modLaunch_l2Lost (s : State) (l : Nat) (f : Launch → Launch) : (s.modLaunch l f).l2Lost = s.l2Lost := rfl
@[simp] theorem modLaunch_l2Fail (s : State) (l : Nat) (f : Launch → Launch) : (s.modLaunch l f).l2Fail = s.l2Fail := rfl
@[simp] theorem modLaunch_race (s : State) (l : Nat) (f : Launch → Launch) : (s.modLaunch l f).race = s.race := rfl
@[simp] theorem modLaunch_raceBlk (s : State) (l : Nat) (f : Launch → Launch) : (s.modLaunch l f).raceBlk = s.raceBlk := rfl
@[simp] theorem modLaunch_sync (s : State) (l : Nat) (f : Launch → Launch) : (s.modLaunch l f).sync = s.sync := rfl
@[simp] theorem modLaunch_preds (s : State) (l : Nat) (f : Launch → Launch) : (s.modLaunch l f).preds = s.preds := rfl
@[simp] theorem modLaunch_monitors (s : State) (l : Nat) (f : Launch → Launch) : (s.modLaunch l f).monitors = s.monitors := rfl
@[simp] theorem modLaunch_tlb (s : State) (l : Nat) (f : Launch → Launch) : (s.modLaunch l f).tlb = s.tlb := rfl
@[simp] theorem modLaunch_walks (s : State) (l : Nat) (f : Launch → Launch) : (s.modLaunch l f).walks = s.walks := rfl
@[simp] theorem modLaunch_ctxs (s : State) (l : Nat) (f : Launch → Launch) : (s.modLaunch l f).ctxs = s.ctxs := rfl
@[simp] theorem modLaunch_blocks (s : State) (l : Nat) (f : Launch → Launch) : (s.modLaunch l f).blocks = s.blocks := rfl
@[simp] theorem modLaunch_cores (s : State) (l : Nat) (f : Launch → Launch) : (s.modLaunch l f).cores = s.cores := rfl
@[simp] theorem modLaunch_graphs (s : State) (l : Nat) (f : Launch → Launch) : (s.modLaunch l f).graphs = s.graphs := rfl
@[simp] theorem modLaunch_entries (s : State) (l : Nat) (f : Launch → Launch) : (s.modLaunch l f).entries = s.entries := rfl
@[simp] theorem modLaunch_openBatches (s : State) (l : Nat) (f : Launch → Launch) : (s.modLaunch l f).openBatches = s.openBatches := rfl
@[simp] theorem modLaunch_closedBatches (s : State) (l : Nat) (f : Launch → Launch) : (s.modLaunch l f).closedBatches = s.closedBatches := rfl
@[simp] theorem modLaunch_sendReqs (s : State) (l : Nat) (f : Launch → Launch) : (s.modLaunch l f).sendReqs = s.sendReqs := rfl
@[simp] theorem modLaunch_atomReqs (s : State) (l : Nat) (f : Launch → Launch) : (s.modLaunch l f).atomReqs = s.atomReqs := rfl
@[simp] theorem modLaunch_sumac (s : State) (l : Nat) (f : Launch → Launch) : (s.modLaunch l f).sumac = s.sumac := rfl
@[simp] theorem modLaunch_reports (s : State) (l : Nat) (f : Launch → Launch) : (s.modLaunch l f).reports = s.reports := rfl
@[simp] theorem modLaunch_atomLog (s : State) (l : Nat) (f : Launch → Launch) : (s.modLaunch l f).atomLog = s.atomLog := rfl
@[simp] theorem modLaunch_logOver (s : State) (l : Nat) (f : Launch → Launch) : (s.modLaunch l f).logOver = s.logOver := rfl
@[simp] theorem modLaunch_peerReqs (s : State) (l : Nat) (f : Launch → Launch) : (s.modLaunch l f).peerReqs = s.peerReqs := rfl
@[simp] theorem modLaunch_peerMem (s : State) (l : Nat) (f : Launch → Launch) : (s.modLaunch l f).peerMem = s.peerMem := rfl
@[simp] theorem modLaunch_zwbs (s : State) (l : Nat) (f : Launch → Launch) : (s.modLaunch l f).zwbs = s.zwbs := rfl
@[simp] theorem modLaunch_replayLines (s : State) (l : Nat) (f : Launch → Launch) : (s.modLaunch l f).replayLines = s.replayLines := rfl
@[simp] theorem modLaunch_replaySegs (s : State) (l : Nat) (f : Launch → Launch) : (s.modLaunch l f).replaySegs = s.replaySegs := rfl
@[simp] theorem modLaunch_dev (s : State) (l : Nat) (f : Launch → Launch) : (s.modLaunch l f).dev = s.dev := rfl
@[simp] theorem modLaunch_clk (s : State) (l : Nat) (f : Launch → Launch) : (s.modLaunch l f).clk = s.clk := rfl
@[simp] theorem modLaunch_raw (s : State) (l : Nat) (f : Launch → Launch) : (s.modLaunch l f).raw = s.raw := rfl
@[simp] theorem modLaunch_ticks (s : State) (l : Nat) (f : Launch → Launch) : (s.modLaunch l f).ticks = s.ticks := rfl
@[simp] theorem modLaunch_nextId (s : State) (l : Nat) (f : Launch → Launch) : (s.modLaunch l f).nextId = s.nextId := rfl
@[simp] theorem modLaunch_freeCount (s : State) (l : Nat) (f : Launch → Launch) : (s.modLaunch l f).freeCount = s.freeCount := rfl
@[simp] theorem modLaunch_agenda (s : State) (l : Nat) (f : Launch → Launch) : (s.modLaunch l f).agenda = s.agenda := rfl
@[simp] theorem modLaunch_cur (s : State) (l : Nat) (f : Launch → Launch) : (s.modLaunch l f).cur = s.cur := rfl
@[simp] theorem modLaunch_agentMons (s : State) (l : Nat) (f : Launch → Launch) : (s.modLaunch l f).agentMons = s.agentMons := rfl
@[simp] theorem modLaunch_ran (s : State) (l : Nat) (f : Launch → Launch) : (s.modLaunch l f).ran = s.ran := rfl
@[simp] theorem modLaunch_ranClk (s : State) (l : Nat) (f : Launch → Launch) : (s.modLaunch l f).ranClk = s.ranClk := rfl
@[simp] theorem modLaunch_ranPc (s : State) (l : Nat) (f : Launch → Launch) : (s.modLaunch l f).ranPc = s.ranPc := rfl

/-! ### State.modGang -/
@[simp] theorem modGang_mem (s : State) (l g : Nat) (f : Gang → Gang) : (s.modGang l g f).mem = s.mem := rfl
@[simp] theorem modGang_memFail (s : State) (l g : Nat) (f : Gang → Gang) : (s.modGang l g f).memFail = s.memFail := rfl
@[simp] theorem modGang_memBad (s : State) (l g : Nat) (f : Gang → Gang) : (s.modGang l g f).memBad = s.memBad := rfl
@[simp] theorem modGang_l2Lost (s : State) (l g : Nat) (f : Gang → Gang) : (s.modGang l g f).l2Lost = s.l2Lost := rfl
@[simp] theorem modGang_l2Fail (s : State) (l g : Nat) (f : Gang → Gang) : (s.modGang l g f).l2Fail = s.l2Fail := rfl
@[simp] theorem modGang_race (s : State) (l g : Nat) (f : Gang → Gang) : (s.modGang l g f).race = s.race := rfl
@[simp] theorem modGang_raceBlk (s : State) (l g : Nat) (f : Gang → Gang) : (s.modGang l g f).raceBlk = s.raceBlk := rfl
@[simp] theorem modGang_sync (s : State) (l g : Nat) (f : Gang → Gang) : (s.modGang l g f).sync = s.sync := rfl
@[simp] theorem modGang_preds (s : State) (l g : Nat) (f : Gang → Gang) : (s.modGang l g f).preds = s.preds := rfl
@[simp] theorem modGang_monitors (s : State) (l g : Nat) (f : Gang → Gang) : (s.modGang l g f).monitors = s.monitors := rfl
@[simp] theorem modGang_tlb (s : State) (l g : Nat) (f : Gang → Gang) : (s.modGang l g f).tlb = s.tlb := rfl
@[simp] theorem modGang_walks (s : State) (l g : Nat) (f : Gang → Gang) : (s.modGang l g f).walks = s.walks := rfl
@[simp] theorem modGang_ctxs (s : State) (l g : Nat) (f : Gang → Gang) : (s.modGang l g f).ctxs = s.ctxs := rfl
@[simp] theorem modGang_blocks (s : State) (l g : Nat) (f : Gang → Gang) : (s.modGang l g f).blocks = s.blocks := rfl
@[simp] theorem modGang_cores (s : State) (l g : Nat) (f : Gang → Gang) : (s.modGang l g f).cores = s.cores := rfl
@[simp] theorem modGang_graphs (s : State) (l g : Nat) (f : Gang → Gang) : (s.modGang l g f).graphs = s.graphs := rfl
@[simp] theorem modGang_entries (s : State) (l g : Nat) (f : Gang → Gang) : (s.modGang l g f).entries = s.entries := rfl
@[simp] theorem modGang_openBatches (s : State) (l g : Nat) (f : Gang → Gang) : (s.modGang l g f).openBatches = s.openBatches := rfl
@[simp] theorem modGang_closedBatches (s : State) (l g : Nat) (f : Gang → Gang) : (s.modGang l g f).closedBatches = s.closedBatches := rfl
@[simp] theorem modGang_sendReqs (s : State) (l g : Nat) (f : Gang → Gang) : (s.modGang l g f).sendReqs = s.sendReqs := rfl
@[simp] theorem modGang_atomReqs (s : State) (l g : Nat) (f : Gang → Gang) : (s.modGang l g f).atomReqs = s.atomReqs := rfl
@[simp] theorem modGang_sumac (s : State) (l g : Nat) (f : Gang → Gang) : (s.modGang l g f).sumac = s.sumac := rfl
@[simp] theorem modGang_reports (s : State) (l g : Nat) (f : Gang → Gang) : (s.modGang l g f).reports = s.reports := rfl
@[simp] theorem modGang_atomLog (s : State) (l g : Nat) (f : Gang → Gang) : (s.modGang l g f).atomLog = s.atomLog := rfl
@[simp] theorem modGang_logOver (s : State) (l g : Nat) (f : Gang → Gang) : (s.modGang l g f).logOver = s.logOver := rfl
@[simp] theorem modGang_peerReqs (s : State) (l g : Nat) (f : Gang → Gang) : (s.modGang l g f).peerReqs = s.peerReqs := rfl
@[simp] theorem modGang_peerMem (s : State) (l g : Nat) (f : Gang → Gang) : (s.modGang l g f).peerMem = s.peerMem := rfl
@[simp] theorem modGang_zwbs (s : State) (l g : Nat) (f : Gang → Gang) : (s.modGang l g f).zwbs = s.zwbs := rfl
@[simp] theorem modGang_replayLines (s : State) (l g : Nat) (f : Gang → Gang) : (s.modGang l g f).replayLines = s.replayLines := rfl
@[simp] theorem modGang_replaySegs (s : State) (l g : Nat) (f : Gang → Gang) : (s.modGang l g f).replaySegs = s.replaySegs := rfl
@[simp] theorem modGang_dev (s : State) (l g : Nat) (f : Gang → Gang) : (s.modGang l g f).dev = s.dev := rfl
@[simp] theorem modGang_clk (s : State) (l g : Nat) (f : Gang → Gang) : (s.modGang l g f).clk = s.clk := rfl
@[simp] theorem modGang_raw (s : State) (l g : Nat) (f : Gang → Gang) : (s.modGang l g f).raw = s.raw := rfl
@[simp] theorem modGang_ticks (s : State) (l g : Nat) (f : Gang → Gang) : (s.modGang l g f).ticks = s.ticks := rfl
@[simp] theorem modGang_nextId (s : State) (l g : Nat) (f : Gang → Gang) : (s.modGang l g f).nextId = s.nextId := rfl
@[simp] theorem modGang_freeCount (s : State) (l g : Nat) (f : Gang → Gang) : (s.modGang l g f).freeCount = s.freeCount := rfl
@[simp] theorem modGang_agenda (s : State) (l g : Nat) (f : Gang → Gang) : (s.modGang l g f).agenda = s.agenda := rfl
@[simp] theorem modGang_cur (s : State) (l g : Nat) (f : Gang → Gang) : (s.modGang l g f).cur = s.cur := rfl
@[simp] theorem modGang_agentMons (s : State) (l g : Nat) (f : Gang → Gang) : (s.modGang l g f).agentMons = s.agentMons := rfl
@[simp] theorem modGang_ran (s : State) (l g : Nat) (f : Gang → Gang) : (s.modGang l g f).ran = s.ran := rfl
@[simp] theorem modGang_ranClk (s : State) (l g : Nat) (f : Gang → Gang) : (s.modGang l g f).ranClk = s.ranClk := rfl
@[simp] theorem modGang_ranPc (s : State) (l g : Nat) (f : Gang → Gang) : (s.modGang l g f).ranPc = s.ranPc := rfl

/-! ### State.modCtx -/
@[simp] theorem modCtx_mem (s : State) (x : Nat) (f : Context → Context) : (s.modCtx x f).mem = s.mem := rfl
@[simp] theorem modCtx_memFail (s : State) (x : Nat) (f : Context → Context) : (s.modCtx x f).memFail = s.memFail := rfl
@[simp] theorem modCtx_memBad (s : State) (x : Nat) (f : Context → Context) : (s.modCtx x f).memBad = s.memBad := rfl
@[simp] theorem modCtx_l2Lost (s : State) (x : Nat) (f : Context → Context) : (s.modCtx x f).l2Lost = s.l2Lost := rfl
@[simp] theorem modCtx_l2Fail (s : State) (x : Nat) (f : Context → Context) : (s.modCtx x f).l2Fail = s.l2Fail := rfl
@[simp] theorem modCtx_race (s : State) (x : Nat) (f : Context → Context) : (s.modCtx x f).race = s.race := rfl
@[simp] theorem modCtx_raceBlk (s : State) (x : Nat) (f : Context → Context) : (s.modCtx x f).raceBlk = s.raceBlk := rfl
@[simp] theorem modCtx_sync (s : State) (x : Nat) (f : Context → Context) : (s.modCtx x f).sync = s.sync := rfl
@[simp] theorem modCtx_preds (s : State) (x : Nat) (f : Context → Context) : (s.modCtx x f).preds = s.preds := rfl
@[simp] theorem modCtx_monitors (s : State) (x : Nat) (f : Context → Context) : (s.modCtx x f).monitors = s.monitors := rfl
@[simp] theorem modCtx_tlb (s : State) (x : Nat) (f : Context → Context) : (s.modCtx x f).tlb = s.tlb := rfl
@[simp] theorem modCtx_walks (s : State) (x : Nat) (f : Context → Context) : (s.modCtx x f).walks = s.walks := rfl
@[simp] theorem modCtx_launches (s : State) (x : Nat) (f : Context → Context) : (s.modCtx x f).launches = s.launches := rfl
@[simp] theorem modCtx_blocks (s : State) (x : Nat) (f : Context → Context) : (s.modCtx x f).blocks = s.blocks := rfl
@[simp] theorem modCtx_cores (s : State) (x : Nat) (f : Context → Context) : (s.modCtx x f).cores = s.cores := rfl
@[simp] theorem modCtx_graphs (s : State) (x : Nat) (f : Context → Context) : (s.modCtx x f).graphs = s.graphs := rfl
@[simp] theorem modCtx_entries (s : State) (x : Nat) (f : Context → Context) : (s.modCtx x f).entries = s.entries := rfl
@[simp] theorem modCtx_openBatches (s : State) (x : Nat) (f : Context → Context) : (s.modCtx x f).openBatches = s.openBatches := rfl
@[simp] theorem modCtx_closedBatches (s : State) (x : Nat) (f : Context → Context) : (s.modCtx x f).closedBatches = s.closedBatches := rfl
@[simp] theorem modCtx_sendReqs (s : State) (x : Nat) (f : Context → Context) : (s.modCtx x f).sendReqs = s.sendReqs := rfl
@[simp] theorem modCtx_atomReqs (s : State) (x : Nat) (f : Context → Context) : (s.modCtx x f).atomReqs = s.atomReqs := rfl
@[simp] theorem modCtx_sumac (s : State) (x : Nat) (f : Context → Context) : (s.modCtx x f).sumac = s.sumac := rfl
@[simp] theorem modCtx_reports (s : State) (x : Nat) (f : Context → Context) : (s.modCtx x f).reports = s.reports := rfl
@[simp] theorem modCtx_atomLog (s : State) (x : Nat) (f : Context → Context) : (s.modCtx x f).atomLog = s.atomLog := rfl
@[simp] theorem modCtx_logOver (s : State) (x : Nat) (f : Context → Context) : (s.modCtx x f).logOver = s.logOver := rfl
@[simp] theorem modCtx_peerReqs (s : State) (x : Nat) (f : Context → Context) : (s.modCtx x f).peerReqs = s.peerReqs := rfl
@[simp] theorem modCtx_peerMem (s : State) (x : Nat) (f : Context → Context) : (s.modCtx x f).peerMem = s.peerMem := rfl
@[simp] theorem modCtx_zwbs (s : State) (x : Nat) (f : Context → Context) : (s.modCtx x f).zwbs = s.zwbs := rfl
@[simp] theorem modCtx_replayLines (s : State) (x : Nat) (f : Context → Context) : (s.modCtx x f).replayLines = s.replayLines := rfl
@[simp] theorem modCtx_replaySegs (s : State) (x : Nat) (f : Context → Context) : (s.modCtx x f).replaySegs = s.replaySegs := rfl
@[simp] theorem modCtx_dev (s : State) (x : Nat) (f : Context → Context) : (s.modCtx x f).dev = s.dev := rfl
@[simp] theorem modCtx_clk (s : State) (x : Nat) (f : Context → Context) : (s.modCtx x f).clk = s.clk := rfl
@[simp] theorem modCtx_raw (s : State) (x : Nat) (f : Context → Context) : (s.modCtx x f).raw = s.raw := rfl
@[simp] theorem modCtx_ticks (s : State) (x : Nat) (f : Context → Context) : (s.modCtx x f).ticks = s.ticks := rfl
@[simp] theorem modCtx_nextId (s : State) (x : Nat) (f : Context → Context) : (s.modCtx x f).nextId = s.nextId := rfl
@[simp] theorem modCtx_freeCount (s : State) (x : Nat) (f : Context → Context) : (s.modCtx x f).freeCount = s.freeCount := rfl
@[simp] theorem modCtx_agenda (s : State) (x : Nat) (f : Context → Context) : (s.modCtx x f).agenda = s.agenda := rfl
@[simp] theorem modCtx_cur (s : State) (x : Nat) (f : Context → Context) : (s.modCtx x f).cur = s.cur := rfl
@[simp] theorem modCtx_agentMons (s : State) (x : Nat) (f : Context → Context) : (s.modCtx x f).agentMons = s.agentMons := rfl
@[simp] theorem modCtx_ran (s : State) (x : Nat) (f : Context → Context) : (s.modCtx x f).ran = s.ran := rfl
@[simp] theorem modCtx_ranClk (s : State) (x : Nat) (f : Context → Context) : (s.modCtx x f).ranClk = s.ranClk := rfl
@[simp] theorem modCtx_ranPc (s : State) (x : Nat) (f : Context → Context) : (s.modCtx x f).ranPc = s.ranPc := rfl

/-! ### State.modCore -/
@[simp] theorem modCore_mem (s : State) (c : Nat) (f : Core → Core) : (s.modCore c f).mem = s.mem := rfl
@[simp] theorem modCore_memFail (s : State) (c : Nat) (f : Core → Core) : (s.modCore c f).memFail = s.memFail := rfl
@[simp] theorem modCore_memBad (s : State) (c : Nat) (f : Core → Core) : (s.modCore c f).memBad = s.memBad := rfl
@[simp] theorem modCore_l2Lost (s : State) (c : Nat) (f : Core → Core) : (s.modCore c f).l2Lost = s.l2Lost := rfl
@[simp] theorem modCore_l2Fail (s : State) (c : Nat) (f : Core → Core) : (s.modCore c f).l2Fail = s.l2Fail := rfl
@[simp] theorem modCore_race (s : State) (c : Nat) (f : Core → Core) : (s.modCore c f).race = s.race := rfl
@[simp] theorem modCore_raceBlk (s : State) (c : Nat) (f : Core → Core) : (s.modCore c f).raceBlk = s.raceBlk := rfl
@[simp] theorem modCore_sync (s : State) (c : Nat) (f : Core → Core) : (s.modCore c f).sync = s.sync := rfl
@[simp] theorem modCore_preds (s : State) (c : Nat) (f : Core → Core) : (s.modCore c f).preds = s.preds := rfl
@[simp] theorem modCore_monitors (s : State) (c : Nat) (f : Core → Core) : (s.modCore c f).monitors = s.monitors := rfl
@[simp] theorem modCore_tlb (s : State) (c : Nat) (f : Core → Core) : (s.modCore c f).tlb = s.tlb := rfl
@[simp] theorem modCore_walks (s : State) (c : Nat) (f : Core → Core) : (s.modCore c f).walks = s.walks := rfl
@[simp] theorem modCore_ctxs (s : State) (c : Nat) (f : Core → Core) : (s.modCore c f).ctxs = s.ctxs := rfl
@[simp] theorem modCore_launches (s : State) (c : Nat) (f : Core → Core) : (s.modCore c f).launches = s.launches := rfl
@[simp] theorem modCore_blocks (s : State) (c : Nat) (f : Core → Core) : (s.modCore c f).blocks = s.blocks := rfl
@[simp] theorem modCore_graphs (s : State) (c : Nat) (f : Core → Core) : (s.modCore c f).graphs = s.graphs := rfl
@[simp] theorem modCore_entries (s : State) (c : Nat) (f : Core → Core) : (s.modCore c f).entries = s.entries := rfl
@[simp] theorem modCore_openBatches (s : State) (c : Nat) (f : Core → Core) : (s.modCore c f).openBatches = s.openBatches := rfl
@[simp] theorem modCore_closedBatches (s : State) (c : Nat) (f : Core → Core) : (s.modCore c f).closedBatches = s.closedBatches := rfl
@[simp] theorem modCore_sendReqs (s : State) (c : Nat) (f : Core → Core) : (s.modCore c f).sendReqs = s.sendReqs := rfl
@[simp] theorem modCore_atomReqs (s : State) (c : Nat) (f : Core → Core) : (s.modCore c f).atomReqs = s.atomReqs := rfl
@[simp] theorem modCore_sumac (s : State) (c : Nat) (f : Core → Core) : (s.modCore c f).sumac = s.sumac := rfl
@[simp] theorem modCore_reports (s : State) (c : Nat) (f : Core → Core) : (s.modCore c f).reports = s.reports := rfl
@[simp] theorem modCore_atomLog (s : State) (c : Nat) (f : Core → Core) : (s.modCore c f).atomLog = s.atomLog := rfl
@[simp] theorem modCore_logOver (s : State) (c : Nat) (f : Core → Core) : (s.modCore c f).logOver = s.logOver := rfl
@[simp] theorem modCore_peerReqs (s : State) (c : Nat) (f : Core → Core) : (s.modCore c f).peerReqs = s.peerReqs := rfl
@[simp] theorem modCore_peerMem (s : State) (c : Nat) (f : Core → Core) : (s.modCore c f).peerMem = s.peerMem := rfl
@[simp] theorem modCore_zwbs (s : State) (c : Nat) (f : Core → Core) : (s.modCore c f).zwbs = s.zwbs := rfl
@[simp] theorem modCore_replayLines (s : State) (c : Nat) (f : Core → Core) : (s.modCore c f).replayLines = s.replayLines := rfl
@[simp] theorem modCore_replaySegs (s : State) (c : Nat) (f : Core → Core) : (s.modCore c f).replaySegs = s.replaySegs := rfl
@[simp] theorem modCore_dev (s : State) (c : Nat) (f : Core → Core) : (s.modCore c f).dev = s.dev := rfl
@[simp] theorem modCore_clk (s : State) (c : Nat) (f : Core → Core) : (s.modCore c f).clk = s.clk := rfl
@[simp] theorem modCore_raw (s : State) (c : Nat) (f : Core → Core) : (s.modCore c f).raw = s.raw := rfl
@[simp] theorem modCore_ticks (s : State) (c : Nat) (f : Core → Core) : (s.modCore c f).ticks = s.ticks := rfl
@[simp] theorem modCore_nextId (s : State) (c : Nat) (f : Core → Core) : (s.modCore c f).nextId = s.nextId := rfl
@[simp] theorem modCore_freeCount (s : State) (c : Nat) (f : Core → Core) : (s.modCore c f).freeCount = s.freeCount := rfl
@[simp] theorem modCore_agenda (s : State) (c : Nat) (f : Core → Core) : (s.modCore c f).agenda = s.agenda := rfl
@[simp] theorem modCore_cur (s : State) (c : Nat) (f : Core → Core) : (s.modCore c f).cur = s.cur := rfl
@[simp] theorem modCore_agentMons (s : State) (c : Nat) (f : Core → Core) : (s.modCore c f).agentMons = s.agentMons := rfl
@[simp] theorem modCore_ran (s : State) (c : Nat) (f : Core → Core) : (s.modCore c f).ran = s.ran := rfl
@[simp] theorem modCore_ranClk (s : State) (c : Nat) (f : Core → Core) : (s.modCore c f).ranClk = s.ranClk := rfl
@[simp] theorem modCore_ranPc (s : State) (c : Nat) (f : Core → Core) : (s.modCore c f).ranPc = s.ranPc := rfl

/-! ### State.modDev -/
@[simp] theorem modDev_mem (s : State) (f : Dev → Dev) : (s.modDev f).mem = s.mem := rfl
@[simp] theorem modDev_memFail (s : State) (f : Dev → Dev) : (s.modDev f).memFail = s.memFail := rfl
@[simp] theorem modDev_memBad (s : State) (f : Dev → Dev) : (s.modDev f).memBad = s.memBad := rfl
@[simp] theorem modDev_l2Lost (s : State) (f : Dev → Dev) : (s.modDev f).l2Lost = s.l2Lost := rfl
@[simp] theorem modDev_l2Fail (s : State) (f : Dev → Dev) : (s.modDev f).l2Fail = s.l2Fail := rfl
@[simp] theorem modDev_race (s : State) (f : Dev → Dev) : (s.modDev f).race = s.race := rfl
@[simp] theorem modDev_raceBlk (s : State) (f : Dev → Dev) : (s.modDev f).raceBlk = s.raceBlk := rfl
@[simp] theorem modDev_sync (s : State) (f : Dev → Dev) : (s.modDev f).sync = s.sync := rfl
@[simp] theorem modDev_preds (s : State) (f : Dev → Dev) : (s.modDev f).preds = s.preds := rfl
@[simp] theorem modDev_monitors (s : State) (f : Dev → Dev) : (s.modDev f).monitors = s.monitors := rfl
@[simp] theorem modDev_tlb (s : State) (f : Dev → Dev) : (s.modDev f).tlb = s.tlb := rfl
@[simp] theorem modDev_walks (s : State) (f : Dev → Dev) : (s.modDev f).walks = s.walks := rfl
@[simp] theorem modDev_ctxs (s : State) (f : Dev → Dev) : (s.modDev f).ctxs = s.ctxs := rfl
@[simp] theorem modDev_launches (s : State) (f : Dev → Dev) : (s.modDev f).launches = s.launches := rfl
@[simp] theorem modDev_blocks (s : State) (f : Dev → Dev) : (s.modDev f).blocks = s.blocks := rfl
@[simp] theorem modDev_cores (s : State) (f : Dev → Dev) : (s.modDev f).cores = s.cores := rfl
@[simp] theorem modDev_graphs (s : State) (f : Dev → Dev) : (s.modDev f).graphs = s.graphs := rfl
@[simp] theorem modDev_entries (s : State) (f : Dev → Dev) : (s.modDev f).entries = s.entries := rfl
@[simp] theorem modDev_openBatches (s : State) (f : Dev → Dev) : (s.modDev f).openBatches = s.openBatches := rfl
@[simp] theorem modDev_closedBatches (s : State) (f : Dev → Dev) : (s.modDev f).closedBatches = s.closedBatches := rfl
@[simp] theorem modDev_sendReqs (s : State) (f : Dev → Dev) : (s.modDev f).sendReqs = s.sendReqs := rfl
@[simp] theorem modDev_atomReqs (s : State) (f : Dev → Dev) : (s.modDev f).atomReqs = s.atomReqs := rfl
@[simp] theorem modDev_sumac (s : State) (f : Dev → Dev) : (s.modDev f).sumac = s.sumac := rfl
@[simp] theorem modDev_reports (s : State) (f : Dev → Dev) : (s.modDev f).reports = s.reports := rfl
@[simp] theorem modDev_atomLog (s : State) (f : Dev → Dev) : (s.modDev f).atomLog = s.atomLog := rfl
@[simp] theorem modDev_logOver (s : State) (f : Dev → Dev) : (s.modDev f).logOver = s.logOver := rfl
@[simp] theorem modDev_peerReqs (s : State) (f : Dev → Dev) : (s.modDev f).peerReqs = s.peerReqs := rfl
@[simp] theorem modDev_peerMem (s : State) (f : Dev → Dev) : (s.modDev f).peerMem = s.peerMem := rfl
@[simp] theorem modDev_zwbs (s : State) (f : Dev → Dev) : (s.modDev f).zwbs = s.zwbs := rfl
@[simp] theorem modDev_replayLines (s : State) (f : Dev → Dev) : (s.modDev f).replayLines = s.replayLines := rfl
@[simp] theorem modDev_replaySegs (s : State) (f : Dev → Dev) : (s.modDev f).replaySegs = s.replaySegs := rfl
@[simp] theorem modDev_clk (s : State) (f : Dev → Dev) : (s.modDev f).clk = s.clk := rfl
@[simp] theorem modDev_raw (s : State) (f : Dev → Dev) : (s.modDev f).raw = s.raw := rfl
@[simp] theorem modDev_ticks (s : State) (f : Dev → Dev) : (s.modDev f).ticks = s.ticks := rfl
@[simp] theorem modDev_nextId (s : State) (f : Dev → Dev) : (s.modDev f).nextId = s.nextId := rfl
@[simp] theorem modDev_freeCount (s : State) (f : Dev → Dev) : (s.modDev f).freeCount = s.freeCount := rfl
@[simp] theorem modDev_agenda (s : State) (f : Dev → Dev) : (s.modDev f).agenda = s.agenda := rfl
@[simp] theorem modDev_cur (s : State) (f : Dev → Dev) : (s.modDev f).cur = s.cur := rfl
@[simp] theorem modDev_agentMons (s : State) (f : Dev → Dev) : (s.modDev f).agentMons = s.agentMons := rfl
@[simp] theorem modDev_ran (s : State) (f : Dev → Dev) : (s.modDev f).ran = s.ran := rfl
@[simp] theorem modDev_ranClk (s : State) (f : Dev → Dev) : (s.modDev f).ranClk = s.ranClk := rfl
@[simp] theorem modDev_ranPc (s : State) (f : Dev → Dev) : (s.modDev f).ranPc = s.ranPc := rfl

/-! ### State.modGraph -/
@[simp] theorem modGraph_mem (s : State) (g : Nat) (f : Graph → Graph) : (s.modGraph g f).mem = s.mem := rfl
@[simp] theorem modGraph_memFail (s : State) (g : Nat) (f : Graph → Graph) : (s.modGraph g f).memFail = s.memFail := rfl
@[simp] theorem modGraph_memBad (s : State) (g : Nat) (f : Graph → Graph) : (s.modGraph g f).memBad = s.memBad := rfl
@[simp] theorem modGraph_l2Lost (s : State) (g : Nat) (f : Graph → Graph) : (s.modGraph g f).l2Lost = s.l2Lost := rfl
@[simp] theorem modGraph_l2Fail (s : State) (g : Nat) (f : Graph → Graph) : (s.modGraph g f).l2Fail = s.l2Fail := rfl
@[simp] theorem modGraph_race (s : State) (g : Nat) (f : Graph → Graph) : (s.modGraph g f).race = s.race := rfl
@[simp] theorem modGraph_raceBlk (s : State) (g : Nat) (f : Graph → Graph) : (s.modGraph g f).raceBlk = s.raceBlk := rfl
@[simp] theorem modGraph_sync (s : State) (g : Nat) (f : Graph → Graph) : (s.modGraph g f).sync = s.sync := rfl
@[simp] theorem modGraph_preds (s : State) (g : Nat) (f : Graph → Graph) : (s.modGraph g f).preds = s.preds := rfl
@[simp] theorem modGraph_monitors (s : State) (g : Nat) (f : Graph → Graph) : (s.modGraph g f).monitors = s.monitors := rfl
@[simp] theorem modGraph_tlb (s : State) (g : Nat) (f : Graph → Graph) : (s.modGraph g f).tlb = s.tlb := rfl
@[simp] theorem modGraph_walks (s : State) (g : Nat) (f : Graph → Graph) : (s.modGraph g f).walks = s.walks := rfl
@[simp] theorem modGraph_ctxs (s : State) (g : Nat) (f : Graph → Graph) : (s.modGraph g f).ctxs = s.ctxs := rfl
@[simp] theorem modGraph_launches (s : State) (g : Nat) (f : Graph → Graph) : (s.modGraph g f).launches = s.launches := rfl
@[simp] theorem modGraph_blocks (s : State) (g : Nat) (f : Graph → Graph) : (s.modGraph g f).blocks = s.blocks := rfl
@[simp] theorem modGraph_cores (s : State) (g : Nat) (f : Graph → Graph) : (s.modGraph g f).cores = s.cores := rfl
@[simp] theorem modGraph_entries (s : State) (g : Nat) (f : Graph → Graph) : (s.modGraph g f).entries = s.entries := rfl
@[simp] theorem modGraph_openBatches (s : State) (g : Nat) (f : Graph → Graph) : (s.modGraph g f).openBatches = s.openBatches := rfl
@[simp] theorem modGraph_closedBatches (s : State) (g : Nat) (f : Graph → Graph) : (s.modGraph g f).closedBatches = s.closedBatches := rfl
@[simp] theorem modGraph_sendReqs (s : State) (g : Nat) (f : Graph → Graph) : (s.modGraph g f).sendReqs = s.sendReqs := rfl
@[simp] theorem modGraph_atomReqs (s : State) (g : Nat) (f : Graph → Graph) : (s.modGraph g f).atomReqs = s.atomReqs := rfl
@[simp] theorem modGraph_sumac (s : State) (g : Nat) (f : Graph → Graph) : (s.modGraph g f).sumac = s.sumac := rfl
@[simp] theorem modGraph_reports (s : State) (g : Nat) (f : Graph → Graph) : (s.modGraph g f).reports = s.reports := rfl
@[simp] theorem modGraph_atomLog (s : State) (g : Nat) (f : Graph → Graph) : (s.modGraph g f).atomLog = s.atomLog := rfl
@[simp] theorem modGraph_logOver (s : State) (g : Nat) (f : Graph → Graph) : (s.modGraph g f).logOver = s.logOver := rfl
@[simp] theorem modGraph_peerReqs (s : State) (g : Nat) (f : Graph → Graph) : (s.modGraph g f).peerReqs = s.peerReqs := rfl
@[simp] theorem modGraph_peerMem (s : State) (g : Nat) (f : Graph → Graph) : (s.modGraph g f).peerMem = s.peerMem := rfl
@[simp] theorem modGraph_zwbs (s : State) (g : Nat) (f : Graph → Graph) : (s.modGraph g f).zwbs = s.zwbs := rfl
@[simp] theorem modGraph_replayLines (s : State) (g : Nat) (f : Graph → Graph) : (s.modGraph g f).replayLines = s.replayLines := rfl
@[simp] theorem modGraph_replaySegs (s : State) (g : Nat) (f : Graph → Graph) : (s.modGraph g f).replaySegs = s.replaySegs := rfl
@[simp] theorem modGraph_dev (s : State) (g : Nat) (f : Graph → Graph) : (s.modGraph g f).dev = s.dev := rfl
@[simp] theorem modGraph_clk (s : State) (g : Nat) (f : Graph → Graph) : (s.modGraph g f).clk = s.clk := rfl
@[simp] theorem modGraph_raw (s : State) (g : Nat) (f : Graph → Graph) : (s.modGraph g f).raw = s.raw := rfl
@[simp] theorem modGraph_ticks (s : State) (g : Nat) (f : Graph → Graph) : (s.modGraph g f).ticks = s.ticks := rfl
@[simp] theorem modGraph_nextId (s : State) (g : Nat) (f : Graph → Graph) : (s.modGraph g f).nextId = s.nextId := rfl
@[simp] theorem modGraph_freeCount (s : State) (g : Nat) (f : Graph → Graph) : (s.modGraph g f).freeCount = s.freeCount := rfl
@[simp] theorem modGraph_agenda (s : State) (g : Nat) (f : Graph → Graph) : (s.modGraph g f).agenda = s.agenda := rfl
@[simp] theorem modGraph_cur (s : State) (g : Nat) (f : Graph → Graph) : (s.modGraph g f).cur = s.cur := rfl
@[simp] theorem modGraph_agentMons (s : State) (g : Nat) (f : Graph → Graph) : (s.modGraph g f).agentMons = s.agentMons := rfl
@[simp] theorem modGraph_ran (s : State) (g : Nat) (f : Graph → Graph) : (s.modGraph g f).ran = s.ran := rfl
@[simp] theorem modGraph_ranClk (s : State) (g : Nat) (f : Graph → Graph) : (s.modGraph g f).ranClk = s.ranClk := rfl
@[simp] theorem modGraph_ranPc (s : State) (g : Nat) (f : Graph → Graph) : (s.modGraph g f).ranPc = s.ranPc := rfl

/-! ### State.putBytes -/
@[simp] theorem putBytes_l2Lost (s : State) (o : Option Nat) (l : List (Nat × Byte)) : (s.putBytes o l).l2Lost = s.l2Lost := rfl
@[simp] theorem putBytes_race (s : State) (o : Option Nat) (l : List (Nat × Byte)) : (s.putBytes o l).race = s.race := rfl
@[simp] theorem putBytes_raceBlk (s : State) (o : Option Nat) (l : List (Nat × Byte)) : (s.putBytes o l).raceBlk = s.raceBlk := rfl
@[simp] theorem putBytes_sync (s : State) (o : Option Nat) (l : List (Nat × Byte)) : (s.putBytes o l).sync = s.sync := rfl
@[simp] theorem putBytes_preds (s : State) (o : Option Nat) (l : List (Nat × Byte)) : (s.putBytes o l).preds = s.preds := rfl
@[simp] theorem putBytes_tlb (s : State) (o : Option Nat) (l : List (Nat × Byte)) : (s.putBytes o l).tlb = s.tlb := rfl
@[simp] theorem putBytes_walks (s : State) (o : Option Nat) (l : List (Nat × Byte)) : (s.putBytes o l).walks = s.walks := rfl
@[simp] theorem putBytes_ctxs (s : State) (o : Option Nat) (l : List (Nat × Byte)) : (s.putBytes o l).ctxs = s.ctxs := rfl
@[simp] theorem putBytes_launches (s : State) (o : Option Nat) (l : List (Nat × Byte)) : (s.putBytes o l).launches = s.launches := rfl
@[simp] theorem putBytes_blocks (s : State) (o : Option Nat) (l : List (Nat × Byte)) : (s.putBytes o l).blocks = s.blocks := rfl
@[simp] theorem putBytes_graphs (s : State) (o : Option Nat) (l : List (Nat × Byte)) : (s.putBytes o l).graphs = s.graphs := rfl
@[simp] theorem putBytes_entries (s : State) (o : Option Nat) (l : List (Nat × Byte)) : (s.putBytes o l).entries = s.entries := rfl
@[simp] theorem putBytes_openBatches (s : State) (o : Option Nat) (l : List (Nat × Byte)) : (s.putBytes o l).openBatches = s.openBatches := rfl
@[simp] theorem putBytes_closedBatches (s : State) (o : Option Nat) (l : List (Nat × Byte)) : (s.putBytes o l).closedBatches = s.closedBatches := rfl
@[simp] theorem putBytes_sendReqs (s : State) (o : Option Nat) (l : List (Nat × Byte)) : (s.putBytes o l).sendReqs = s.sendReqs := rfl
@[simp] theorem putBytes_atomReqs (s : State) (o : Option Nat) (l : List (Nat × Byte)) : (s.putBytes o l).atomReqs = s.atomReqs := rfl
@[simp] theorem putBytes_sumac (s : State) (o : Option Nat) (l : List (Nat × Byte)) : (s.putBytes o l).sumac = s.sumac := rfl
@[simp] theorem putBytes_reports (s : State) (o : Option Nat) (l : List (Nat × Byte)) : (s.putBytes o l).reports = s.reports := rfl
@[simp] theorem putBytes_atomLog (s : State) (o : Option Nat) (l : List (Nat × Byte)) : (s.putBytes o l).atomLog = s.atomLog := rfl
@[simp] theorem putBytes_logOver (s : State) (o : Option Nat) (l : List (Nat × Byte)) : (s.putBytes o l).logOver = s.logOver := rfl
@[simp] theorem putBytes_peerReqs (s : State) (o : Option Nat) (l : List (Nat × Byte)) : (s.putBytes o l).peerReqs = s.peerReqs := rfl
@[simp] theorem putBytes_peerMem (s : State) (o : Option Nat) (l : List (Nat × Byte)) : (s.putBytes o l).peerMem = s.peerMem := rfl
@[simp] theorem putBytes_zwbs (s : State) (o : Option Nat) (l : List (Nat × Byte)) : (s.putBytes o l).zwbs = s.zwbs := rfl
@[simp] theorem putBytes_replayLines (s : State) (o : Option Nat) (l : List (Nat × Byte)) : (s.putBytes o l).replayLines = s.replayLines := rfl
@[simp] theorem putBytes_replaySegs (s : State) (o : Option Nat) (l : List (Nat × Byte)) : (s.putBytes o l).replaySegs = s.replaySegs := rfl
@[simp] theorem putBytes_dev (s : State) (o : Option Nat) (l : List (Nat × Byte)) : (s.putBytes o l).dev = s.dev := rfl
@[simp] theorem putBytes_clk (s : State) (o : Option Nat) (l : List (Nat × Byte)) : (s.putBytes o l).clk = s.clk := rfl
@[simp] theorem putBytes_raw (s : State) (o : Option Nat) (l : List (Nat × Byte)) : (s.putBytes o l).raw = s.raw := rfl
@[simp] theorem putBytes_ticks (s : State) (o : Option Nat) (l : List (Nat × Byte)) : (s.putBytes o l).ticks = s.ticks := rfl
@[simp] theorem putBytes_nextId (s : State) (o : Option Nat) (l : List (Nat × Byte)) : (s.putBytes o l).nextId = s.nextId := rfl
@[simp] theorem putBytes_freeCount (s : State) (o : Option Nat) (l : List (Nat × Byte)) : (s.putBytes o l).freeCount = s.freeCount := rfl
@[simp] theorem putBytes_agenda (s : State) (o : Option Nat) (l : List (Nat × Byte)) : (s.putBytes o l).agenda = s.agenda := rfl
@[simp] theorem putBytes_cur (s : State) (o : Option Nat) (l : List (Nat × Byte)) : (s.putBytes o l).cur = s.cur := rfl
@[simp] theorem putBytes_ran (s : State) (o : Option Nat) (l : List (Nat × Byte)) : (s.putBytes o l).ran = s.ran := rfl
@[simp] theorem putBytes_ranClk (s : State) (o : Option Nat) (l : List (Nat × Byte)) : (s.putBytes o l).ranClk = s.ranClk := rfl
@[simp] theorem putBytes_ranPc (s : State) (o : Option Nat) (l : List (Nat × Byte)) : (s.putBytes o l).ranPc = s.ranPc := rfl

/-! ### State.clearRaceAt -/
@[simp] theorem clearRaceAt_mem (s : State) (l : List Nat) : (s.clearRaceAt l).mem = s.mem := rfl
@[simp] theorem clearRaceAt_memFail (s : State) (l : List Nat) : (s.clearRaceAt l).memFail = s.memFail := rfl
@[simp] theorem clearRaceAt_memBad (s : State) (l : List Nat) : (s.clearRaceAt l).memBad = s.memBad := rfl
@[simp] theorem clearRaceAt_l2Lost (s : State) (l : List Nat) : (s.clearRaceAt l).l2Lost = s.l2Lost := rfl
@[simp] theorem clearRaceAt_l2Fail (s : State) (l : List Nat) : (s.clearRaceAt l).l2Fail = s.l2Fail := rfl
@[simp] theorem clearRaceAt_raceBlk (s : State) (l : List Nat) : (s.clearRaceAt l).raceBlk = s.raceBlk := rfl
@[simp] theorem clearRaceAt_sync (s : State) (l : List Nat) : (s.clearRaceAt l).sync = s.sync := rfl
@[simp] theorem clearRaceAt_preds (s : State) (l : List Nat) : (s.clearRaceAt l).preds = s.preds := rfl
@[simp] theorem clearRaceAt_monitors (s : State) (l : List Nat) : (s.clearRaceAt l).monitors = s.monitors := rfl
@[simp] theorem clearRaceAt_tlb (s : State) (l : List Nat) : (s.clearRaceAt l).tlb = s.tlb := rfl
@[simp] theorem clearRaceAt_walks (s : State) (l : List Nat) : (s.clearRaceAt l).walks = s.walks := rfl
@[simp] theorem clearRaceAt_ctxs (s : State) (l : List Nat) : (s.clearRaceAt l).ctxs = s.ctxs := rfl
@[simp] theorem clearRaceAt_launches (s : State) (l : List Nat) : (s.clearRaceAt l).launches = s.launches := rfl
@[simp] theorem clearRaceAt_blocks (s : State) (l : List Nat) : (s.clearRaceAt l).blocks = s.blocks := rfl
@[simp] theorem clearRaceAt_cores (s : State) (l : List Nat) : (s.clearRaceAt l).cores = s.cores := rfl
@[simp] theorem clearRaceAt_graphs (s : State) (l : List Nat) : (s.clearRaceAt l).graphs = s.graphs := rfl
@[simp] theorem clearRaceAt_entries (s : State) (l : List Nat) : (s.clearRaceAt l).entries = s.entries := rfl
@[simp] theorem clearRaceAt_openBatches (s : State) (l : List Nat) : (s.clearRaceAt l).openBatches = s.openBatches := rfl
@[simp] theorem clearRaceAt_closedBatches (s : State) (l : List Nat) : (s.clearRaceAt l).closedBatches = s.closedBatches := rfl
@[simp] theorem clearRaceAt_sendReqs (s : State) (l : List Nat) : (s.clearRaceAt l).sendReqs = s.sendReqs := rfl
@[simp] theorem clearRaceAt_atomReqs (s : State) (l : List Nat) : (s.clearRaceAt l).atomReqs = s.atomReqs := rfl
@[simp] theorem clearRaceAt_sumac (s : State) (l : List Nat) : (s.clearRaceAt l).sumac = s.sumac := rfl
@[simp] theorem clearRaceAt_reports (s : State) (l : List Nat) : (s.clearRaceAt l).reports = s.reports := rfl
@[simp] theorem clearRaceAt_atomLog (s : State) (l : List Nat) : (s.clearRaceAt l).atomLog = s.atomLog := rfl
@[simp] theorem clearRaceAt_logOver (s : State) (l : List Nat) : (s.clearRaceAt l).logOver = s.logOver := rfl
@[simp] theorem clearRaceAt_peerReqs (s : State) (l : List Nat) : (s.clearRaceAt l).peerReqs = s.peerReqs := rfl
@[simp] theorem clearRaceAt_peerMem (s : State) (l : List Nat) : (s.clearRaceAt l).peerMem = s.peerMem := rfl
@[simp] theorem clearRaceAt_zwbs (s : State) (l : List Nat) : (s.clearRaceAt l).zwbs = s.zwbs := rfl
@[simp] theorem clearRaceAt_replayLines (s : State) (l : List Nat) : (s.clearRaceAt l).replayLines = s.replayLines := rfl
@[simp] theorem clearRaceAt_replaySegs (s : State) (l : List Nat) : (s.clearRaceAt l).replaySegs = s.replaySegs := rfl
@[simp] theorem clearRaceAt_dev (s : State) (l : List Nat) : (s.clearRaceAt l).dev = s.dev := rfl
@[simp] theorem clearRaceAt_clk (s : State) (l : List Nat) : (s.clearRaceAt l).clk = s.clk := rfl
@[simp] theorem clearRaceAt_raw (s : State) (l : List Nat) : (s.clearRaceAt l).raw = s.raw := rfl
@[simp] theorem clearRaceAt_ticks (s : State) (l : List Nat) : (s.clearRaceAt l).ticks = s.ticks := rfl
@[simp] theorem clearRaceAt_nextId (s : State) (l : List Nat) : (s.clearRaceAt l).nextId = s.nextId := rfl
@[simp] theorem clearRaceAt_freeCount (s : State) (l : List Nat) : (s.clearRaceAt l).freeCount = s.freeCount := rfl
@[simp] theorem clearRaceAt_agenda (s : State) (l : List Nat) : (s.clearRaceAt l).agenda = s.agenda := rfl
@[simp] theorem clearRaceAt_cur (s : State) (l : List Nat) : (s.clearRaceAt l).cur = s.cur := rfl
@[simp] theorem clearRaceAt_agentMons (s : State) (l : List Nat) : (s.clearRaceAt l).agentMons = s.agentMons := rfl
@[simp] theorem clearRaceAt_ran (s : State) (l : List Nat) : (s.clearRaceAt l).ran = s.ran := rfl
@[simp] theorem clearRaceAt_ranClk (s : State) (l : List Nat) : (s.clearRaceAt l).ranClk = s.ranClk := rfl
@[simp] theorem clearRaceAt_ranPc (s : State) (l : List Nat) : (s.clearRaceAt l).ranPc = s.ranPc := rfl

/-! ### State.clearSyncAt -/
@[simp] theorem clearSyncAt_mem (s : State) (l : List Nat) : (s.clearSyncAt l).mem = s.mem := rfl
@[simp] theorem clearSyncAt_memFail (s : State) (l : List Nat) : (s.clearSyncAt l).memFail = s.memFail := rfl
@[simp] theorem clearSyncAt_memBad (s : State) (l : List Nat) : (s.clearSyncAt l).memBad = s.memBad := rfl
@[simp] theorem clearSyncAt_l2Lost (s : State) (l : List Nat) : (s.clearSyncAt l).l2Lost = s.l2Lost := rfl
@[simp] theorem clearSyncAt_l2Fail (s : State) (l : List Nat) : (s.clearSyncAt l).l2Fail = s.l2Fail := rfl
@[simp] theorem clearSyncAt_race (s : State) (l : List Nat) : (s.clearSyncAt l).race = s.race := rfl
@[simp] theorem clearSyncAt_raceBlk (s : State) (l : List Nat) : (s.clearSyncAt l).raceBlk = s.raceBlk := rfl
@[simp] theorem clearSyncAt_preds (s : State) (l : List Nat) : (s.clearSyncAt l).preds = s.preds := rfl
@[simp] theorem clearSyncAt_monitors (s : State) (l : List Nat) : (s.clearSyncAt l).monitors = s.monitors := rfl
@[simp] theorem clearSyncAt_tlb (s : State) (l : List Nat) : (s.clearSyncAt l).tlb = s.tlb := rfl
@[simp] theorem clearSyncAt_walks (s : State) (l : List Nat) : (s.clearSyncAt l).walks = s.walks := rfl
@[simp] theorem clearSyncAt_ctxs (s : State) (l : List Nat) : (s.clearSyncAt l).ctxs = s.ctxs := rfl
@[simp] theorem clearSyncAt_launches (s : State) (l : List Nat) : (s.clearSyncAt l).launches = s.launches := rfl
@[simp] theorem clearSyncAt_blocks (s : State) (l : List Nat) : (s.clearSyncAt l).blocks = s.blocks := rfl
@[simp] theorem clearSyncAt_cores (s : State) (l : List Nat) : (s.clearSyncAt l).cores = s.cores := rfl
@[simp] theorem clearSyncAt_graphs (s : State) (l : List Nat) : (s.clearSyncAt l).graphs = s.graphs := rfl
@[simp] theorem clearSyncAt_entries (s : State) (l : List Nat) : (s.clearSyncAt l).entries = s.entries := rfl
@[simp] theorem clearSyncAt_openBatches (s : State) (l : List Nat) : (s.clearSyncAt l).openBatches = s.openBatches := rfl
@[simp] theorem clearSyncAt_closedBatches (s : State) (l : List Nat) : (s.clearSyncAt l).closedBatches = s.closedBatches := rfl
@[simp] theorem clearSyncAt_sendReqs (s : State) (l : List Nat) : (s.clearSyncAt l).sendReqs = s.sendReqs := rfl
@[simp] theorem clearSyncAt_atomReqs (s : State) (l : List Nat) : (s.clearSyncAt l).atomReqs = s.atomReqs := rfl
@[simp] theorem clearSyncAt_sumac (s : State) (l : List Nat) : (s.clearSyncAt l).sumac = s.sumac := rfl
@[simp] theorem clearSyncAt_reports (s : State) (l : List Nat) : (s.clearSyncAt l).reports = s.reports := rfl
@[simp] theorem clearSyncAt_atomLog (s : State) (l : List Nat) : (s.clearSyncAt l).atomLog = s.atomLog := rfl
@[simp] theorem clearSyncAt_logOver (s : State) (l : List Nat) : (s.clearSyncAt l).logOver = s.logOver := rfl
@[simp] theorem clearSyncAt_peerReqs (s : State) (l : List Nat) : (s.clearSyncAt l).peerReqs = s.peerReqs := rfl
@[simp] theorem clearSyncAt_peerMem (s : State) (l : List Nat) : (s.clearSyncAt l).peerMem = s.peerMem := rfl
@[simp] theorem clearSyncAt_zwbs (s : State) (l : List Nat) : (s.clearSyncAt l).zwbs = s.zwbs := rfl
@[simp] theorem clearSyncAt_replayLines (s : State) (l : List Nat) : (s.clearSyncAt l).replayLines = s.replayLines := rfl
@[simp] theorem clearSyncAt_replaySegs (s : State) (l : List Nat) : (s.clearSyncAt l).replaySegs = s.replaySegs := rfl
@[simp] theorem clearSyncAt_dev (s : State) (l : List Nat) : (s.clearSyncAt l).dev = s.dev := rfl
@[simp] theorem clearSyncAt_clk (s : State) (l : List Nat) : (s.clearSyncAt l).clk = s.clk := rfl
@[simp] theorem clearSyncAt_raw (s : State) (l : List Nat) : (s.clearSyncAt l).raw = s.raw := rfl
@[simp] theorem clearSyncAt_ticks (s : State) (l : List Nat) : (s.clearSyncAt l).ticks = s.ticks := rfl
@[simp] theorem clearSyncAt_nextId (s : State) (l : List Nat) : (s.clearSyncAt l).nextId = s.nextId := rfl
@[simp] theorem clearSyncAt_freeCount (s : State) (l : List Nat) : (s.clearSyncAt l).freeCount = s.freeCount := rfl
@[simp] theorem clearSyncAt_agenda (s : State) (l : List Nat) : (s.clearSyncAt l).agenda = s.agenda := rfl
@[simp] theorem clearSyncAt_cur (s : State) (l : List Nat) : (s.clearSyncAt l).cur = s.cur := rfl
@[simp] theorem clearSyncAt_agentMons (s : State) (l : List Nat) : (s.clearSyncAt l).agentMons = s.agentMons := rfl
@[simp] theorem clearSyncAt_ran (s : State) (l : List Nat) : (s.clearSyncAt l).ran = s.ran := rfl
@[simp] theorem clearSyncAt_ranClk (s : State) (l : List Nat) : (s.clearSyncAt l).ranClk = s.ranClk := rfl
@[simp] theorem clearSyncAt_ranPc (s : State) (l : List Nat) : (s.clearSyncAt l).ranPc = s.ranPc := rfl

/-! ### State.report -/
@[simp] theorem report_mem (s : State) (b w : Nat) (d : Deferred) : (s.report b w d).mem = s.mem := rfl
@[simp] theorem report_memFail (s : State) (b w : Nat) (d : Deferred) : (s.report b w d).memFail = s.memFail := rfl
@[simp] theorem report_memBad (s : State) (b w : Nat) (d : Deferred) : (s.report b w d).memBad = s.memBad := rfl
@[simp] theorem report_l2Lost (s : State) (b w : Nat) (d : Deferred) : (s.report b w d).l2Lost = s.l2Lost := rfl
@[simp] theorem report_l2Fail (s : State) (b w : Nat) (d : Deferred) : (s.report b w d).l2Fail = s.l2Fail := rfl
@[simp] theorem report_race (s : State) (b w : Nat) (d : Deferred) : (s.report b w d).race = s.race := rfl
@[simp] theorem report_raceBlk (s : State) (b w : Nat) (d : Deferred) : (s.report b w d).raceBlk = s.raceBlk := rfl
@[simp] theorem report_sync (s : State) (b w : Nat) (d : Deferred) : (s.report b w d).sync = s.sync := rfl
@[simp] theorem report_preds (s : State) (b w : Nat) (d : Deferred) : (s.report b w d).preds = s.preds := rfl
@[simp] theorem report_monitors (s : State) (b w : Nat) (d : Deferred) : (s.report b w d).monitors = s.monitors := rfl
@[simp] theorem report_tlb (s : State) (b w : Nat) (d : Deferred) : (s.report b w d).tlb = s.tlb := rfl
@[simp] theorem report_walks (s : State) (b w : Nat) (d : Deferred) : (s.report b w d).walks = s.walks := rfl
@[simp] theorem report_ctxs (s : State) (b w : Nat) (d : Deferred) : (s.report b w d).ctxs = s.ctxs := rfl
@[simp] theorem report_launches (s : State) (b w : Nat) (d : Deferred) : (s.report b w d).launches = s.launches := rfl
@[simp] theorem report_blocks (s : State) (b w : Nat) (d : Deferred) : (s.report b w d).blocks = s.blocks := rfl
@[simp] theorem report_cores (s : State) (b w : Nat) (d : Deferred) : (s.report b w d).cores = s.cores := rfl
@[simp] theorem report_graphs (s : State) (b w : Nat) (d : Deferred) : (s.report b w d).graphs = s.graphs := rfl
@[simp] theorem report_entries (s : State) (b w : Nat) (d : Deferred) : (s.report b w d).entries = s.entries := rfl
@[simp] theorem report_openBatches (s : State) (b w : Nat) (d : Deferred) : (s.report b w d).openBatches = s.openBatches := rfl
@[simp] theorem report_closedBatches (s : State) (b w : Nat) (d : Deferred) : (s.report b w d).closedBatches = s.closedBatches := rfl
@[simp] theorem report_sendReqs (s : State) (b w : Nat) (d : Deferred) : (s.report b w d).sendReqs = s.sendReqs := rfl
@[simp] theorem report_atomReqs (s : State) (b w : Nat) (d : Deferred) : (s.report b w d).atomReqs = s.atomReqs := rfl
@[simp] theorem report_sumac (s : State) (b w : Nat) (d : Deferred) : (s.report b w d).sumac = s.sumac := rfl
@[simp] theorem report_atomLog (s : State) (b w : Nat) (d : Deferred) : (s.report b w d).atomLog = s.atomLog := rfl
@[simp] theorem report_logOver (s : State) (b w : Nat) (d : Deferred) : (s.report b w d).logOver = s.logOver := rfl
@[simp] theorem report_peerReqs (s : State) (b w : Nat) (d : Deferred) : (s.report b w d).peerReqs = s.peerReqs := rfl
@[simp] theorem report_peerMem (s : State) (b w : Nat) (d : Deferred) : (s.report b w d).peerMem = s.peerMem := rfl
@[simp] theorem report_zwbs (s : State) (b w : Nat) (d : Deferred) : (s.report b w d).zwbs = s.zwbs := rfl
@[simp] theorem report_replayLines (s : State) (b w : Nat) (d : Deferred) : (s.report b w d).replayLines = s.replayLines := rfl
@[simp] theorem report_replaySegs (s : State) (b w : Nat) (d : Deferred) : (s.report b w d).replaySegs = s.replaySegs := rfl
@[simp] theorem report_dev (s : State) (b w : Nat) (d : Deferred) : (s.report b w d).dev = s.dev := rfl
@[simp] theorem report_clk (s : State) (b w : Nat) (d : Deferred) : (s.report b w d).clk = s.clk := rfl
@[simp] theorem report_raw (s : State) (b w : Nat) (d : Deferred) : (s.report b w d).raw = s.raw := rfl
@[simp] theorem report_ticks (s : State) (b w : Nat) (d : Deferred) : (s.report b w d).ticks = s.ticks := rfl
@[simp] theorem report_nextId (s : State) (b w : Nat) (d : Deferred) : (s.report b w d).nextId = s.nextId := rfl
@[simp] theorem report_freeCount (s : State) (b w : Nat) (d : Deferred) : (s.report b w d).freeCount = s.freeCount := rfl
@[simp] theorem report_agenda (s : State) (b w : Nat) (d : Deferred) : (s.report b w d).agenda = s.agenda := rfl
@[simp] theorem report_cur (s : State) (b w : Nat) (d : Deferred) : (s.report b w d).cur = s.cur := rfl
@[simp] theorem report_agentMons (s : State) (b w : Nat) (d : Deferred) : (s.report b w d).agentMons = s.agentMons := rfl
@[simp] theorem report_ran (s : State) (b w : Nat) (d : Deferred) : (s.report b w d).ran = s.ran := rfl
@[simp] theorem report_ranClk (s : State) (b w : Nat) (d : Deferred) : (s.report b w d).ranClk = s.ranClk := rfl
@[simp] theorem report_ranPc (s : State) (b w : Nat) (d : Deferred) : (s.report b w d).ranPc = s.ranPc := rfl

/-! ### The part that an update changes -/

@[simp] theorem modDev_self (s : State) (f : Dev → Dev) : (s.modDev f).dev = f s.dev := rfl
@[simp] theorem putBytes_self (s : State) (o : Option Nat) (l : List (Nat × Byte)) : (s.putBytes o l).mem = ssetAll (0 : Byte) s.mem l := rfl
@[simp] theorem length_modBlock (s : State) (b : Nat) (f : Block → Block) : (s.modBlock b f).blocks.length = s.blocks.length := length_upd _ _ _
@[simp] theorem length_modWave (s : State) (b w : Nat) (f : Wave → Wave) : (s.modWave b w f).blocks.length = s.blocks.length := length_upd _ _ _
@[simp] theorem length_modArm (s : State) (u : Cursor) (f : Arm → Arm) : (s.modArm u f).blocks.length = s.blocks.length := length_upd _ _ _

theorem block_modBlock_self (s : State) {b : Nat} (f : Block → Block) (h : b < s.blocks.length) : (s.modBlock b f).block b = f (s.block b) :=
  getD_upd_self _ _ _ _ h
theorem block_modBlock_other (s : State) {b c : Nat} (f : Block → Block) (h : c ≠ b) : (s.modBlock b f).block c = s.block c :=
  getD_upd_other _ _ _ h
theorem block_modWave_self (s : State) {b : Nat} (w : Nat) (f : Wave → Wave) (h : b < s.blocks.length) :
    (s.modWave b w f).block b = { s.block b with waves := upd (s.block b).waves w f } := getD_upd_self _ _ _ _ h
theorem block_modWave_other (s : State) {b c : Nat} (w : Nat) (f : Wave → Wave) (h : c ≠ b) : (s.modWave b w f).block c = s.block c :=
  getD_upd_other _ _ _ h
theorem wave_modWave_self (s : State) {b w : Nat} (f : Wave → Wave) (h : b < s.blocks.length) (hw : w < (s.block b).waves.length) :
    (s.modWave b w f).wave b w = f (s.wave b w) := by
  unfold State.wave
  rw [block_modWave_self s w f h]
  exact getD_upd_self _ _ _ _ hw
theorem wave_modWave_other (s : State) {b w x : Nat} (f : Wave → Wave) (h : b < s.blocks.length) (hx : x ≠ w) :
    (s.modWave b w f).wave b x = s.wave b x := by
  unfold State.wave
  rw [block_modWave_self s w f h]
  exact getD_upd_other _ _ _ hx
theorem wave_modWave_block (s : State) {b c : Nat} (w x : Nat) (f : Wave → Wave) (h : c ≠ b) : (s.modWave b w f).wave c x = s.wave c x := by
  unfold State.wave
  rw [block_modWave_other s w f h]
theorem launch_modLaunch_self (s : State) {l : Nat} (f : Launch → Launch) (h : l < s.launches.length) : (s.modLaunch l f).launch l = f (s.launch l) :=
  getD_upd_self _ _ _ _ h
theorem launch_modLaunch_other (s : State) {l m : Nat} (f : Launch → Launch) (h : m ≠ l) : (s.modLaunch l f).launch m = s.launch m :=
  getD_upd_other _ _ _ h
theorem ctx_modCtx_self (s : State) {x : Nat} (f : Context → Context) (h : x < s.ctxs.length) : (s.modCtx x f).ctx x = f (s.ctx x) :=
  getD_upd_self _ _ _ _ h

/-- The changed core reads as f of what it was; cores keep their canonical form. -/
@[simp] theorem core_modCore_self (s : State) (c : Nat) (f : Core → Core) : (s.modCore c f).core c = f (s.core c) :=
  sget_sset_self _ _ _ _
theorem core_modCore_other (s : State) {c d : Nat} (f : Core → Core) (h : d ≠ c) : (s.modCore c f).core d = s.core d :=
  sget_sset_other _ _ _ h
theorem swf_modCore (s : State) (c : Nat) (f : Core → Core) (h : swf {} s.cores = true) : swf {} (s.modCore c f).cores = true :=
  swf_sset _ h _ _

/-! ### Arms -/

@[simp] theorem Wave.arm_a (w : Wave) : w.arm false = w.a := rfl
theorem Wave.arm_modArm (w : Wave) (armB : Bool) (f : Arm → Arm) (h : armB = true → w.b.isSome = true) : (w.modArm armB f).arm armB = f (w.arm armB) := by
  cases armB with
  | false => rfl
  | true =>
    obtain ⟨b, hb⟩ := Option.isSome_iff_exists.mp (h rfl)
    simp [Wave.modArm, Wave.arm, hb]
theorem Wave.arm_modArm_other (w : Wave) (armB : Bool) (f : Arm → Arm) : (w.modArm armB f).arm (!armB) = w.arm (!armB) := by
  cases armB <;> rfl
@[simp] theorem Wave.modArm_idx (w : Wave) (armB : Bool) (f : Arm → Arm) : (w.modArm armB f).idx = w.idx := rfl
@[simp] theorem Wave.modArm_slot (w : Wave) (armB : Bool) (f : Arm → Arm) : (w.modArm armB f).slot = w.slot := rfl
@[simp] theorem Wave.modArm_octets (w : Wave) (armB : Bool) (f : Arm → Arm) : (w.modArm armB f).octets = w.octets := rfl
@[simp] theorem Wave.modArm_v (w : Wave) (armB : Bool) (f : Arm → Arm) : (w.modArm armB f).v = w.v := rfl
@[simp] theorem Wave.modArm_k (w : Wave) (armB : Bool) (f : Arm → Arm) : (w.modArm armB f).k = w.k := rfl
@[simp] theorem Wave.modArm_p (w : Wave) (armB : Bool) (f : Arm → Arm) : (w.modArm armB f).p = w.p := rfl
@[simp] theorem Wave.modArm_exited (w : Wave) (armB : Bool) (f : Arm → Arm) : (w.modArm armB f).exited = w.exited := rfl
@[simp] theorem Wave.modArm_status (w : Wave) (armB : Bool) (f : Arm → Arm) : (w.modArm armB f).status = w.status := rfl
@[simp] theorem Wave.modArm_fault0 (w : Wave) (armB : Bool) (f : Arm → Arm) : (w.modArm armB f).fault0 = w.fault0 := rfl
@[simp] theorem Wave.modArm_fault1 (w : Wave) (armB : Bool) (f : Arm → Arm) : (w.modArm armB f).fault1 = w.fault1 := rfl
@[simp] theorem Wave.modArm_stack (w : Wave) (armB : Bool) (f : Arm → Arm) : (w.modArm armB f).stack = w.stack := rfl
@[simp] theorem Wave.modArm_outst (w : Wave) (armB : Bool) (f : Arm → Arm) : (w.modArm armB f).outst = w.outst := rfl
@[simp] theorem Wave.modArm_pend (w : Wave) (armB : Bool) (f : Arm → Arm) : (w.modArm armB f).pend = w.pend := rfl
@[simp] theorem Wave.modArm_halted (w : Wave) (armB : Bool) (f : Arm → Arm) : (w.modArm armB f).halted = w.halted := rfl
@[simp] theorem Wave.modArm_done (w : Wave) (armB : Bool) (f : Arm → Arm) : (w.modArm armB f).done = w.done := rfl
@[simp] theorem Wave.modArm_epoch (w : Wave) (armB : Bool) (f : Arm → Arm) : (w.modArm armB f).epoch = w.epoch := rfl
@[simp] theorem Wave.modArm_res (w : Wave) (armB : Bool) (f : Arm → Arm) : (w.modArm armB f).res = w.res := rfl
@[simp] theorem Wave.modArm_handlerB (w : Wave) (armB : Bool) (f : Arm → Arm) : (w.modArm armB f).handlerB = w.handlerB := rfl
@[simp] theorem Wave.modArm_badRegs (w : Wave) (armB : Bool) (f : Arm → Arm) : (w.modArm armB f).badRegs = w.badRegs := rfl
@[simp] theorem Wave.modArm_softRegs (w : Wave) (armB : Bool) (f : Arm → Arm) : (w.modArm armB f).softRegs = w.softRegs := rfl
@[simp] theorem Wave.modArm_late (w : Wave) (armB : Bool) (f : Arm → Arm) : (w.modArm armB f).late = w.late := rfl
@[simp] theorem Wave.modArm_handlerArm (w : Wave) (armB : Bool) (f : Arm → Arm) : (w.modArm armB f).handlerArm = w.handlerArm := rfl
@[simp] theorem Wave.modArm_hnd (w : Wave) (armB : Bool) (f : Arm → Arm) : (w.modArm armB f).hnd = w.hnd := rfl
@[simp] theorem Wave.modArm_divided (w : Wave) (armB : Bool) (f : Arm → Arm) : (w.modArm armB f).divided = w.divided := by
  cases armB <;> simp [Wave.modArm, Wave.divided]

/-! ### Bytes of memory -/

/-- Reading one byte after a write: untouched addresses read as before. -/
theorem byteAt_putBytes_other (s : State) (o : Option Nat) (l : List (Nat × Byte)) {a : Nat} (h : ∀ x ∈ l, x.1 ≠ a) :
    (s.putBytes o l).byteAt a = s.byteAt a := sget_ssetAll_other _ _ _ h
/-- A write keeps the canonical form of memory. -/
theorem memWf_putBytes (s : State) (o : Option Nat) (l : List (Nat × Byte)) (h : Memory.wf s.mem = true) : Memory.wf (s.putBytes o l).mem = true :=
  swf_ssetAll _ _ h
theorem memWf_reset : Memory.wf State.reset.mem = true := rfl

end Sys2Proof.Machine
end

