-- ==== Sys2Proof/Laws/Issue.lean ====
section
/-! SUPPORT. Issuing: what `issue` answers under `Issues`, what effects do to registers, and the results of the shared operand
forms, each said once. -/
namespace Sys2Proof.Machine

/-! ### Masks and lanes -/

theorem lanesOf_nodup (n : Nat) (m : LaneMask) : (lanesOf n m).Nodup := List.Pairwise.filter _ List.nodup_range
theorem mem_lanesOf {n i : Nat} {m : LaneMask} : i ∈ lanesOf n m ↔ i < n ∧ m.getLsbD i = true := by
  simp [lanesOf]
theorem lt_of_mem_lanesOf {n i : Nat} {m : LaneMask} (h : i ∈ lanesOf n m) : i < 1024 :=
  BitVec.lt_of_getLsbD (mem_lanesOf.mp h).2

theorem getLsbD_foldl_or (l : List Nat) (m : LaneMask) (i : Nat) (hi : i < 1024) :
    (l.foldl (fun m i => m ||| (1#1024 <<< i)) m).getLsbD i = (m.getLsbD i || decide (i ∈ l)) := by
  induction l generalizing m with
  | nil => simp
  | cons x t ih =>
    rw [List.foldl_cons, ih]
    have h1 : (1#1024 <<< x).getLsbD i = decide (i = x) := by
      rw [BitVec.getLsbD_shiftLeft]
      by_cases h : i = x
      · subst h; simp [hi]
      · by_cases h2 : i < x
        · simp [h2, h]
        · have : i - x ≠ 0 := by omega
          simp [h2, hi, h, BitVec.getLsbD_one, this]
    by_cases hx : i = x
    · subst hx; simp [hi]
    · simp [BitVec.getLsbD_or, h1, hx]

theorem getLsbD_maskOf (l : List Nat) (i : Nat) (hi : i < 1024) : (maskOf l).getLsbD i = decide (i ∈ l) := by
  unfold maskOf
  rw [getLsbD_foldl_or l 0 i hi]
  simp

/-! ### Register writes -/

/-- R13: p0 reads 1 in every lane, whatever is written. -/
@[simp] theorem preg_zero (w : Wave) : w.preg 0 = BitVec.allOnes 1024 := rfl

/-- Several words written: other keys. -/
theorem sget_ssetAll_mem {α : Type} [DecidableEq α] (d : α) (l m : Sparse α) {x : Nat × α} (hx : x ∈ l) (hu : ∀ y ∈ l, y.1 = x.1 → y = x) :
    sget d (ssetAll d m l) x.1 = x.2 := by
  induction l generalizing m with
  | nil => simp at hx
  | cons y t ih =>
    by_cases ht : x ∈ t
    · exact ih (sset d m y.1 y.2) ht (fun z hz => hu z (List.mem_cons_of_mem _ hz))
    · have hy : x = y := by simpa [ht] using hx
      subst hy
      have := sget_ssetAll_other d t (sset d m x.1 x.2) (n := x.1)
        (fun z hz e => ht (by rw [← hu z (List.mem_cons_of_mem _ hz) e]; exact hz))
      simp only [ssetAll, List.foldl_cons] at this ⊢
      rw [this]; exact sget_sset_self _ _ _ _

/-- One predicate write. -/
theorem preg_setPs (w x : Wave) (n n' : Nat) (m y : LaneMask) (i : Nat) (h : x.p = setPs w.p [(n, m, y)]) :
    (x.preg n').getLsbD i = if n' = n ∧ n ≠ 0 ∧ m.getLsbD i = true then y.getLsbD i else (w.preg n').getLsbD i := by
  unfold Wave.preg
  rw [h]
  simp only [setPs, List.foldl_cons, List.foldl_nil]
  by_cases h0 : n = 0
  · subst h0; simp
  · by_cases hn : n' = n
    · subst hn
      cases hm : m.getLsbD i <;> simp [h0, hm]
      intro hi
      exact BitVec.lt_of_getLsbD hi
    · by_cases hz : n' = 0
      · subst hz; simp [hn]
      · simp [h0, hn, hz, sget_sset_other _ _ _ hn]

@[simp] theorem apply_v (w : Wave) (e : Eff) : (w.apply e).v = ssetAll 0 w.v e.v := rfl
@[simp] theorem apply_k (w : Wave) (e : Eff) : (w.apply e).k = ssetAll 0 w.k e.k := rfl
@[simp] theorem apply_p (w : Wave) (e : Eff) : (w.apply e).p = setPs w.p e.p := rfl
@[simp] theorem apply_status (w : Wave) (e : Eff) : (w.apply e).status = w.status ||| e.flags.setWidth 32 := rfl
@[simp] theorem apply_arm (w : Wave) (e : Eff) (b : Bool) : (w.apply e).arm b = w.arm b := by cases b <;> rfl
@[simp] theorem applyLate_v (w : Wave) (e : Eff) (n : Nat) : (w.applyLate e n).v = ssetAll 0 w.v e.v := rfl
@[simp] theorem applyLate_k (w : Wave) (e : Eff) (n : Nat) : (w.applyLate e n).k = ssetAll 0 w.k e.k := rfl
@[simp] theorem applyLate_p (w : Wave) (e : Eff) (n : Nat) : (w.applyLate e n).p = setPs w.p e.p := rfl
@[simp] theorem applyLate_status (w : Wave) (e : Eff) (n : Nat) : (w.applyLate e n).status = w.status := by simp [Wave.applyLate, Wave.apply]
@[simp] theorem applyLate_late (w : Wave) (e : Eff) (n : Nat) :
    (w.applyLate e n).late = if e.flags == 0 then w.late else w.late ++ [{ flags := e.flags, regs := e.regs, ready := n }] := rfl
@[simp] theorem applyLate_arm (w : Wave) (e : Eff) (n : Nat) (b : Bool) : (w.applyLate e n).arm b = w.arm b := by cases b <;> rfl

/-! ### Effects over lanes -/

theorem laneEff_eq (l : List Nat) (pair : Bool) (d : Nat) (f : Nat → DWord × BitVec 8) :
    laneEff l pair d f = { v := (l.map fun i => words pair d i (f i).1).flatten, flags := flagsOver l fun i => (f i).2 } := by
  have h : ∀ (a : Eff), l.foldl (fun a i => let r := f i; { a with v := a.v ++ words pair d i r.1, flags := a.flags ||| r.2 }) a =
      { a with v := a.v ++ (l.map fun i => words pair d i (f i).1).flatten, flags := l.foldl (fun a i => a ||| (f i).2) a.flags } := by
    induction l with
    | nil => intro a; simp
    | cons x t ih => intro a; rw [List.foldl_cons, ih]; simp
  unfold laneEff flagsOver
  rw [h]; simp

theorem predEff_eq (l : List Nat) (act : LaneMask) (pd : PReg) (f : Nat → Bool × BitVec 8) :
    predEff l act pd f = { p := [(pd.toNat, act, maskOf (l.filter fun i => (f i).1))], flags := flagsOver l fun i => (f i).2 } := by
  have h : ∀ (a : Eff), l.foldl (fun (a : Eff) i => { a with flags := a.flags ||| (f i).2 }) a =
      { a with flags := l.foldl (fun a i => a ||| (f i).2) a.flags } := by
    induction l with
    | nil => intro a; simp
    | cons x t ih => intro a; rw [List.foldl_cons, ih]; simp
  unfold predEff flagsOver
  rw [h]

/-- Each word of a register or pair over distinct lanes is written once. -/
theorem mem_laneWords {l : List Nat} {pair : Bool} {d : Nat} {f : Nat → DWord} {x : Nat × Word}
    (hx : x ∈ (l.map fun i => words pair d i (f i)).flatten) :
    ∃ i ∈ l, x = (d * 1024 + i, (f i).setWidth 32) ∨ (pair = true ∧ x = ((d + 1) * 1024 + i, (f i).extractLsb' 32 32)) := by
  simp only [List.mem_flatten, List.mem_map] at hx
  obtain ⟨_, ⟨i, hi, rfl⟩, hx⟩ := hx
  refine ⟨i, hi, ?_⟩
  cases pair <;> simp_all [words]

/-- The registers that a result over lanes writes. -/
theorem mem_laneRegs {l : List Nat} (hl : ∀ i ∈ l, i < 1024) (hn : l ≠ []) (pair : Bool) (d : Nat) (f : Nat → DWord × BitVec 8) (q : Nat) :
    q ∈ (laneEff l pair d f).regs ↔ regsOf pair d q := by
  simp only [laneEff_eq, Eff.regs, List.map_nil, List.append_nil, List.mem_eraseDups, List.mem_map]
  constructor
  · rintro ⟨x, hx, rfl⟩
    obtain ⟨i, hi, rfl | ⟨hp, rfl⟩⟩ := mem_laneWords (f := fun i => (f i).1) hx
    · have := hl i hi
      exact Or.inl (by simp only; omega)
    · have := hl i hi
      exact Or.inr ⟨hp, by simp only; omega⟩
  · obtain ⟨i, hi⟩ := List.exists_mem_of_ne_nil l hn
    have hi' := hl i hi
    have hm : ∀ x, x ∈ words pair d i (f i).1 → x ∈ (l.map fun i => words pair d i (f i).1).flatten :=
      fun x hx => List.mem_flatten.mpr ⟨_, List.mem_map.mpr ⟨i, hi, rfl⟩, hx⟩
    rintro (rfl | ⟨rfl, rfl⟩)
    · exact ⟨(q * 1024 + i, (f i).1.setWidth 32), hm _ (by cases pair <;> simp [words]), by simp only; omega⟩
    · exact ⟨((d + 1) * 1024 + i, (f i).1.extractLsb' 32 32), hm _ (by simp [words]), by simp only; omega⟩

/-- Flags come from some lane. -/
theorem ne_nil_of_flagsOver {l : List Nat} {f : Nat → BitVec 8} (h : flagsOver l f ≠ 0) : l ≠ [] := by
  rintro rfl; exact h rfl

theorem laneWords_other (m : Sparse Word) (l : List Nat) (hl : ∀ i ∈ l, i < 1024) (pair : Bool) (d : Nat) (f : Nat → DWord) {r i : Nat} (hi : i < 1024)
    (h : ¬ (i ∈ l ∧ regsOf pair d r)) :
    sget 0 (ssetAll 0 m (l.map fun i => words pair d i (f i)).flatten) (r * 1024 + i) = sget 0 m (r * 1024 + i) := by
  refine sget_ssetAll_other 0 _ _ (fun x hx e => h ?_)
  obtain ⟨j, hj, rfl | ⟨hp, rfl⟩⟩ := mem_laneWords hx
  · have := hl j hj
    have : d = r ∧ j = i := by simp only at e; omega
    exact ⟨this.2 ▸ hj, Or.inl this.1.symm⟩
  · have := hl j hj
    have : d + 1 = r ∧ j = i := by simp only at e; omega
    exact ⟨this.2 ▸ hj, Or.inr ⟨hp, this.1.symm⟩⟩

theorem laneWords_value (m : Sparse Word) (l : List Nat) (hl : ∀ i ∈ l, i < 1024) (pair : Bool) (d : Nat) (f : Nat → DWord) {i : Nat} (hi : i ∈ l) :
    (if pair then sget 0 (ssetAll 0 m (l.map fun i => words pair d i (f i)).flatten) ((d + 1) * 1024 + i) ++
        sget 0 (ssetAll 0 m (l.map fun i => words pair d i (f i)).flatten) (d * 1024 + i)
     else (sget 0 (ssetAll 0 m (l.map fun i => words pair d i (f i)).flatten) (d * 1024 + i)).setWidth 64) = heldIn pair (f i) := by
  have hm : ∀ x, x ∈ words pair d i (f i) → x ∈ (l.map fun i => words pair d i (f i)).flatten :=
    fun x hx => List.mem_flatten.mpr ⟨_, List.mem_map.mpr ⟨i, hi, rfl⟩, hx⟩
  have hi' := hl i hi
  have lo : sget 0 (ssetAll 0 m (l.map fun i => words pair d i (f i)).flatten) (d * 1024 + i) = (f i).setWidth 32 := by
    refine sget_ssetAll_mem 0 _ m (x := (d * 1024 + i, (f i).setWidth 32)) (hm _ (by cases pair <;> simp [words])) ?_
    intro y hy e
    obtain ⟨j, hj, rfl | ⟨hp, rfl⟩⟩ := mem_laneWords hy
    · have := hl j hj
      have : j = i := by simp only at e; omega
      rw [this]
    · have := hl j hj
      simp only at e; omega
  cases pair with
  | false => simp only [Bool.false_eq_true, if_false, heldIn, lo]
  | true =>
    have up : sget 0 (ssetAll 0 m (l.map fun i => words true d i (f i)).flatten) ((d + 1) * 1024 + i) = (f i).extractLsb' 32 32 := by
      refine sget_ssetAll_mem 0 _ m (x := ((d + 1) * 1024 + i, (f i).extractLsb' 32 32)) (hm _ (by simp [words])) ?_
      intro y hy e
      obtain ⟨j, hj, rfl | ⟨_, rfl⟩⟩ := mem_laneWords hy
      · have := hl j hj
        simp only at e; omega
      · have := hl j hj
        have : j = i := by simp only at e; omega
        rw [this]
    simp only [if_true, heldIn, lo, up]
    apply BitVec.eq_of_getLsbD_eq
    intro k hk
    rw [BitVec.getLsbD_append]
    by_cases h : k < 32
    · simp [h]
    · have h2 : k - 32 < 32 := by omega
      have h3 : 32 + (k - 32) = k := by omega
      simp [h, h2, h3]

/-! ### Issuing under `Issues` -/

theorem modWave_modWave (s : State) (b w : Nat) (f g : Wave → Wave) : (s.modWave b w f).modWave b w g = s.modWave b w fun v => g (f v) := by
  have h : ∀ {α : Type} (l : List α) (i : Nat) (f g : α → α), upd (upd l i f) i g = upd l i fun x => g (f x) := by
    intro α l i f g
    induction l generalizing i with
    | nil => rfl
    | cons x t ih => cases i <;> simp [upd, ih]
  unfold State.modWave State.modBlock Block.modWave
  simp only [h]

section
variable {s : State} {u : Cursor} {sw : Bool} {form : Env → Form}

theorem arm_beginSegment (hb : u.b < s.blocks.length) (hw : u.w < (s.block u.b).waves.length)
    (ha : u.armB = true → (s.wave u.b u.w).b.isSome = true) :
    (s.beginSegment u sw).arm u = { s.arm u with dmask := if sw then 0 else (s.arm u).dmask } := by
  unfold State.beginSegment State.arm State.modArm
  rw [wave_modWave_self s _ hb hw, Wave.arm_modArm _ _ _ ha]

/-- R21: under `Issues` an instruction does its work on the state after its switch marker. -/
theorem Issues.issue (h : Issues s u sw form) (len : Nat) (body : Env → State → Out) :
    issue sw len form body s = (s.beginSegment u sw).finish u len (body ((s.beginSegment u sw).env u) (s.beginSegment u sw)) := by
  unfold Machine.issue
  have hf : ((form ((s.beginSegment u sw).env u)).mem && ((s.beginSegment u sw).env u).arm.fence.isSome) = false := by
    cases hm : (form ((s.beginSegment u sw).env u)).mem with
    | false => rfl
    | true =>
      have h2 : ((s.beginSegment u sw).env u).arm.fence = (s.arm u).fence := by
        show ((s.beginSegment u sw).arm u).fence = _
        rw [arm_beginSegment h.block h.wave h.arm]
      simp [h2, h.fence hm]
  have hc : (s.beginSegment u sw).correctRegs ((s.beginSegment u sw).env u) (form ((s.beginSegment u sw).env u)) = s.beginSegment u sw := by
    simp [State.correctRegs, h.soft]
  have hr : (s.beginSegment u sw).raiseFor ((s.beginSegment u sw).env u) (form ((s.beginSegment u sw).env u)) = s.beginSegment u sw := by
    have hl : ((s.beginSegment u sw).env u).wv.late = (s.wave u.b u.w).late := by
      show ((s.beginSegment u sw).wave u.b u.w).late = _
      unfold State.beginSegment State.modArm
      rw [wave_modWave_self s _ h.block h.wave]; rfl
    have hm : ((s.beginSegment u sw).env u).arm.mode = (s.arm u).mode := by
      show ((s.beginSegment u sw).arm u).mode = _
      rw [arm_beginSegment h.block h.wave h.arm]
    unfold State.raiseFor
    dsimp only
    rw [hl, hm, if_neg]
    simp only [List.any_eq_true, List.contains_iff_mem, not_exists, not_and]
    exact fun x hx q hq => h.ready x hx q hq
  simp only [h.cur, h.free, hf, h.ok, hc, hr, Bool.false_eq_true, if_false]

/-- The environment after the switch marker differs in the destination mask only. -/
theorem Issues.env (h : Issues s u sw form) :
    (s.beginSegment u sw).env u =
      { s.env u with
        blk := { s.block u.b with waves := upd (s.block u.b).waves u.w fun w => w.modArm u.armB fun a => { a with dmask := if sw then 0 else a.dmask } }
        wv := (s.wave u.b u.w).modArm u.armB fun a => { a with dmask := if sw then 0 else a.dmask }
        arm := { s.arm u with dmask := if sw then 0 else (s.arm u).dmask } } := by
  have hk : (s.beginSegment u sw).block u.b = _ := block_modWave_self s u.w (fun w => w.modArm u.armB fun a => { a with dmask := if sw then 0 else a.dmask }) h.block
  have hv : (s.beginSegment u sw).wave u.b u.w = _ := wave_modWave_self s (fun w => w.modArm u.armB fun a => { a with dmask := if sw then 0 else a.dmask }) h.block h.wave
  have ha := arm_beginSegment (sw := sw) h.block h.wave h.arm
  have h1 : (s.beginSegment u sw).env u = Env.mk u ((s.beginSegment u sw).block u.b) (s.launch ((s.beginSegment u sw).block u.b).launch)
      (s.ctx (s.launch ((s.beginSegment u sw).block u.b).launch).ctx) ((s.beginSegment u sw).wave u.b u.w) ((s.beginSegment u sw).arm u)
      (((s.beginSegment u sw).arm u).mask &&& ((s.beginSegment u sw).wave u.b u.w).preg (modeGP ((s.beginSegment u sw).arm u).mode) &&&
        lowMask (s.launch ((s.beginSegment u sw).block u.b).launch).lanes) := rfl
  rw [h1, hk, hv, ha]
  rfl

/-! ### Fixed-latency effects -/

/-- The wave after a fixed-latency effect that is ready in clk n: segment, effect, arm. -/
def wentOn (s : State) (u : Cursor) (sw : Bool) (f : Eff) (pc : DWord) (n : Nat) (w : Wave) : Wave :=
  ((w.modArm u.armB fun a => { a with dmask := if sw then 0 else a.dmask }).applyLate f n).modArm u.armB
    fun a => { a with pc := pc, lastIssue := s.ticks, reason := 0, skipBp := false }

theorem closed_write (e : Env) (he : e.u = u) (f : Eff) (pc : DWord) (lat : Nat := 4) :
    (e.write f (s.beginSegment u sw) lat).advance u pc = s.modWave u.b u.w (wentOn s u sw f pc (e.readyAt s lat)) := by
  subst he
  show ((State.modWave s e.u.b e.u.w _).modWave e.u.b e.u.w fun v => v.applyLate f (e.readyAt s lat)).modWave e.u.b e.u.w _ = _
  rw [modWave_modWave, modWave_modWave]
  rfl

/-- A change of one wave leaves everything else. -/
theorem othersKept_modWave (f : Wave → Wave) (h : u.b < s.blocks.length) : OthersKept s (s.modWave u.b u.w f) u where
  memory _ := rfl
  blocks _ hb := block_modWave_other s u.w f hb
  block := by rw [block_modWave_self s u.w f h]
  waves _ hw := wave_modWave_other s f h hw
  fields := rfl

theorem Issues.wentWave (h : Issues s u sw form) (f : Eff) (pc : DWord) (n : Nat) :
    (s.modWave u.b u.w (wentOn s u sw f pc n)).wave u.b u.w = wentOn s u sw f pc n (s.wave u.b u.w) := wave_modWave_self s _ h.block h.wave

theorem Issues.armWent (h : Issues s u sw form) (f : Eff) (pc : DWord) (n : Nat) : ArmWent s (s.modWave u.b u.w (wentOn s u sw f pc n)) u sw pc := by
  have hw := h.wentWave f pc n
  have key : (s.modWave u.b u.w (wentOn s u sw f pc n)).arm u =
      { s.arm u with dmask := if sw then 0 else (s.arm u).dmask, pc := pc, lastIssue := s.ticks, reason := 0, skipBp := false } := by
    show ((s.modWave u.b u.w (wentOn s u sw f pc n)).wave u.b u.w).arm u.armB = _
    rw [hw]
    unfold wentOn
    rw [Wave.arm_modArm, applyLate_arm, Wave.arm_modArm _ _ _ h.arm]
    · rfl
    · intro hb
      have := h.arm hb
      simpa [Wave.modArm, Wave.applyLate, Wave.apply, hb] using this
  refine ⟨by rw [key], by rw [key], by rw [key], ?_, ?_⟩
  · rw [hw]; unfold wentOn; rw [Wave.arm_modArm_other, applyLate_arm, Wave.arm_modArm_other]
  · rw [hw]; simp only [wentOn, Wave.applyLate, Wave.apply, Wave.modArm]

theorem Issues.regsKept (h : Issues s u sw form) (f : Eff) (pc : DWord) (n : Nat) (dv : Nat → Nat → Prop) (dk : Nat → Prop) (dp : Nat → Nat → Prop)
    (hv : ∀ r i, i < 1024 → ¬ dv r i → sget 0 (ssetAll 0 (s.wave u.b u.w).v f.v) (r * 1024 + i) = sget 0 (s.wave u.b u.w).v (r * 1024 + i))
    (hk : ∀ n, ¬ dk n → sget 0 (ssetAll 0 (s.wave u.b u.w).k f.k) n = sget 0 (s.wave u.b u.w).k n)
    (hp : ∀ n i, i < 1024 → ¬ dp n i → (Wave.preg { s.wave u.b u.w with p := setPs (s.wave u.b u.w).p f.p } n).getLsbD i = ((s.wave u.b u.w).preg n).getLsbD i) :
    RegsKept s (s.modWave u.b u.w (wentOn s u sw f pc n)) u dv dk dp := by
  refine ⟨fun r i hi hd => ?_, fun n hd => ?_, fun n i hi hd => ?_⟩ <;> rw [h.wentWave]
  · exact hv r i hi hd
  · exact hk n hd
  · exact hp n i hi hd

/-- R26, R92: the flags of an effect are due. -/
theorem Issues.flagsDue (h : Issues s u sw form) (f : Eff) (pc : DWord) (n : Nat) (regs : Nat → Prop)
    (hf : f.flags ≠ 0 → s.clk < n ∧ ∀ q, q ∈ f.regs ↔ regs q) : FlagsDue s (s.modWave u.b u.w (wentOn s u sw f pc n)) u f.flags regs := by
  refine ⟨?_, fun h0 => ?_, fun h0 => ⟨{ flags := f.flags, regs := f.regs, ready := n }, ?_, rfl, (hf h0).1, (hf h0).2⟩⟩ <;> rw [h.wentWave]
  · exact applyLate_status _ _ n
  · simp [wentOn, applyLate_late, Wave.modArm, h0]
  · have h1 : (f.flags == 0) = false := beq_false_of_ne h0
    simp only [wentOn, Wave.modArm, applyLate_late, h1, Bool.false_eq_true, if_false]

/-- A result of latency 2 or more is ready in a later clk. -/
theorem lt_readyAt (e : Env) (s : State) {lat : Nat} (h : 2 ≤ lat) : s.clk < e.readyAt s lat := by
  unfold Env.readyAt; omega

/-- A fixed-latency instruction over the active lanes has the result of its function over them. -/
theorem Issues.laneResult (h : Issues s u sw form) (len : Nat) (pair : Env → Bool) (d : VReg) (f : Env → Nat → DWord × BitVec 8)
    (lat : Nat := 4) (hlat : 2 ≤ lat := by decide) :
    ∃ t, Machine.issue sw len form (fun e t => vecBody pair d f e t lat) s = .next t ∧
      LaneResult s t u sw len d.toNat (pair ((s.beginSegment u sw).env u)) (f ((s.beginSegment u sw).env u)) := by
  have hpc : ((s.beginSegment u sw).arm u).pc = (s.arm u).pc := by rw [arm_beginSegment h.block h.wave h.arm]
  have hl : ((s.beginSegment u sw).env u).lanes = (s.env u).lanes := by rw [h.env]; rfl
  have hlt : ∀ i ∈ (s.env u).lanes, i < 1024 := fun i hi => lt_of_mem_lanesOf hi
  generalize he : (s.beginSegment u sw).env u = e at *
  have heu : e.u = u := by rw [← he]; rfl
  refine ⟨s.modWave u.b u.w (wentOn s u sw (laneEff e.lanes (pair e) d.toNat (f e)) ((s.arm u).pc + BitVec.ofNat 64 len) (e.readyAt s lat)), ?_, ?_⟩
  · rw [h.issue, he]
    show Host.Outcome.next (State.advance _ u _) = _
    rw [closed_write e heu _ _ lat, hpc]
  · rw [hl, laneEff_eq]
    refine ⟨othersKept_modWave _ h.block, h.armWent _ _ _, ?_, ?_, ?_⟩
    · exact h.regsKept _ _ _ _ _ _ (fun r i hi hd => laneWords_other _ _ hlt _ _ _ hi hd) (fun n _ => rfl) (fun n i _ _ => rfl)
    · intro i hi
      show (if _ then _ else _) = _
      show (if pair e then Wave.vreg (State.wave _ u.b u.w) _ _ ++ Wave.vreg (State.wave _ u.b u.w) _ _ else (Wave.vreg (State.wave _ u.b u.w) _ _).setWidth 64) = _
      rw [h.wentWave]
      exact laneWords_value _ _ hlt _ _ (fun i => (f e i).1) hi
    · exact h.flagsDue _ _ _ _ fun h0 => ⟨lt_readyAt _ _ hlat, fun q => by
        rw [← laneEff_eq]; exact mem_laneRegs hlt (ne_nil_of_flagsOver h0) _ _ _ q⟩

/-- R19: an active lane is below the lane count. -/
theorem act_lane (s : State) (u : Cursor) (i : Nat) : (s.env u).act.getLsbD i = true ↔ i ∈ (s.env u).lanes := by
  refine ⟨fun hi => mem_lanesOf.mpr ⟨?_, hi⟩, fun hi => (mem_lanesOf.mp hi).2⟩
  have h1 : (s.env u).act = ((s.env u).arm.mask &&& (s.env u).wv.preg (modeGP (s.env u).arm.mode)) &&& lowMask (s.env u).ln.lanes := rfl
  rw [h1, BitVec.getLsbD_and] at hi
  have h2 := (Bool.and_eq_true _ _ ▸ hi : _ ∧ _).2
  unfold lowMask at h2
  rw [BitVec.getLsbD_ofNat, Nat.testBit_two_pow_sub_one] at h2
  simp only [Bool.and_eq_true, decide_eq_true_eq] at h2
  exact h2.2

/-- A fixed-latency condition over the active lanes. -/
theorem Issues.condResult (h : Issues s u sw form) (len : Nat) (pd : PReg) (f : Env → Nat → Bool × BitVec 8) :
    ∃ t, Machine.issue sw len form (fun e t => .next (e.write (predEff e.lanes e.act pd (f e)) t)) s = .next t ∧
      CondResult s t u sw len pd.toNat (f ((s.beginSegment u sw).env u)) := by
  have hpc : ((s.beginSegment u sw).arm u).pc = (s.arm u).pc := by rw [arm_beginSegment h.block h.wave h.arm]
  have hl : ((s.beginSegment u sw).env u).lanes = (s.env u).lanes := by rw [h.env]; rfl
  have ha : ((s.beginSegment u sw).env u).act = (s.env u).act := by rw [h.env]
  generalize he : (s.beginSegment u sw).env u = e at *
  have heu : e.u = u := by rw [← he]; rfl
  refine ⟨s.modWave u.b u.w (wentOn s u sw (predEff e.lanes e.act pd (f e)) ((s.arm u).pc + BitVec.ofNat 64 len) (e.readyAt s 4)), ?_, ?_⟩
  · rw [h.issue, he]
    show Host.Outcome.next (State.advance _ u _) = _
    rw [closed_write e heu, hpc]
  · rw [hl, ha, predEff_eq]
    have key : ∀ n i, i < 1024 → ∀ x : Wave, x.p = setPs (s.wave u.b u.w).p [(pd.toNat, (s.env u).act, maskOf ((s.env u).lanes.filter fun i => (f e i).1))] →
        (x.preg n).getLsbD i = if n = pd.toNat ∧ pd.toNat ≠ 0 ∧ i ∈ (s.env u).lanes then (f e i).1 else ((s.wave u.b u.w).preg n).getLsbD i := by
      intro n i hi x hx
      rw [preg_setPs (s.wave u.b u.w) x pd.toNat n _ _ i hx, getLsbD_maskOf _ _ hi]
      simp only [act_lane]
      by_cases hc : n = pd.toNat ∧ pd.toNat ≠ 0 ∧ i ∈ (s.env u).lanes
      · rw [if_pos hc, if_pos hc]; simp [hc.2.2]
      · rw [if_neg hc, if_neg hc]
    refine ⟨othersKept_modWave _ h.block, h.armWent _ _ _, ?_, ?_, ?_⟩
    · refine h.regsKept _ _ _ _ _ _ (fun r i _ _ => rfl) (fun n _ => rfl) (fun n i hi hd => ?_)
      rw [key n i hi _ rfl, if_neg]
      exact fun hc => hd ⟨hc.2.2, hc.1, hc.2.1⟩
    · intro h0 i hi
      rw [h.wentWave, key pd.toNat i (lt_of_mem_lanesOf hi) _ rfl, if_pos ⟨rfl, h0, hi⟩]
    · exact h.flagsDue _ _ _ _ fun _ => ⟨lt_readyAt _ _ (by decide), fun q => by simp [Eff.regs]⟩

/-- A uniform result. -/
theorem Issues.uniformResult (h : Issues s u sw form) (kd : Nat) (x pc : DWord) (n : Nat) :
    UniformResult s (s.modWave u.b u.w (wentOn s u sw { k := [(kd, x)] } pc n)) u sw pc kd x := by
  refine ⟨othersKept_modWave _ h.block, h.armWent _ _ _, ?_, ?_, ?_⟩
  · exact h.regsKept _ _ _ _ _ _ (fun r i _ _ => rfl) (fun n hn => sget_ssetAll_other _ _ _ (by simpa using fun e => hn e.symm)) (fun n i _ _ => rfl)
  · rw [h.wentWave]; exact sget_sset_self _ _ _ _
  · exact h.flagsDue _ _ _ _ fun h0 => absurd rfl h0

/-- Nothing but the arm's place. -/
theorem Issues.pcResult (h : Issues s u sw form) (pc : DWord) : PcResult s ((s.beginSegment u sw).advance u pc) u sw pc := by
  have e : (s.beginSegment u sw).advance u pc = s.modWave u.b u.w (wentOn s u sw {} pc 0) := by
    show (State.modWave s u.b u.w _).modWave u.b u.w _ = _
    rw [modWave_modWave]
    refine congrArg (State.modWave s u.b u.w) (funext fun w => ?_)
    simp [wentOn, Wave.applyLate, Wave.apply, ssetAll, setPs, Wave.modArm, State.beginSegment] <;>
      exact ⟨(List.filter_eq_self.mpr fun _ _ => rfl).symm, (List.filter_eq_self.mpr fun _ _ => rfl).symm⟩
  rw [e]
  refine ⟨othersKept_modWave _ h.block, h.armWent _ _ _, ?_, ?_⟩
  · exact h.regsKept _ _ _ _ _ _ (fun r i _ _ => rfl) (fun n _ => rfl) (fun n i _ _ => rfl)
  · exact h.flagsDue _ _ _ _ fun h0 => absurd rfl h0

/-- The wave after a variable-latency instruction: segment, outstanding result, arm. -/
def wentPending (s : State) (u : Cursor) (sw : Bool) (r : OutRes) (bits : List Nat) (pc : DWord) (w : Wave) : Wave :=
  { w.modArm u.armB fun a => { a with dmask := (if sw then 0 else a.dmask) ||| dmaskOf bits, pc := pc, lastIssue := s.ticks, reason := 0, skipBp := false } with
    outst := w.outst ++ [r] }

/-- The result that the next `outstanding` makes. -/
def pendingRes (s : State) (u : Cursor) (kind : ResKind) (f : Eff) (kd : Nat) : OutRes :=
  { id := s.nextId, owner := if u.armB then 1 else 0, kind := kind, eff := f, kd := kd, at' := s.clk }

theorem modArm_modArm (w : Wave) (b : Bool) (f g : Arm → Arm) : (w.modArm b f).modArm b g = w.modArm b fun a => g (f a) := by
  cases b <;> simp [Wave.modArm, Function.comp_def]

theorem closed_outstanding (e : Env) (he : e.u = u) (kind : ResKind) (f : Eff) (bits : List Nat) (kd : Nat) (pc : DWord) :
    (e.outstanding kind f bits kd (s.beginSegment u sw)).advance u pc =
      State.modWave { s with nextId := s.nextId + 1 } u.b u.w (wentPending s u sw (pendingRes s u kind f kd) bits pc) := by
  subst he
  have h1 : (e.outstanding kind f bits kd (s.beginSegment e.u sw)).advance e.u pc =
      State.modWave (State.modWave (State.modWave (State.modWave { s with nextId := s.nextId + 1 } e.u.b e.u.w
        (fun w => w.modArm e.u.armB fun a => { a with dmask := if sw then 0 else a.dmask })) e.u.b e.u.w
        (fun v => { v with outst := v.outst ++ [pendingRes s e.u kind f kd] })) e.u.b e.u.w
        (fun w => w.modArm e.u.armB fun a => { a with dmask := a.dmask ||| dmaskOf bits })) e.u.b e.u.w
        (fun w => w.modArm e.u.armB fun a => { a with pc := pc, lastIssue := s.ticks, reason := 0, skipBp := false }) := rfl
  rw [h1, modWave_modWave, modWave_modWave, modWave_modWave]
  refine congrArg (State.modWave _ e.u.b e.u.w) (funext fun w => ?_)
  unfold wentPending Wave.modArm
  cases e.u.armB <;> simp [Function.comp_def]

/-- A variable-latency result bound at issue. -/
theorem Issues.pendingResult (h : Issues s u sw form) (e : Env) (he : e.u = u) (len : Nat) (kind : ResKind) (f : Eff) (bits : List Nat) (kd : Nat) :
    PendingResult s ((e.outstanding kind f bits kd (s.beginSegment u sw)).advance u ((s.arm u).pc + BitVec.ofNat 64 len)) u sw len kind f bits := by
  rw [closed_outstanding e he]
  generalize hpc : (s.arm u).pc + BitVec.ofNat 64 len = pc
  generalize hr : pendingRes s u kind f kd = r
  have hb : u.b < ({ s with nextId := s.nextId + 1 } : State).blocks.length := h.block
  have hw := wave_modWave_self { s with nextId := s.nextId + 1 } (wentPending s u sw r bits pc) hb h.wave
  have ok := othersKept_modWave (s := { s with nextId := s.nextId + 1 }) (u := u) (wentPending s u sw r bits pc) hb
  have harm : (State.modWave { s with nextId := s.nextId + 1 } u.b u.w (wentPending s u sw r bits pc)).arm u =
      { s.arm u with dmask := (if sw then 0 else (s.arm u).dmask) ||| dmaskOf bits, pc := pc, lastIssue := s.ticks, reason := 0, skipBp := false } := by
    unfold State.arm
    rw [hw]
    exact Wave.arm_modArm (s.wave u.b u.w) u.armB _ h.arm
  refine ⟨⟨?_, ?_, ?_, ?_, ?_, ?_, ?_⟩, rfl⟩
  · exact ⟨⟨ok.blocks, ok.block, ok.waves⟩, ok.memory⟩
  · rw [harm, hpc]
  · rw [harm]
  · rw [harm]
  · rw [hw]; exact Wave.arm_modArm_other (s.wave u.b u.w) u.armB _
  · exact ⟨r, by rw [hw]; rfl, by rw [← hr]; rfl, by rw [← hr]; rfl, by rw [← hr]; rfl, by rw [← hr]; rfl⟩
  · rw [hw]; rfl

end

end Sys2Proof.Machine
end

