-- ==== Sys2Proof/Laws/Memory.lean ====
section
/-! SUPPORT. Every operation that writes memory keeps its canonical form, and the shared operations that write none leave it as it
is: what a proof that steps keep memory canonical cites instead of unfolding them. -/
namespace Sys2Proof.Machine

theorem reset_memWf : State.reset.memWf = true := rfl
theorem memWf_congr {s t : State} (h : t.mem = s.mem) : t.memWf = s.memWf := congrArg Memory.wf h
theorem foldl_memWf {α : Type} {f : State → α → State} (hf : ∀ s x, s.memWf = true → (f s x).memWf = true) (l : List α) :
    ∀ s : State, s.memWf = true → (l.foldl f s).memWf = true := by
  induction l with
  | nil => exact fun _ h => h
  | cons x t ih => exact fun s h => ih _ (hf s x h)
theorem foldl_memWf_eq {α : Type} {f : State → α → State} (hf : ∀ s x, (f s x).memWf = s.memWf) (l : List α) :
    ∀ s : State, (l.foldl f s).memWf = s.memWf := by
  induction l with
  | nil => exact fun _ => rfl
  | cons x t ih => exact fun s => (ih _).trans (hf s x)
theorem foldl_fst_memWf {α β : Type} {f : State × β → α → State × β} (hf : ∀ a x, a.1.memWf = true → (f a x).1.memWf = true) (l : List α) :
    ∀ a : State × β, a.1.memWf = true → (l.foldl f a).1.memWf = true := by
  induction l with
  | nil => exact fun _ h => h
  | cons x t ih => exact fun a h => ih _ (hf a x h)

/-! ### Writing bytes -/

/-- R31, R233: bytes written at the home slices keep memory canonical. -/
@[simp] theorem putBytes_memWf (s : State) (own : Option Nat) (l : List (Nat × Byte)) (h : s.memWf = true) : (s.putBytes own l).memWf = true :=
  swf_ssetAll (0 : Byte) l h
@[simp] theorem agentWrite_memWf (s : State) (l : List (Nat × Byte)) (own : Option Nat) (h : s.memWf = true) : (s.agentWrite l own).memWf = true :=
  swf_ssetAll (0 : Byte) l h
@[simp] theorem engineWrite_memWf (s : State) (l : List (Nat × Byte)) (h : s.memWf = true) : (s.engineWrite l).memWf = true := by
  unfold State.engineWrite
  split
  · exact agentWrite_memWf s _ none h
  · exact agentWrite_memWf s _ none h
/-- A byte that no cell names stays. -/
theorem putBytes_byteAt_other (s : State) (own : Option Nat) (l : List (Nat × Byte)) {a : Nat} (h : ∀ x ∈ l, x.1 ≠ a) :
    (s.putBytes own l).byteAt a = s.byteAt a := sget_ssetAll_other 0 l s.mem h

/-! ### Operations that write no memory -/

@[simp] theorem modBlock_memWf (s : State) (b : Nat) (f : Block → Block) : (s.modBlock b f).memWf = s.memWf := rfl
@[simp] theorem modLaunch_memWf (s : State) (l : Nat) (f : Launch → Launch) : (s.modLaunch l f).memWf = s.memWf := rfl
@[simp] theorem modCtx_memWf (s : State) (x : Nat) (f : Context → Context) : (s.modCtx x f).memWf = s.memWf := rfl
@[simp] theorem modCore_memWf (s : State) (c : Nat) (f : Core → Core) : (s.modCore c f).memWf = s.memWf := rfl
@[simp] theorem modDev_memWf (s : State) (f : Dev → Dev) : (s.modDev f).memWf = s.memWf := rfl
@[simp] theorem modGraph_memWf (s : State) (g : Nat) (f : Graph → Graph) : (s.modGraph g f).memWf = s.memWf := rfl
@[simp] theorem modWave_memWf (s : State) (b w : Nat) (f : Wave → Wave) : (s.modWave b w f).memWf = s.memWf := rfl
@[simp] theorem modGang_memWf (s : State) (l g : Nat) (f : Gang → Gang) : (s.modGang l g f).memWf = s.memWf := rfl
@[simp] theorem modArm_memWf (s : State) (u : Cursor) (f : Arm → Arm) : (s.modArm u f).memWf = s.memWf := rfl
@[simp] theorem clearRaceAt_memWf (s : State) (keys : List Nat) : (s.clearRaceAt keys).memWf = s.memWf := rfl
@[simp] theorem clearSyncAt_memWf (s : State) (keys : List Nat) : (s.clearSyncAt keys).memWf = s.memWf := rfl
@[simp] theorem answer_memWf (s : State) (r : Nat) : (s.answer r).memWf = s.memWf := rfl
@[simp] theorem report_memWf (s : State) (b w : Nat) (d : Deferred) : (s.report b w d).memWf = s.memWf := rfl
@[simp] theorem reportAt_memWf (s : State) (b w cause sub : Nat) (info site : DWord) : (s.reportAt b w cause sub info site).memWf = s.memWf := rfl
@[simp] theorem predOther_memWf (s : State) (core line : Nat) : (s.predOther core line).memWf = s.memWf := rfl
@[simp] theorem advance_memWf (s : State) (u : Cursor) (pc : DWord) : (s.advance u pc).memWf = s.memWf := rfl
@[simp] theorem beginSegment_memWf (s : State) (u : Cursor) (sw : Bool) : (s.beginSegment u sw).memWf = s.memWf := rfl
@[simp] theorem modResult_memWf (s : State) (b w id : Nat) (f : OutRes → OutRes) : (s.modResult b w id f).memWf = s.memWf := rfl
@[simp] theorem modBank_memWf (s : State) (core i : Nat) (f : Bank → Bank) : (s.modBank core i f).memWf = s.memWf := rfl
@[simp] theorem breakBand_memWf (s : State)  : (s.breakBand).memWf = s.memWf := rfl
@[simp] theorem warn_memWf (s : State) (die : Nat) : (s.warn die).memWf = s.memWf := rfl
@[simp] theorem moveGranule_memWf (s : State) (g : Nat) (byte : Byte) (old d : Nat) : (s.moveGranule g byte old d).memWf = s.memWf := rfl
@[simp] theorem setPred_memWf (s : State) (p : Pred) : (s.setPred p).memWf = s.memWf := rfl
@[simp] theorem answerSetup_memWf (s : State) (r : Nat) : (s.answerSetup r).memWf = s.memWf := by
  unfold State.answerSetup
  try dsimp only
  repeat' split
  all_goals first | rfl | (simp; done) | (simp [apply_ite State.memWf]; done) | (simp; rfl)
@[simp] theorem feedTo_memWf (s : State) (f : Nat → Bool) (src sel : Nat) (xs : List Int) : (s.feedTo f src sel xs).memWf = s.memWf := by
  unfold State.feedTo
  try dsimp only
  repeat' split
  all_goals first | rfl | (simp; done) | (simp [apply_ite State.memWf]; done) | (simp; rfl)
@[simp] theorem feed_memWf (s : State) (die src sel : Nat) (xs : List Int) : (s.feed die src sel xs).memWf = s.memWf := by
  exact feedTo_memWf ..
@[simp] theorem collect_memWf (s : State) (r : CollRec) : (s.collect r).memWf = s.memWf := by
  unfold State.collect
  try dsimp only
  repeat' split
  all_goals first | rfl | (simp; done) | (simp [apply_ite State.memWf]; done) | (simp; rfl)
@[simp] theorem collect8_memWf (s : State) (x reason : Nat) : (s.collect8 x reason).memWf = s.memWf := by
  unfold State.collect8
  try dsimp only
  repeat' split
  all_goals first | rfl | (simp; done) | (simp [apply_ite State.memWf]; done) | (simp; rfl)
@[simp] theorem loseBank_memWf (s : State) (unit bank : Nat) : (s.loseBank unit bank).memWf = s.memWf := by
  unfold State.loseBank
  dsimp only
  repeat' split
  all_goals first | rfl | (simp; done) | exact collect_memWf s _
@[simp] theorem countCorrected_memWf (s : State) (unit bank : Nat) : (s.countCorrected unit bank).memWf = s.memWf := by
  unfold State.countCorrected
  dsimp only
  split <;> simp
@[simp] theorem burstCorrect_memWf (s : State) (burst : Nat) : (s.burstCorrect burst).memWf = s.memWf := by
  unfold State.burstCorrect
  split
  · exact collect_memWf _ _
  · rfl
@[simp] theorem l2Correct_memWf (s : State) (at' : Nat × Nat) : (s.l2Correct at').memWf = s.memWf := by
  unfold State.l2Correct
  dsimp only
  repeat' split
  · exact countCorrected_memWf ..
  · exact countCorrected_memWf ..
  · rfl
@[simp] theorem memCorrect_memWf (s : State) (key n : Nat) : (s.memCorrect key n).memWf = s.memWf := by
  unfold State.memCorrect
  split
  · rfl
  · exact (foldl_memWf_eq l2Correct_memWf _ _).trans (foldl_memWf_eq burstCorrect_memWf _ _)
@[simp] theorem recall_memWf (s : State) (l : List Nat) : (s.recall l).memWf = s.memWf := by
  unfold State.recall
  split <;> rfl
@[simp] theorem walked_memWf (s : State) (c : Context) (va : DWord) : (s.walked c va).memWf = s.memWf := by
  unfold State.walked
  dsimp only
  rw [recall_memWf]
  split
  · rfl
  · exact foldl_memWf_eq (fun s k => memCorrect_memWf s k 8) _ s
@[simp] theorem ctxFix_memWf (s : State) (c : Context) (va : DWord) (n : Nat) : (s.ctxFix c va n).memWf = s.memWf := by
  have h0 : ∀ l : List DWord, (l.foldl (fun s va => s.walked c va) s).memWf = s.memWf := fun l => foldl_memWf_eq (fun s va => walked_memWf s c va) l s
  have h1 : ∀ (l : List Nat) (t : State), (l.foldl (fun s k => s.memCorrect k 1) t).memWf = t.memWf :=
    fun l t => foldl_memWf_eq (fun s k => memCorrect_memWf s k 1) l t
  have h2 : ∀ (t : State) (p : Sparse (Option Byte)), ({ t with peerMem := p } : State).memWf = t.memWf := fun _ _ => rfl
  unfold State.ctxFix
  dsimp only
  repeat' split
  all_goals simp only [h2, recall_memWf, h1, h0]
@[simp] theorem evictRaces_memWf (s : State) : s.evictRaces.memWf = s.memWf := by
  unfold State.evictRaces
  split <;> rfl
@[simp] theorem peerKnow_memWf (s : State) (key : Nat) (l : List (Option Byte)) : (s.peerKnow key l).memWf = s.memWf := rfl
@[simp] theorem peerRead_memWf (s : State) (key n : Nat) : (s.peerRead key n).2.memWf = s.memWf := rfl
@[simp] theorem countWaits_memWf (s : State) (d : Nat) : (s.countWaits d).memWf = s.memWf := rfl
@[simp] theorem ripen_memWf (s : State) (clk : Nat) : (s.ripen clk).memWf = s.memWf := rfl
@[simp] theorem pruneYields_memWf (s : State) : s.pruneYields.memWf = s.memWf := rfl
@[simp] theorem endClk_memWf (s : State) (d : Nat) : (s.endClk d).memWf = s.memWf := rfl
/-- R438: what a stop of the dies and stacks leaves of memory. -/
theorem stopAll_memWf {s : State} (h : s.memWf = true) : s.stopAll.memWf = true := swfFrom_filter (0 : Byte) (fun k => decide (hostBit ≤ k)) h
/-- R439: the end of ROM's authentication. -/
theorem authenticate_memWf {s : State} (h : s.memWf = true) : s.authenticate.memWf = true := by
  unfold State.authenticate
  repeat' split
  · exact h
  · exact h
  · exact stopAll_memWf h
theorem tick_memWf {s : State} (h : s.memWf = true) : s.tick.memWf = true := by
  have h0 : (if s.dev.stage == 1 && s.pick 4200 % 2 == 1 then s.authenticate else s).memWf = true := by
    split
    · exact authenticate_memWf h
    · exact h
  unfold State.tick
  generalize (if s.dev.stage == 1 && s.pick 4200 % 2 == 1 then s.authenticate else s) = x at h0 ⊢
  show (((((x.evictRaces).countWaits (Config.rawAdvance x.freeCount)).ripen (x.clk + Config.clkAdvance x.freeCount)).pruneYields).endClk (Config.clkAdvance x.freeCount)).memWf = true
  rw [endClk_memWf, pruneYields_memWf, ripen_memWf, countWaits_memWf, evictRaces_memWf, h0]
@[simp] theorem keepLeaf_memWf (s : State) (t : Tlb) : (s.keepLeaf t).memWf = s.memWf := by
  unfold State.keepLeaf
  split <;> rfl
@[simp] theorem keepPointers_memWf (s : State) (l : List Walk) : (s.keepPointers l).memWf = s.memWf := by
  refine foldl_memWf_eq (fun s p => ?_) l s
  split <;> rfl
@[simp] theorem fillTlb_memWf (s : State) (die : Nat) (c : Context) (va : DWord) : (s.fillTlb die c va).memWf = s.memWf := by
  unfold State.fillTlb
  dsimp only
  repeat' split
  all_goals simp
@[simp] theorem scrCorrect_memWf (s : State) (core a : Nat) : (s.scrCorrect core a).memWf = s.memWf := by
  unfold State.scrCorrect
  try dsimp only
  repeat' split
  all_goals first | rfl | (simp; done) | (simp [apply_ite State.memWf]; done) | (simp; rfl)
@[simp] theorem hostError_memWf (s : State) (pa kind : Nat) : (s.hostError pa kind).memWf = s.memWf := by
  unfold State.hostError
  try dsimp only
  repeat' split
  all_goals first | rfl | (simp; done) | (simp [apply_ite State.memWf]; done) | (simp; rfl)
@[simp] theorem setPoint_memWf (s : State) (die p : Nat) : (s.setPoint die p).memWf = s.memWf := by
  unfold State.setPoint
  try dsimp only
  repeat' split
  all_goals first | rfl | (simp; done) | (simp [apply_ite State.memWf]; done) | (simp; rfl)
@[simp] theorem pointDown_memWf (s : State) (die : Nat) : (s.pointDown die).memWf = s.memWf := by
  unfold State.pointDown
  try dsimp only
  repeat' split
  all_goals first | rfl | (simp; done) | (simp [apply_ite State.memWf]; done) | (simp; rfl)
@[simp] theorem pointUp_memWf (s : State) (die : Nat) : (s.pointUp die).memWf = s.memWf := by
  unfold State.pointUp
  try dsimp only
  repeat' split
  all_goals first | rfl | (simp; done) | (simp [apply_ite State.memWf]; done) | (simp; rfl)
@[simp] theorem scrCorrectAll_memWf (s : State) (core : Nat) (l : List Nat) : (s.scrCorrectAll core l).memWf = s.memWf := by
  exact foldl_memWf_eq (fun s a => scrCorrect_memWf s core a) l s
@[simp] theorem scrPut_memWf (s : State) (core : Nat) (l : List (Nat × Byte)) : (s.scrPut core l).memWf = s.memWf := by
  unfold State.scrPut
  dsimp only
  split <;> simp
@[simp] theorem correctRegs_memWf (s : State) (e : Env) (f : Form) : (s.correctRegs e f).memWf = s.memWf := by
  unfold State.correctRegs
  dsimp only
  split <;> simp
@[simp] theorem raiseFor_memWf (s : State) (e : Env) (f : Form) : (s.raiseFor e f).memWf = s.memWf := by
  unfold State.raiseFor
  dsimp only
  split <;> simp
@[simp] theorem dropSend_memWf (s : State) (u : Cursor) : (s.dropSend u).memWf = s.memWf := rfl
@[simp] theorem calibrate_memWf (s : State) (core i : Nat) : (s.calibrate core i).memWf = s.memWf := by
  simp [State.calibrate]
@[simp] theorem feedLoads_memWf (s : State) (b : Nat) (l : List OutRes) : (s.feedLoads b l).memWf = s.memWf := by
  exact foldl_memWf_eq (fun s r => feed_memWf s _ _ _ _) l s
@[simp] theorem writeBound_memWf (s : State) (b w : Nat) : (s.writeBound b w).memWf = s.memWf := by
  unfold State.writeBound
  dsimp only
  split <;> simp
@[simp] theorem fillTlbs_memWf (s : State) (e : Env) (l : List DWord) : (s.fillTlbs e l).memWf = s.memWf := by
  exact foldl_memWf_eq (fun s va => fillTlb_memWf s _ _ va) l s
@[simp] theorem l1Settle_memWf (s : State) (core key n : Nat) : (s.l1Settle core key n).memWf = s.memWf := by
  refine foldl_memWf_eq (fun s g => ?_) _ s
  split <;> rfl
@[simp] theorem noteWord_memWf (s : State) (u : Cursor) (i : Nat) : (s.noteWord u i).memWf = s.memWf := by
  unfold State.noteWord
  dsimp only
  repeat' split
  all_goals simp
@[simp] theorem noteFetch_memWf (s : State) (u : Cursor) (n : Nat) : (s.noteFetch u n).memWf = s.memWf :=
  foldl_memWf_eq (fun s i => noteWord_memWf s u i) _ s

/-! ### Writers -/

/-- R385, R339: a store into a context's memory by an engine or firmware. -/
theorem ctxStore_memWf {s t : State} {c : Context} {va : DWord} {l : List Byte} (hs : s.ctxStore c va l = .ok t) (h : s.memWf = true) : t.memWf = true := by
  unfold State.ctxStore at hs
  repeat' split at hs
  all_goals cases hs
  exact engineWrite_memWf s _ h
theorem engineStore_memWf {s t : State} {c : Context} {va : DWord} {race sync : Bool} {l : List Byte} (hs : s.engineStore c va race sync l = .ok t)
    (h : s.memWf = true) : t.memWf = true := by
  unfold State.engineStore at hs
  split at hs
  · next hc =>
    cases hs
    have := ctxStore_memWf hc h
    split <;> split <;> simpa using this
  · cases hs
  · cases hs
theorem counterAdd_memWf {s t : State} {c : Context} {va inc : DWord} {path : Bool} (hs : s.counterAdd c va inc path = .ok t) (h : s.memWf = true) :
    t.memWf = true := by
  unfold State.counterAdd at hs
  split at hs
  · cases hs
  · exact engineStore_memWf hs (by simpa using h)
theorem loseRecord_memWf {s t : State} {x : Nat} {d : List Byte} (hs : s.loseRecord x d = some t) (h : s.memWf = true) : t.memWf = true := by
  unfold State.loseRecord at hs
  split at hs
  · next hc => cases hs; exact ctxStore_memWf hc h
  · cases hs
theorem notify_memWf {s : State} {x : Nat} {d : List Byte} (h : s.memWf = true) : (s.notify x d).memWf = true := by
  unfold State.notify
  dsimp only
  repeat' split
  · exact h
  · simpa using h
  · next hc => exact ctxStore_memWf hc (by simpa using h)
  · simpa using h
/-- R385: posting a fault record. -/
theorem post_memWf {s : State} {x : Nat} {r : FaultRec} (h0 : s.memWf = true) : (s.post x r).memWf = true := by
  have h : (s.ctxFix (s.ctx x) (s.ctx x).ccb 64).memWf = true := (ctxFix_memWf ..).trans h0
  unfold State.post
  dsimp only
  split
  · simpa using h0
  · split
    · split
      · next hc => simpa using loseRecord_memWf hc h
      · simpa using h0
    · split
      · cases hc : (s.ctxFix (s.ctx x) (s.ctx x).ccb 64).loseRecord x _ with
        | none => simpa using h0
        | some t => simpa using loseRecord_memWf hc h
      · split
        · split
          · next hc => simpa using loseRecord_memWf hc h
          · simpa using h0
        · next hc =>
          split
          · simpa using h0
          · next hd => exact notify_memWf (ctxStore_memWf hd (ctxStore_memWf hc h))
theorem deliver_memWf {s : State} {r : Report} (h : s.memWf = true) : (s.deliver r).memWf = true := by
  unfold State.deliver
  dsimp only
  repeat' split
  · exact post_memWf h
  · exact post_memWf h
  · simpa using h
theorem deliverAll_memWf {s : State} {b w : Nat} (h : s.memWf = true) : (s.deliverAll b w).memWf = true := by
  unfold State.deliverAll
  dsimp only
  exact foldl_memWf (f := State.deliver) (fun _ _ h => deliver_memWf h) _ _ (show Memory.wf s.mem = true from h)
/-- R156: taking a trap. -/
theorem trapNow_memWf {s : State} {u : Cursor} {x : TrapWait} (h : s.memWf = true) : (s.trapNow u x).memWf = true := by
  have h1 := deliverAll_memWf (b := u.b) (w := u.w) h
  unfold State.trapNow
  dsimp only
  split
  · split <;> simpa using h1
  · refine post_memWf ?_
    split <;> simpa using h1
theorem enterTrap_memWf {s : State} {u : Cursor} {x : TrapWait} (h : s.memWf = true) : (s.enterTrap u x).memWf = true := by
  unfold State.enterTrap
  dsimp only
  split
  · simpa using h
  · exact trapNow_memWf (by simpa using h)
theorem takeTrap_memWf {s : State} {u : Cursor} {len : Nat} {t : Trap} (h : s.memWf = true) : (s.takeTrap u len t).memWf = true := by
  unfold State.takeTrap
  exact enterTrap_memWf h
theorem park_memWf {s : State} {u : Cursor} (h : s.memWf = true) : (s.park u).memWf = true := by
  simpa [State.park] using deliverAll_memWf (b := u.b) (w := u.w) h
/-- What an instruction's own work leaves is canonical. -/
def Out.memWf : Out → Bool
  | .next s | .jump s _ | .placed s => s.memWf
  | .trap _ | .hold _ | .stop _ => true
/-- R21: an instruction keeps memory canonical where its own work does. -/
theorem finish_memWf {s t : State} {u : Cursor} {len : Nat} {o : Out} (h : s.memWf = true) (ho : o.memWf = true) (hs : s.finish u len o = .next t) :
    t.memWf = true := by
  cases o <;> simp only [State.finish, Host.Outcome.next.injEq, reduceCtorEq] at hs <;> subst hs
  · exact (advance_memWf ..).trans ho
  · exact (advance_memWf ..).trans ho
  · exact ho
  · exact takeTrap_memWf h
  · simpa using h
theorem issue_memWf {s t : State} {sw : Bool} {len : Nat} {form : Env → Form} {body : Env → State → Out} (h : s.memWf = true)
    (hb : ∀ e x, x.memWf = true → (body e x).memWf = true) (hs : issue sw len form body s = .next t) : t.memWf = true := by
  unfold issue at hs
  split at hs
  · cases hs
  · split at hs
    · cases hs; exact park_memWf h
    · dsimp only at hs
      repeat' split at hs
      · exact finish_memWf (by simpa using h) rfl hs
      · exact finish_memWf (by simpa using h) rfl hs
      · exact finish_memWf (by simpa using h) (hb _ _ (by simpa using h)) hs
/-- R146: a core's stores. -/
theorem coreWrite_memWf {s : State} {e : Env} {l : List (DWord × Nat × List Byte)} (h : s.memWf = true) : (s.coreWrite e l).memWf = true := by
  refine putBytes_memWf _ _ _ ?_
  rw [foldl_memWf_eq (fun s x => predOther_memWf s _ _), foldl_memWf_eq (fun s x => reportAt_memWf s _ _ _ _ _ _)]
  exact h
theorem coreRead_memWf {s : State} {core : Nat} {l1 : Bool} {key n : Nat} (h : s.memWf = true) : (s.coreRead core l1 key n).1.memWf = true := by
  unfold State.coreRead
  repeat' split
  all_goals simpa using h
/-- R295: an atomic at its target. -/
theorem atomApply_memWf {s : State} {r : AtomReq} (h : s.memWf = true) : (s.atomApply r).2.2.memWf = true := by
  exact putBytes_memWf _ _ _ (by simpa using h)
/-- R257: a block write. -/
theorem blockApply_memWf {s : State} {own : Option Nat} {x : BlockAt} {l : List Byte} {code : Nat} (h : s.memWf = true) : (s.blockApply own x l code).memWf = true :=
  swf_ssetAll (0 : Byte) _ h
/-- R261: the counters at a home slice. -/
theorem countersAt_memWf {s : State} {own : Option Nat} {key : Nat} {l : List (Nat × Bool × DWord)} (h : s.memWf = true) : (s.countersAt own key l).1.memWf = true := by
  unfold State.countersAt
  refine foldl_fst_memWf (fun a u h => ?_) l _ h
  split
  · exact h
  · exact agentWrite_memWf _ _ _ (by simpa using h)
theorem peerModify_memWf {s : State} {w o n : Nat} {f : DWord → DWord} (h : s.memWf = true) : (s.peerModify w o n f).2.memWf = true := h
@[simp] theorem askPeer_memWf (s : State) (a : Asker) (kind w o : Nat) (va : DWord) (d : List Byte) : (s.askPeer a kind w o va d).memWf = s.memWf := rfl
@[simp] theorem askLanes_memWf (s : State) (e : Env) (kind res : Nat) (l : List (Lane × List Byte)) : (s.askLanes e kind res l).memWf = s.memWf := by
  refine foldl_memWf_eq (fun s x => ?_) l s
  split <;> rfl
/-- R427: an engine's counter add, at home or at a peer. -/
theorem engineAdd_memWf {s t : State} {die : Nat} {c : Context} {va inc : DWord} {path : Bool}
    (hs : s.engineAdd die c va inc path = .ok t) (h : s.memWf = true) : t.memWf = true := by
  unfold State.engineAdd at hs
  repeat' split at hs
  all_goals first | cases hs | exact counterAdd_memWf hs h
  exact peerModify_memWf h
theorem countersPeer_memWf {s : State} {who : Option Asker} {va : DWord} {w o : Nat} {l : List (Nat × Bool × DWord)} (h : s.memWf = true) :
    (s.countersPeer who va w o l).memWf = true := by
  refine foldl_memWf (fun s u h => ?_) l s h
  cases who
  · exact peerModify_memWf h
  · exact (askPeer_memWf ..).trans (peerModify_memWf h)
theorem countersGo_memWf {s : State} {who : Option Asker} {va : DWord} {l : List (Nat × Bool × DWord)} (p : Place) (h : s.memWf = true) :
    (s.countersGo who va l p).1.memWf = true := by
  cases p
  case mem => exact countersAt_memWf h
  case peer => exact countersPeer_memWf h
  all_goals exact h
theorem bumpErrs_memWf {s : State} {who : Option Asker} {c : Context} {die : Nat} {r : List DWord} {phys : Bool} {l : List (Nat × Bool × DWord)}
    (h : s.memWf = true) : (s.bumpErrs who c die r phys l).1.memWf = true := by
  unfold State.bumpErrs
  split
  · exact h
  · split
    · exact countersGo_memWf _ h
    · split
      · exact h
      · split
        · exact h
        · exact countersGo_memWf _ ((fillTlb_memWf ..).trans h)
@[simp] theorem blockFix_memWf (s : State) (r : List DWord) (x : BlockAt) : (s.blockFix r x).memWf = s.memWf := by
  unfold State.blockFix
  dsimp only
  repeat' split
  all_goals simp
@[simp] theorem bumpLost_memWf (s : State) (who : Option Asker) (w : Nat) (va : DWord) (f : Nat × Nat) : (s.bumpLost who w va f).memWf = s.memWf := by
  unfold State.bumpLost
  split <;> simp
/-- R424: a block write through an aperture window. -/
theorem windowBlockWrite_memWf {s t : State} {who : Option Asker} {w j : Nat} {l : List (Nat × Byte)} (hs : s.windowBlockWrite who w j l = .ok t)
    (h : s.memWf = true) : t.memWf = true := by
  unfold State.windowBlockWrite at hs
  dsimp only at hs
  split at hs
  · cases hs
  · split at hs
    · cases hs
    · cases hs
      split
      · refine bumpErrs_memWf ?_
        split <;> refine swf_ssetAll (0 : Byte) _ ?_ <;> split <;> first | exact h | exact (blockFix_memWf ..).trans h
      · refine (bumpLost_memWf ..).trans (bumpErrs_memWf ?_)
        split <;> refine swf_ssetAll (0 : Byte) _ ?_ <;> split <;> first | exact h | exact (blockFix_memWf ..).trans h
theorem windowWrite_memWf {s : State} {who : Option Asker} {w : Nat} {l : List (Nat × Byte)} (h : s.memWf = true) :
    (s.windowWrite who w l).1.memWf = true := by
  unfold State.windowWrite
  refine foldl_fst_memWf (fun a j h => ?_) _ _ h
  dsimp only
  split
  · next ht => exact windowBlockWrite_memWf ht h
  · exact h
/-- R452: a sample record. -/
theorem sampleWrite_memWf {s : State} {b : Nat} {w0 w1 : DWord} (h : s.memWf = true) : (s.sampleWrite b w0 w1).memWf = true := by
  unfold State.sampleWrite
  dsimp only
  repeat' split
  all_goals simp [h]
/-- R337: an element a copy writes. -/
theorem moved_store_memWf {s : State} {m : Moved} {die : Nat} {cx : Context} {va : DWord} {l : List Byte} (hm : m.s = s) (h : s.memWf = true) : (m.store die cx va l).s.memWf = true := by
  subst hm
  unfold Moved.store
  dsimp only
  repeat' split
  all_goals first | exact h | (simp [h]; done)
/-- R322: an access from outside. -/
theorem outsideAt_memWf {s : State} {key n : Nat} {l : Option (List Byte)} (h : s.memWf = true) : (s.outsideAt key n l).memWf = true := by
  have h1 : (((granules key n).foldl (fun s g => s.predOther 0xFFFF g) (s.memCorrect key n)).clearSyncAt (span key n)).memWf = true := by
    simpa [foldl_memWf_eq (fun s g => predOther_memWf s 0xFFFF g)] using h
  unfold State.outsideAt
  dsimp only
  split
  · exact h1
  · simp [h1]
/-- R401: a save record. -/
theorem putRecord_memWf {s : State} {b kind o : Nat} (h : s.memWf = true) : (s.putRecord b kind o).memWf = true := by
  simp [State.putRecord, h]
theorem hostPut_memWf {s t : State} {pa : Nat} {l : List Byte} (hs : s.hostPut pa l = some t) (h : s.memWf = true) : t.memWf = true := by
  unfold State.hostPut at hs
  split at hs
  · cases hs; simp [h]
  · cases hs
theorem loadProgram_memWf {s : State} {code : List Byte} (h : s.memWf = true) : (s.loadProgram code).memWf = true := by
  unfold State.loadProgram State.memWf
  dsimp only
  exact putBytes_memWf s none _ h

end Sys2Proof.Machine
end

