-- ==== Sys2Proof/Tests/Slice0.lean ====
section
/-! SUPPORT. Tests: ill-formed terms, words written out from the spec's encodings, one-step checks with results from the spec,
and for every statement with hypotheses a state and operands that meet them. -/
namespace Sys2Proof.Tests
open Sys2Proof.Machine
set_option Elab.async false

/-! ### Ill-formed terms: each breaks one check of `Instr.wf` -/

theorem test_wf_refuses_compare_codes : [Instr.cmp false 6 1 2 3, .cmpi false 6 1 2 0, .fcmp false 8 1 2 3].all (!·.wf) = true := by decide
theorem test_wf_refuses_extension_widths : [Instr.sext false 1 2 0, .sext false 1 2 65, .zext false 1 2 0, .zext false 1 2 65].all (!·.wf) = true := by decide
theorem test_wf_refuses_fences : [Instr.fence false 0 1 1, .fence false 4 1 1, .fence false 1 6 1, .fence false 1 1 0].all (!·.wf) = true := by decide
theorem test_wf_refuses_special_registers : [Instr.rdsrK false 1 1, .rdsrK false 1 0x0E, .rdsrK false 1 0x12, .rdsrV false 1 0x0B].all (!·.wf) = true := by decide
theorem test_wf_refuses_octet_counts : [Instr.give false 0, .give false 33, .claim false 1 0, .claim false 1 33].all (!·.wf) = true := by decide
theorem test_wf_refuses_branch_conditions : (Instr.br false 3 ⟨false, 1⟩ 0).wf = false := by decide
theorem test_wf_refuses_mode_words : [Instr.mode false 0 0, .mode false 1 8, .mode false 2 (24 * 8), .mode false 4 (6 * 256)].all (!·.wf) = true := by decide
theorem test_wf_refuses_warp_operations : [Instr.vote false 3 1 ⟨false, 1⟩ 0, .wred false 6 1 2 0, .wscan false false 6 1 2 0].all (!·.wf) = true := by decide
theorem test_wf_refuses_atomic_operations :
    [Instr.atomFlat false 8 1 0 2 3, .atomScr false 8 1 2 3, .atomPeer false 8 1 0 2 3, .redFlat false 6 0 2 3, .redScr false 6 2 3, .redPeer false 6 0 2 3].all
      (!·.wf) = true := by decide
theorem test_wf_refuses_array_fields :
    [Instr.amode false 0 true 0 0, .amode false 1 true 3 0, .amode false 1 false 1 0, .amode false 1 false 0 1, .mmac false 0 0 0 9 0, .mmac false 0 0 0 0 6,
     .mmac false 0 0 0 1 5, .mdrain false 0 0 0 0 false 3 0, .mdrain false 0 0 31 225 false 0 0, .mdrain false 0 0 1 0 false 1 0,
     .mdrain false 0 0 0 1 false 2 0, .mcal false 0].all (!·.wf) = true := by decide
theorem test_wf_refuses_timestamp_operations : [Instr.tadv false 0 0 3 0 0 0, .tadv false 0 0 0 0 1 0, .tadv false 0 0 1 0 0 1].all (!·.wf) = true := by decide

/-! ### Words written out from the encoding tables (R34, R35, R43 to R49, R95, R112, R134, R184, R280, R288, R330, R366) -/

/-- ADD v3, v1, v2: opcode 0000000, D 3, A 1, B 2; with the switch bit 1000000… -/
theorem test_decode_add : (decode [0x00030102]).toOption = some (.add false 3 1 2) ∧ (decode [0x80030102]).toOption = some (.add true 3 1 2) := by decide
/-- The bits of SARI: S 0, op 0010111, D 00001000, A 00000110, B 000101. -/
theorem test_decode_sari : (decode [0b00010111000010000000011000000101]).toOption = some (.sari false 8 6 5) := by decide
theorem test_decode_fma : (decode [0x27080204]).toOption = some (.fma false 8 2 4) := by decide
theorem test_decode_cvt : (decode [0x3B0A0403]).toOption = some (.cvt false 10 4 3) := by decide
theorem test_decode_ret : (decode [0x52001400]).toOption = some (.ret false 20) := by decide
theorem test_decode_trap : (decode [0x57000007]).toOption = some (.trap false 7) := by decide
theorem test_decode_vote : (decode [0x65020000, 0x00050800]).toOption = some (.vote false 0 2 ⟨false, 5⟩ 8) := by decide
theorem test_decode_barw : (decode [0x66000A02, 0]).toOption = some (.barw false 10) := by decide
theorem test_decode_claim : (decode [0x5D010002]).toOption = some (.claim false 1 2) := by decide
theorem test_decode_ld : (decode [0x41060203]).toOption = some (.ld false 6 2 3) := by decide
theorem test_decode_fence : (decode [0x4B020403]).toOption = some (.fence false 2 4 3) := by decide
theorem test_decode_lds : (decode [0x45090510]).toOption = some (.lds false 9 5 16) := by decide
theorem test_decode_copy : (decode [0x6B000600, 0]).toOption = some (.copy false 6) := by decide
theorem test_decode_tsend : (decode [0x6C000400, 0x0000050A]).toOption = some (.tsend false 4 10 5) := by decide
theorem test_decode_movkk : (decode [0x7C090000, 0, 0x40]).toOption = some (.movkk false 9 0x4000000000) := by decide
/-- R43: unassigned opcodes, a non-zero field that the row leaves unused, and missing words are no instruction. -/
theorem test_decode_refuses : [[0x7F000000, 0, 0], [0x50000001], [0x60030100], [0x65020100, 0x00050800], [0x63020B00, 0xFFFFFFF1], []].all (fun l => (decode l).toOption.isNone) = true := by decide

/-! ### Small states -/

/-- Arm A of the only wave of the block that `loadProgram` places. -/
def arm0 : Cursor := ⟨0, 0, false⟩
/-- One lane issues on core 0 of die 0 with nothing outstanding; the launch names a handler. -/
def base : State :=
  let s := State.reset.loadProgram []
  { s with cur := some arm0, agenda := [], launches := s.launches.map fun n => { n with handler := 0x40000 } }
/-- The same, its arm and wave changed. -/
def withWave (f : Wave → Wave) (s : State := base) : State := s.modWave 0 0 f
def inMode (et : Nat) (s : State := base) : State := withWave (fun w => { w with a := { w.a with mode := BitVec.ofNat 32 (8 * et) } }) s
def withK (l : Sparse DWord) (s : State := base) : State := withWave (fun w => { w with k := ssetAll 0 w.k l }) s
def withV (l : Sparse Word) (s : State := base) : State := withWave (fun w => { w with v := ssetAll 0 w.v l }) s
def withLaunch (f : Launch → Launch) (s : State := base) : State := { s with launches := s.launches.map f }
def withBlock (f : Block → Block) (s : State := base) : State := s.modBlock 0 f
def withDev (f : Dev → Dev) (s : State := base) : State := { s with dev := f s.dev }
def withCtx (f : Context → Context) (s : State := base) : State := { s with ctxs := s.ctxs.map f }
def withCore (f : Core → Core) (s : State := base) : State := s.modCore 0 f

/-- May arm u issue here? -/
def canMayIssue (s : State) (u : Cursor) (sw : Bool) (f : Env → Form) : Bool :=
  decide (s.cur = some u) && decide (u.b < s.blocks.length) && decide (u.w < (s.block u.b).waves.length) &&
  (!u.armB || (s.wave u.b u.w).b.isSome) && !s.mustPark u sw &&
  (!(f ((s.beginSegment u sw).env u)).mem || (s.arm u).fence.isNone) && ((f ((s.beginSegment u sw).env u)).check ((s.beginSegment u sw).env u)).isNone &&
  ((f ((s.beginSegment u sw).env u)).badSource ((s.beginSegment u sw).env u)).isNone &&
  ((f ((s.beginSegment u sw).env u)).softSources ((s.beginSegment u sw).env u)).isEmpty

theorem may_issue {s : State} {u : Cursor} {sw : Bool} {f : Env → Form} (h : canMayIssue s u sw f = true) : MayIssue s u sw f := by
  simp only [canMayIssue, Bool.and_eq_true, decide_eq_true_eq, Bool.or_eq_true, Bool.not_eq_true', Option.isNone_iff_eq_none,
    List.isEmpty_iff] at h
  obtain ⟨⟨⟨⟨⟨⟨⟨⟨h1, h2⟩, h3⟩, h4⟩, h5⟩, h6⟩, h7⟩, h8⟩, h9⟩ := h
  refine ⟨h1, h2, h3, fun e => ?_, h5, fun e => ?_, h7, h8, h9⟩
  · simpa [e] using h4
  · simpa [e] using h6
/-- Does it issue, with no flag of a register that it names still due? -/
def canIssue (s : State) (u : Cursor) (sw : Bool) (f : Env → Form) : Bool :=
  canMayIssue s u sw f && (s.wave u.b u.w).late.all fun x => x.regs.all fun q => decide (q ∉ (f ((s.beginSegment u sw).env u)).regs (modeGP (s.arm u).mode))
theorem issues_of {s : State} {u : Cursor} {sw : Bool} {f : Env → Form} (h : canIssue s u sw f = true) : Issues s u sw f := by
  simp only [canIssue, Bool.and_eq_true, List.all_eq_true, decide_eq_true_eq] at h
  exact ⟨may_issue h.1, h.2⟩

theorem issue_all {s : State} {u : Cursor} {sw : Bool} {l : List (Env → Form)} (h : l.all (canIssue s u sw) = true) : ∀ f ∈ l, Issues s u sw f :=
  fun f hf => issues_of (List.all_eq_true.mp h f hf)

def canTrap (s : State) (u : Cursor) : Bool :=
  (s.wave u.b u.w).outst.isEmpty && s.reports.all (fun r => !(r.b == u.b && r.w == u.w)) && !(s.wave u.b u.w).status.getLsbD 8 && decide ((s.launch (s.block u.b).launch).handler ≠ 0)
theorem takes_traps {s : State} {u : Cursor} (h : canTrap s u = true) : TakesTraps s u := by
  simp only [canTrap, Bool.and_eq_true, decide_eq_true_eq, Bool.not_eq_true', List.isEmpty_iff, List.all_eq_true, Bool.and_eq_false_imp, beq_iff_eq,
    beq_eq_false_iff_ne] at h
  exact ⟨h.1.1.1, fun r hr e => h.1.1.2 r hr e.1 e.2, h.1.2, h.2⟩

/-! ### Statements about instructions: states and operands that meet their hypotheses -/

theorem test_hyp_IntegerSums : ∀ f ∈ [vForm clsI 255 [1, 3], vForm clsI 2 [1, 3, 2], vForm clsI 2 [1]], Issues (inMode 0) arm0 false f :=
  issue_all (by decide +kernel)
/-- A pair type, and the switch marker. -/
theorem test_hyp_IntegerSums_pair : ∀ f ∈ [vForm clsI 254 [0, 2], vForm clsI 0 [2, 4, 0]], Issues (inMode 2) arm0 true f := issue_all (by decide +kernel)
/-- R65: in range, one below and one above it. -/
theorem test_hyp_IntegerFit : (7 : Nat) ≤ 7 ∧ intMin 6 ≤ 127 ∧ 127 ≤ intMax 6 ∧ -129 < intMin 6 ∧ intMax 6 < 128 ∧ intMax 7 = 255 ∧ intMin 7 = 0 := by decide
theorem test_hyp_IntegerBits :
    (∀ f ∈ [vForm clsI 2 [1, 3], vForm clsI 2 [1], vForm clsI 2 [1, 2], fun e => let g := vForm clsI 2 [1] e; { g with vs := g.vs ++ [one 3] }],
      Issues (inMode 7) arm0 false f) ∧
    ∀ f ∈ [vForm clsI 4 [6], fun e => let g := vForm clsI 2 [4] e; { g with vs := g.vs ++ [one 255] }], Issues (inMode 3) arm0 true f :=
  ⟨issue_all (by decide +kernel), issue_all (by decide +kernel)⟩
/-- A field over the top bit, an inserted one that is cut, a byte in two's complement. -/
theorem test_hyp_ShiftBits_fields : (0 : Nat) ≤ 7 ∧ intSigned 6 = true ∧ intSigned 7 = false ∧ 0x96 < 2 ^ 8 ∧ bitExtract 6 (-106) 4 8 = -7 ∧
    bitExtract 7 150 4 8 = 9 ∧ bitExtract 6 (-106) 4 0 = 0 ∧ bitInsert 8 0x96 0xF 6 4 = 0xD6 ∧ sextInt 8 0x96 = -106 ∧
    leadZeros 8 0 = 8 ∧ trailZeros 8 0 = 8 ∧ leadZeros 8 0x16 = 3 ∧ trailZeros 8 0x96 = 1 ∧ bitCount 8 0x96 = 4 := by decide
theorem test_hyp_ShiftBits : (0 : Nat) < 8 ∧ 0x96 < 2 ^ 8 ∧ 7 < 8 ∧ (shiftA 8 0x96 9).testBit 0 = true ∧ (shiftL 8 0x96 8) = 0 := by decide
theorem test_hyp_IntegerDivision : ∀ f ∈ [vForm clsI 4 [2, 6]], Issues (inMode 3) arm0 false f := issue_all (by decide +kernel)
theorem test_hyp_CarryChains : ∀ f ∈ [fun e => { vForm clsI 2 [1, 3] e with ps := [7] }, fun e => { vForm clsI 2 [1, 3] e with ps := [0] }],
    Issues (inMode 0) arm0 false f := issue_all (by decide +kernel)
theorem test_hyp_CompareResults :
    (∀ f ∈ [fun e => ({ pre := need (clsI e.et), vs := [e.src 1, e.src 2], ps := [7], guarded := true } : Form),
            fun e => ({ pre := need (clsI e.et), vs := [e.src 1], ps := [0], guarded := true } : Form)], Issues (inMode 1) arm0 false f) ∧
    ∀ f ∈ [fun e => ({ pre := need (8 ≤ e.et && e.et ≤ 11), vs := [e.src 2, e.src 4], ps := [1], guarded := true } : Form)], Issues (inMode 9) arm0 false f :=
  ⟨issue_all (by decide +kernel), issue_all (by decide +kernel)⟩
/-- The flags of a result that wrote v3 and one that wrote p1 are due, ready in the clk after and long after this one. -/
def withLate : State := withWave (fun w => { w with late := [{ flags := 0x20, regs := [3], ready := base.clk }, { flags := 1, regs := [321], ready := base.clk + 1000 }] }) (inMode 0)
theorem test_hyp_CompareResults_late :
    MayIssue withLate arm0 false (vForm clsI 3 [1, 2]) ∧ MayIssue withLate arm0 false (kForm [1, 2, 3]) ∧
    MayIssue withLate arm0 false (fun e => { pre := need (clsI e.et), vs := [e.src 1, e.src 2], ps := [1], guarded := true }) ∧
    (withLate.wave 0 0).late.any (fun y => y.regs.contains 3) = true ∧ withLate.dev.stage ≠ 1 ∧ 0 < withLate.blocks.length ∧
    0 < (withLate.block 0).waves.length ∧ (withLate.block 0).claimNow = [] :=
  ⟨may_issue (by decide +kernel), may_issue (by decide +kernel), may_issue (by decide +kernel), by decide +kernel⟩
theorem test_hyp_MovesAndAddresses :
    ∀ f ∈ [vForm clsW 254 [2], vForm clsW 2 [], fun e => { vForm clsW 2 [] e with ks := [127] }, fun e => { vForm clsW 2 [4, 6] e with ps := [7] },
           fun _ => { vs := [{ r := 254, pair := true, dest := true }, one 255], ks := [127], guarded := true }, kForm [1, 2, 127], kForm [0]],
      Issues (inMode 13) arm0 false f := issue_all (by decide +kernel)
theorem test_hyp_FloatArithmetic : ∀ f ∈ [vForm clsF 2 [4, 6], vForm clsF 2 [4, 6, 2], vForm clsF 2 [4]], Issues (inMode 13) arm0 false f :=
  issue_all (by decide +kernel)
/-- Two numbers, a zero of each sign, a NaN; integral, and between integers. -/
theorem test_hyp_FloatArithmetic_pins : (8 : Nat) ≤ 11 ∧ (unpack (fmtOf 8) false 0x7FC00000).isNan = true ∧
    (unpack (fmtOf 8) false 0x80000000).isZero = true ∧ (unpack (fmtOf 8) false 0x80000000).sign = true ∧
    (match unpack (fmtOf 8) false 0x4B800000 with | .fin _ _ p => decide (0 ≤ p) | _ => false) = true ∧
    (match unpack (fmtOf 8) false 0x40200000 with | .fin _ _ p => decide (p < 0) | _ => false) = true ∧
    (fpMinMax (fmtOf 8) false false 0 0x80000000).1 = 0x80000000 ∧ (fpRnd (fmtOf 8) 0 false 0x40200000) = (0x40000000, fNX) := by decide +kernel
theorem test_hyp_FloatArithmetic_order : (unpack (fmtOf 8) false 0x3F800000).below (unpack (fmtOf 8) false 0x40000000) := by
  rw [show unpack (fmtOf 8) false 0x3F800000 = .fin false 0x800000 (-23) by decide +kernel, show unpack (fmtOf 8) false 0x40000000 = .fin false 0x800000 (-22) by decide +kernel]
  show (_ : Int) < _
  decide +kernel
theorem test_hyp_SignOperations : ∀ f ∈ [vForm clsF 3 [4], vForm clsF 3 [4, 5]], Issues (inMode 11) arm0 false f := issue_all (by decide +kernel)
/-- R73: ties to even, away and odd, of 5 / 2. -/
theorem test_hyp_RoundingModes : (roundMag 0 false 5 1 false).1 = 2 ∧ (roundMag 4 false 5 1 false).1 = 3 ∧ (roundMag 5 false 9 2 false).1 = 3 ∧
    (roundMag 2 true 5 2 false).1 = 2 ∧ (roundMag 3 true 5 2 false).1 = 1 ∧ (5 : Nat) % 2 ^ 1 ≠ 0 := by decide
/-- Negative zero, the least subnormal and an infinity in f32 are no NaN. -/
theorem test_hyp_FormatsRoundTrip : (fmtOf 8).bits = 32 ∧ (0x80000000#64).toNat < 2 ^ 32 ∧ (1#64).toNat < 2 ^ 32 ∧ (0x7F800000#64).toNat < 2 ^ 32 ∧
    [0x80000000#64, 1#64, 0x7F800000#64].all (fun x => !(unpack (fmtOf 8) false x).isNan) = true :=
  ⟨rfl, by simp, by simp, by simp, by decide +kernel⟩
theorem test_hyp_FloatApproximations : ∀ f ∈ [vForm clsF 2 [4], vForm clsF 2 [4, 6]], Issues (inMode 12) arm0 false f := issue_all (by decide +kernel)
/-- Slot 0: narrow f16 from f32x2; slot 1: bfp8, length 32, block scale; slot 2: f32. -/
def withSlots : State := withLaunch (fun n => { n with slots := [0x0A, 0x137, 0x08] }) (inMode 8)
theorem test_hyp_ClassAndConversions :
    (∀ f ∈ [fun e => ({ pre := need (8 ≤ e.et && e.et ≤ 11), vs := [oneDst 3, e.src 5], guarded := true } : Form),
            fun e => ({ pre := need (cvtType e.et && slotOk (e.slot 2) && cvtType (slotFmt (e.slot 2)))
                        vs := scaleDst (e.slot 2) 3 (isPair (slotFmt (e.slot 2))) ++ [e.src 5], guarded := true } : Form),
            fun e => ({ pre := need (slotOk (e.slot 2) && ((cvtType e.et && cvtType (slotFmt (e.slot 2))) || narrowType e.et (slotFmt (e.slot 2))))
                        vs := scaleDst (e.slot 2) 3 e.pair ++ [{ r := 5, pair := cvtType e.et && isPair (slotFmt (e.slot 2)) }], guarded := true } : Form)],
      Issues withSlots arm0 false f) ∧
    ∀ f ∈ [fun e => ({ pre := need (slotOk (e.slot 0) && narrowType e.et (slotFmt (e.slot 0)))
                       vs := scaleDst (e.slot 0) 3 false ++ [{ r := 6, pair := true }], guarded := true } : Form)], Issues (inMode 12 withSlots) arm0 false f :=
  ⟨issue_all (by decide +kernel), issue_all (by decide +kernel)⟩
theorem test_hyp_BlockFloatingPoint :
    ∀ f ∈ [fun e => ({ pre := need (clsF e.et && slotOk (e.slot 1) && mxscType (slotFmt (e.slot 1)) && slotScale (e.slot 1) != 0 && slotBfpOk (e.slot 1))
                       vs := [oneDst 3, e.src 5], guarded := true } : Form),
           fun e => ({ pre := need (bfpSlot e 1), vs := [oneDst 3, e.src 5], guarded := true } : Form),
           fun e => ({ pre := need (bfpSlot e 1), vs := [e.dst 3, { one 5 with lanes := some (imageLanes e (slotFmt (e.slot 1) - 15)) }], guarded := true } : Form)],
      Issues withSlots arm0 false f := issue_all (by decide +kernel)
theorem test_hyp_BlockFloatingPoint_lanes : (withSlots.env arm0).lanes = [0] ∧ slotFmt ((withSlots.env arm0).slot 1) - 15 = 8 ∧ 0 < (withSlots.env arm0).ln.lanes := by
  decide +kernel
/-- k1 names lane 0 alone. -/
def withMembers : State := withK [(1, 0x100000001)] (inMode 0)
theorem test_hyp_WarpWideResults :
    (∀ f ∈ [fun _ => ({ ks := [1], ps := [3, 0], guarded := true } : Form), fun _ => ({ ks := [2, 1], ps := [0], guarded := true } : Form),
            fun e => let f := vForm clsW 2 [4] e; { f with vs := f.vs ++ [one 3], ks := [1] }, fun e => { vForm clsW 2 [4] e with ks := [1] },
            fun e => { vForm clsW 2 [4] e with ks := [0, 1] }, fun e => { vForm (redLegal 0) 2 [4] e with ks := [1] },
            fun e => { vForm (redLegal 5) 2 [4] e with ks := [1] }].map warpForm, Issues withMembers arm0 false f) ∧
    (withMembers.env arm0).wv.b = none ∧ memberSet ((withMembers.env arm0).wv.kreg 1) = (withMembers.env arm0).act ∧
    memberSet ((withMembers.env arm0).wv.kreg 1) &&& (withMembers.env arm0).wv.exited = 0 :=
  ⟨issue_all (by decide +kernel), by decide +kernel⟩
/-- Two lanes in two arms of one wave; arm B waits with an instance whose descriptor is in k1: both lanes. -/
def withSibling (st : ArmSt) (exited : LaneMask := 0) (desc : DWord := 0x100000003) : State :=
  withLaunch (fun n => { n with lanes := 2 }) (withK [(1, desc)] (withWave (fun w => { w with exited := exited, b := some { pc := 0x30000, mask := 2, st := st } }) (inMode 0)))
def instance1 (key : List Nat) (desc : DWord := 0x100000003) (exec : LaneMask := 2) : WarpWait :=
  { key := key, desc := desc, exec := exec, src := [(1, 7)], idx := [(1, 0)], pq := 2, mode := 0, dest := 5, pc := 0x30000 }
theorem test_hyp_WarpWideResults_joins :
    ([((fun _ => { ks := [1], ps := [3, 0], guarded := true } : Env → Form), [0x65, 0, 2]),
           (fun _ => { ks := [2, 1], ps := [0], guarded := true }, [0x65, 1, 0]),
           (fun e => let f := vForm clsW 2 [4] e; { f with vs := f.vs ++ [one 3], ks := [1] }, [0x65, 2, 3]),
           (fun e => { vForm clsW 2 [4] e with ks := [1] }, [0x65, 3, 0]), (fun e => { vForm clsW 2 [4] e with ks := [0, 1] }, [0x65, 6, 0]),
           (fun e => { vForm (redLegal 5) 2 [4] e with ks := [1] }, [0x65, 4, 5]), (fun e => { vForm (redLegal 5) 2 [4] e with ks := [1] }, [0x65, 5, 13])].all fun x =>
      let y := instance1 (x.2 ++ [0x100000003])
      let s := withSibling (.warp y)
      let e := s.env arm0
      let m := memberSet (e.wv.kreg 1)
      canIssue s arm0 false (warpForm x.1) && decide (e.wv.b.isSome = true ∧ (s.arm { arm0 with armB := true }).st = .warp y ∧ (s.arm arm0).st = .ready ∧
      y.desc = e.wv.kreg 1 ∧ y.exec ||| e.act = m ∧ y.exec &&& e.act = 0 ∧ y.exec &&& ~~~(s.arm { arm0 with armB := true }).mask = 0 ∧
      m &&& e.wv.exited = 0 ∧ m &&& ~~~(lowMask e.ln.lanes) = 0)) = true := by decide +kernel
/-- Members of a descriptor below lane 64, by number. -/
def members (desc : DWord) : List Nat := (List.range 64).filter fun i => desc.getLsbD (i % 32) && desc.getLsbD (32 + i / 32)
/-- A wait for arm B; then each check: a member that exited, one beyond the lanes, one in no arm, an executing lane outside, and a sibling's
other instance for the same lanes. -/
theorem test_hyp_WarpWideResults_checks :
    (let s := withSibling .ready
     canIssue s arm0 false (warpForm fun _ => { ks := [1], ps := [3, 0], guarded := true }) = true ∧ members 0x100000003 = [0, 1] ∧ (s.env arm0).lanes = [0] ∧
     (s.arm { arm0 with armB := true }).mask.getLsbD 1 = true ∧ (s.env arm0).wv.exited = 0 ∧ canTrap s arm0 = true) ∧
    (let s := withSibling .ready 2
     (s.env arm0).wv.exited.getLsbD 1 = true ∧ canTrap s arm0 = true) ∧
    (let s := withSibling .ready 0 0x100000007
     members 0x100000007 = [0, 1, 2] ∧ (s.env arm0).ln.lanes = 2 ∧ canTrap s arm0 = true) ∧
    (let s := withSibling .stopped
     (s.arm { arm0 with armB := true }).st = .stopped ∧ (s.env arm0).lanes = [0] ∧ canTrap s arm0 = true) ∧
    (let s := withSibling .ready 0 0x100000002
     members 0x100000002 = [1] ∧ (s.env arm0).lanes = [0] ∧ canTrap s arm0 = true) ∧
    (let y := instance1 [0x65, 1, 0, 0x100000003]
     let s := withSibling (.warp y)
     (memberSet y.desc).getLsbD 0 = true ∧ y.key ≠ [0x65, 0, 0] ++ [0x100000003] ∧ arm0.armB = false ∧ canTrap s arm0 = true) := by decide +kernel
theorem test_hyp_BallotsAndReductions : (31 : Nat) < 32 ∧ (7 : Nat) ≤ 7 ∧ (ballotOf (BitVec.ofNat 1024 (2 ^ 1023))) = 0x8000000080000000#64 := by decide +kernel
/-- k1 aligned and canonical, k2 not aligned, k3 not canonical. -/
def withTargets : State := withK [(1, 0xFF00000000000004), (2, 0x10002), (3, 0x0100000000000000)]
theorem test_hyp_BranchesAndJumps :
    (∀ f ∈ [fun _ => ({ ps := [3], guarded := true } : Form), plainForm, kForm [1], kForm [2], kForm [3]], Issues withTargets arm0 false f) ∧
    TakesTraps withTargets arm0 ∧
    (let x := fun n => (withTargets.wave 0 0).kreg n
     (x 1).extractLsb' 0 2 = 0 ∧ x 1 = ((x 1).setWidth 57).signExtend 64 ∧ (x 2).extractLsb' 0 2 ≠ 0 ∧ (x 3).extractLsb' 0 2 = 0 ∧
     x 3 ≠ ((x 3).setWidth 57).signExtend 64) := ⟨issue_all (by decide +kernel), takes_traps (by decide +kernel), by decide +kernel⟩
/-- One result of arm A is outstanding. -/
def withResult (r : OutRes) : State := withWave fun w => { w with outst := [r] }
theorem test_hyp_NopAndSwitchMarker :
    Issues base arm0 true plainForm ∧ (let s := withResult { id := 1, owner := 0, kind := .plain, eff := {} }
      s.cur = some arm0 ∧ (s.wave 0 0).mine false ≠ [] ∧ 0 < s.blocks.length ∧ 0 < (s.block 0).waves.length ∧ s.reports = []) :=
  ⟨issues_of (by decide +kernel), by decide +kernel⟩
/-- k1 is a legal mode, k2 selects no ET, k3 has a bit above 32. -/
def withModes : State := withK [(1, 0x1540), (2, 0xC0), (3, 0x100000000)]
theorem test_hyp_ModeWrites :
    (∀ f ∈ [plainForm, kForm [1], kForm [2], kForm [3]], Issues withModes arm0 false f) ∧ TakesTraps withModes arm0 ∧
    (let legal := fun (m : Word) => m.toNat < 2 ^ 13 ∧ m.toNat / 8 % 32 ≤ 23 ∧ m.toNat / 256 % 8 ≤ 5
     let x := fun n => (withModes.wave 0 0).kreg n
     (x 1).toNat < 2 ^ 32 ∧ legal ((x 1).setWidth 32) ∧ ¬ legal ((x 2).setWidth 32) ∧ ¬ (x 3).toNat < 2 ^ 32) :=
  ⟨issue_all (by decide +kernel), takes_traps (by decide +kernel), by decide +kernel⟩
theorem test_hyp_SpecialRegisterReads :
    (∀ f ∈ [kForm [127], fun _ => { vs := [{ r := 255, dest := true }], guarded := true }, plainForm], Issues base arm0 false f) ∧ TakesTraps base arm0 ∧
    (0x11#8).toNat ∈ [0, 2, 3, 4, 5, 6, 7, 8, 9, 0xA, 0xB, 0xC, 0xD, 0x10, 0x11] ∧ (0x01#8).toNat ∉ [0, 2, 3, 4, 5, 6, 7, 8, 9, 0xA, 0xB, 0xC, 0xD, 0x10, 0x11] ∧
    (9#8).toNat = 9 ∧ (0x0A#8).toNat ∈ [0, 1, 2, 3, 4, 5, 6, 7, 8, 9, 0xA] ∧ (0x0B#8).toNat ∉ [0, 1, 2, 3, 4, 5, 6, 7, 8, 9, 0xA] :=
  ⟨issue_all (by decide +kernel), takes_traps (by decide +kernel), by decide⟩
/-- k1 is legal for sampctl, k2 has GAP 5; k3 is legal for sampbuf, k4 has LOG2N 13. -/
def withSampling : State := withK [(1, 0x10601), (2, 0x501), (3, 0x5000C), (4, 0x5000D)]
theorem test_hyp_SpecialRegisterWrites :
    (∀ f ∈ [kForm [1], kForm [2], kForm [3], kForm [4]], Issues withSampling arm0 false f) ∧ TakesTraps withSampling arm0 ∧
    (let ctlOk := fun (x : DWord) => (x &&& 0xFFFCE0FE#64) = 0 ∧ 6 ≤ x.toNat / 256 % 32 ∧ x.toNat / 256 % 32 ≤ 16
     let bufOk := fun (x : DWord) => (x &&& 0xFE00000000000FF0#64) = 0 ∧ x.toNat % 16 ≤ 12
     let x := fun n => (withSampling.wave 0 0).kreg n
     ctlOk (x 1) ∧ ¬ ctlOk (x 2) ∧ bufOk (x 3) ∧ ¬ bufOk (x 4)) := ⟨issue_all (by decide +kernel), takes_traps (by decide +kernel), by decide +kernel⟩
def inHandler : State := withWave fun w => { w with status := 0x100 }
theorem test_hyp_SoftwareTraps :
    (∀ s ∈ [base, inHandler, withCtx fun c => { c with debug := true }], Issues s arm0 false plainForm) ∧ TakesTraps base arm0 ∧
    (base.ctx (base.launch (base.block 0).launch).ctx).debug = false ∧ (inHandler.wave 0 0).outst = [] ∧ (inHandler.wave 0 0).status.getLsbD 8 = true ∧
    (let s := withCtx fun c => { c with debug := true }
     (s.ctx (s.launch (s.block 0).launch).ctx).debug = true ∧ (s.wave 0 0).outst = [] ∧ s.reports = []) := by
  refine ⟨?_, takes_traps (by decide +kernel), by decide +kernel⟩
  simp only [List.forall_mem_cons, List.not_mem_nil, false_implies, implies_true, and_true]
  exact ⟨issues_of (by decide +kernel), issues_of (by decide +kernel), issues_of (by decide +kernel)⟩
theorem test_hyp_TrapEntry :
    TakesTraps base arm0 ∧ (inHandler.wave 0 0).outst = [] ∧ (inHandler.wave 0 0).status.getLsbD 8 = true ∧
    (let s := withLaunch fun n => { n with handler := 0 }
     (s.wave 0 0).outst = [] ∧ (s.launch (s.block 0).launch).handler = 0) ∧
    (let s := withResult { id := 1, owner := 0, kind := .cstat 0, eff := {} }
     0 < s.blocks.length ∧ 0 < (s.block 0).waves.length ∧ ∃ r ∈ (s.wave 0 0).outst, r.kind.bound = false) ∧ base.reports = [] ∧ inHandler.reports = [] :=
  ⟨takes_traps (by decide +kernel), by decide +kernel⟩
theorem test_hyp_MaskWords : ∀ f ∈ [fun _ => ({ ks := [127], ps := [7] } : Form), fun _ => ({ ks := [0], ps := [0] } : Form)], Issues base arm0 false f :=
  issue_all (by decide +kernel)
/-- Sixteen entries in use. -/
def withFullStack : State := withWave fun w => { w with stack := List.replicate 16 { ownerB := false, topmost := true, rejoin := 0x20000, parent := 1, mode := 0, pend := 0, pendPc := 0, pendDone := true } }
theorem test_hyp_Divergence :
    (Issues base arm0 false (fun _ => { ps := [7] }) ∧ (base.wave 0 0).stack.length < 16 ∧ (base.arm arm0).st = .ready ∧ (base.wave 0 0).divided = false) ∧
    Issues withFullStack arm0 false (fun _ => { ps := [7] }) ∧ TakesTraps withFullStack arm0 ∧ 16 ≤ (withFullStack.wave 0 0).stack.length :=
  ⟨⟨issues_of (by decide +kernel), by decide +kernel⟩, issues_of (by decide +kernel), takes_traps (by decide +kernel), by decide +kernel⟩
/-- Arm A at the rejoin of a topmost divergence; arm B running, or stopped. -/
def atRejoin (st : ArmSt) : State := withWave fun w =>
  { w with b := some { pc := 0x30000, mask := 2, st := st }
           stack := [{ ownerB := false, topmost := true, rejoin := w.a.pc, parent := 3, mode := 0x40, pend := 2, pendPc := 0x30000, pendDone := true }] }
theorem test_hyp_RejoinOfTheTopmostDivergence : ∀ st ∈ [ArmSt.ready, .stopped], let s := atRejoin st
    s.cur = some arm0 ∧ 0 < s.blocks.length ∧ 0 < (s.block 0).waves.length ∧ (s.wave 0 0).done = false ∧ (s.wave 0 0).b.isSome = true ∧
    (s.wave 0 0).outst = [] ∧ s.reports = [] ∧ (∀ z ∈ (s.wave 0 0).stack, z.topmost = true ∨ z.ownerB ≠ false) ∧
    ((s.wave 0 0).stack.find? fun z => z.topmost).map (·.rejoin) = some (s.wave 0 0).a.pc ∧ ((s.wave 0 0).arm true).st = st := by decide +kernel
/-- Arm A at the rejoin of its second, serialised entry, whose pending lanes it has run or not. -/
def atSerialised (pendDone : Bool) : State :=
  let s := atRejoin .ready
  s.modWave 0 0 fun w => { w with stack := w.stack.map (fun z => { z with rejoin := 0x50000 }) ++
    [{ ownerB := false, topmost := false, rejoin := w.a.pc, parent := 1, mode := 0x40, pend := 1, pendPc := 0x18, pendDone := pendDone }] }
theorem test_hyp_RejoinOfTheTopmostDivergence_serialised : ∀ d ∈ [false, true], let s := atSerialised d
    s.cur = some arm0 ∧ 0 < s.blocks.length ∧ 0 < (s.block 0).waves.length ∧ (s.wave 0 0).done = false ∧ (s.wave 0 0).outst = [] ∧ s.reports = [] ∧
    (s.wave 0 0).stack.length = 2 ∧ ((s.wave 0 0).stack.drop 1).map (fun z => (z.topmost, z.ownerB, z.pendDone, decide (z.rejoin = (s.wave 0 0).a.pc))) =
      [(false, false, d, true)] := by decide +kernel
/-- The last lane leaves while a receive waits; another lane of the launch stays. -/
theorem test_hyp_ExitingLanes :
    Issues base arm0 false (fun _ => { guarded := true }) ∧ ((base.wave 0 0).arm true).st = .ready ∧
    (let s := withBlock (fun k => { k with reserved := 1 }) (withResult { id := 1, owner := 0, kind := .recv 0 0, eff := {} })
     canIssue s arm0 false (fun _ => { guarded := true }) = true ∧ (s.env arm0).lanes = [0] ∧ (s.env arm0).ln.lanes = 1 ∧ (s.env arm0).wv.outst.length = 1) ∧
    (let s := withLaunch fun n => { n with lanes := 2 }
     canIssue s arm0 false (fun _ => { guarded := true }) = true ∧ (s.env arm0).lanes = [0] ∧ (s.env arm0).wv.exited.getLsbD 1 = false) :=
  ⟨issues_of (by decide +kernel), by decide +kernel⟩
/-- Two waves hold 4 octets each, two octets are in the pool. -/
def withOctets (pool : Nat) (other : Wave) : State :=
  withBlock (fun k => { k with pool := pool, waves := [{ k.waves.headD {} with octets := 4 }, other] })
theorem test_hyp_OctetMoves :
    (let s := withOctets 2 { idx := 1, octets := 4 }
     Issues s arm0 false plainForm ∧ Issues s arm0 false (fun _ => { ps := [7], mem := true }) ∧ TakesTraps s arm0 ∧
     ((s.wave 0 0).octets ≤ (4#8).toNat ∧ 32 < (s.wave 0 0).octets + (29#8).toNat) ∧
     ((s.wave 0 0).b = none ∧ (3#8).toNat < (s.wave 0 0).octets ∧ (s.block 0).claims = [] ∧ (s.wave 0 0).a.dmask = 0) ∧
     (let z := withWave (fun w => { w with a := { w.a with dmask := 1 <<< 12 } }) s
      canIssue z arm0 false plainForm = true ∧ canTrap z arm0 = true ∧ 4 * (4 - (1#8).toNat) ≤ 12 ∧ 12 < 4 * (z.wave 0 0).octets ∧ (z.wave 0 0).a.dmask.getLsbD 12 = true ∧
      ∀ j, j < 12 → 4 * (4 - (1#8).toNat) ≤ j → (z.wave 0 0).a.dmask.getLsbD j = false) ∧
     ((s.wave 0 0).octets + (2#8).toNat ≤ 32 ∧ (s.wave 0 0).done = false ∧ (s.wave 0 0).halted = false ∧ (2#8).toNat ≤ (s.block 0).pool ∧
      (s.wave 0 1).done = false ∧ (s.wave 0 1).claiming = false)) ∧
    (let k : Block := { (base.block 0) with waves := [{ a := { st := .claim 1 2 } }], claims := [(0, 2)], pool := 1 }
     (∀ x ∈ k.claims, x.1 < k.waves.length ∧ (k.waves.getD x.1 {}).done = false) ∧ (k.waves.getD 0 {}).a.st = .claim 1 2 ∧ (k.claims.map (·.1)).Nodup) :=
  ⟨⟨issues_of (by decide +kernel), issues_of (by decide +kernel), takes_traps (by decide +kernel), by decide +kernel⟩, by decide +kernel⟩
/-- A ring of 256 marks at 0x20000. -/
def withRing (va : DWord) : State := withBlock (fun k => { k with sampctl := 0x10600, sampbuf := va })
/-- The same in import window 0, device 3's, whose link is down. -/
def withFarRing : State :=
  let s := withDev (fun d => { d with imports := [(0, { size := 4096, dev := 3, peerPa := 0 })], linksDown := [Config.fabricPort 3] }) (withRing 0x40000000)
  s.putBytes none (cellsAt 0x3008 (leBytes 8 0x00E0000000000007))
theorem test_hyp_YieldAndMark :
    Issues base arm0 false (fun _ => { mem := true }) ∧ (∀ s ∈ [base, withRing 0x20000, withRing 0x80000000], Issues s arm0 false plainForm) ∧
    (base.block 0).sampctl.getLsbD 16 = false ∧
    (let s := withRing 0x20000
     (s.block 0).sampctl.getLsbD 16 = true ∧ (s.block 0).sampbuf ≠ 0 ∧ (s.engineKeys 0 (s.ctx 0) 0x20000 true 2 16).toOption = some (span 0x20000 16) ∧ s.memGood = true) ∧
    (Issues withFarRing arm0 false plainForm ∧ withFarRing.memGood = true ∧ (withFarRing.block 0).sampctl.getLsbD 16 = true ∧ peerBit ≤ peerKey 3 0 ∧
     (withFarRing.engineKeys 0 (withFarRing.ctx 0) 0x40000000 true 2 16).toOption = some (span (peerKey 3 0) 16) ∧
     withFarRing.linkDown (peerKey 3 0 / peerBit - 1) = true) ∧
    (let s := withRing 0x80000000
     (s.block 0).sampctl.getLsbD 16 = true ∧ (s.block 0).sampbuf ≠ 0 ∧ (s.engineKeys 0 (s.ctx 0) 0x80000000 true 2 16).toOption = none) := by
  refine ⟨issues_of (by decide +kernel), ?_, by decide +kernel, by decide +kernel,
    ⟨issues_of (by decide +kernel), by decide +kernel, by decide +kernel, by decide +kernel, by decide +kernel, ?_⟩, by decide +kernel⟩
  · simp only [List.forall_mem_cons, List.not_mem_nil, false_implies, implies_true, and_true]
    exact ⟨issues_of (by decide +kernel), issues_of (by decide +kernel), issues_of (by decide +kernel)⟩
  · exact List.elem_eq_true_of_mem (List.mem_singleton.mpr rfl)
/-- Granule 0 holds a barrier word that expects two arrivals; k1 is its offset, k2 to k4 are counts. -/
def withBarrier (arr : Option (DWord × Half)) : State :=
  withCore (fun c => { c with scratch := [(0, 2)] })
    (withK [(1, 0), (2, 2), (3, 1), (4, 256), (5, 8)] (withWave fun w => { w with a := { w.a with arrival := arr } }))
def withBarrierBank : State := withCore fun c => { c with banks := [(1, { compute := true, ww := 4 })] }
theorem test_hyp_BarrierInstructions :
    (let s := withBarrier none
     (∀ f ∈ [fun _ => ({ ks := [1, 2], mem := true } : Form), fun _ => { ks := [1, 3], mem := true }, fun _ => { ks := [1], mem := true },
             fun _ => { ks := [5, 4], mem := true }], Issues s arm0 false f) ∧ TakesTraps s arm0 ∧
     (0 < 2 ^ 19 ∧ 0 % 8 = 0 ∧ 0 + 8 ≤ s.allocation (s.block 0) ∧ s.computeIn 0 0 8 = false ∧ s.scrBad 0 0 8 = false ∧ s.switching 0 [0] = false ∧
      s.lsBusy 0 0 false = false ∧ (s.arm arm0).st = .ready) ∧
     leNat (s.scrBytes 0 0 8) = 2 ∧ arrive 2 2 = some (2 ^ 16 + 2) ∧ arrive 2 1 = none ∧ arrive 0 256 = some (2 ^ 16 + 256) ∧
     arrive 0 1 = some (2 ^ 32) ∧ arrive (2 ^ 48 - 2 ^ 32 + 2 ^ 16 + 2) 2 = some 0) ∧
    (let s := withBarrier (some (0, 0))
     Issues s arm0 false (fun _ => { ks := [1], mem := true }) ∧ (s.arm arm0).st = .ready ∧ (s.env arm0).arm.arrival = some (0, 0)) :=
  ⟨⟨issue_all (by decide +kernel), takes_traps (by decide +kernel), by decide +kernel⟩, issues_of (by decide +kernel), by decide +kernel⟩
/-- k1: a reserved bit, a block that is not there, a word past the allocation, one off its alignment, one in compute-mode bank 1; k2 a bad count. -/
theorem test_hyp_BarrierInstructions_traps :
    ([0x2000000, 0x1300000, 0x80000, 0x7FFFC, 4, 8, 0x10000].all fun x =>
      let s := withK [(1, x), (2, 257), (3, 1)] withBarrierBank
      canIssue s arm0 false (fun _ => { ks := [1, 2], mem := true }) && canIssue s arm0 false (fun _ => { ks := [1], mem := true }) && canTrap s arm0) = true ∧
    (let s := withBarrierBank
     s.allocation (s.block 0) = 0x80000 ∧ s.lsBusy 0 0 false = false ∧ s.switching 0 [0x10000] = false ∧ s.computeIn 0 0x10000 8 = true) := by decide +kernel
theorem test_hyp_DistancesAndGlobalTime :
    ∀ f ∈ [fun _ => ({ vs := [oneDst 255, one 0, one 1], guarded := true } : Form), kForm [127, 0, 1]], Issues base arm0 false f := issue_all (by decide +kernel)
/-- k1 is a plain address, k2 is 2 beyond a multiple of 4, k3 is not canonical. -/
def withAddresses (et : Nat) : State := withK [(1, 0x20000), (2, 0x20002), (3, 0x0100000000000000)] (inMode et)
theorem test_hyp_FlatLoads :
    (let s := withAddresses 2
     (∀ f ∈ [fun e => ({ pre := need (clsM e.et), vs := [e.dst 2, one 4], ks := [1], guarded := true, mem := true } : Form),
             fun _ => { ks := [5, 1], mem := true }], Issues s arm0 false f) ∧
     s.l2Fail = [] ∧ s.l2Lost = [] ∧ s.lsConflict 0 0 false false [0x400] = false ∧ s.lsConflict 0 0 false false [0x40F] = false ∧
     (s.core (s.env arm0).core).l1Old = [] ∧ (s.env arm0).lanes = [0] ∧
     s.plainKey (s.env arm0) 8 false 0x20000 = some 0x20000 ∧ s.badIn 0x20000 8 = false ∧
     s.plainKey (s.env arm0) 8 false (0x20000 + BitVec.ofNat 64 (8 * 255)) = some 0x207F8 ∧ s.badIn 0x207F8 8 = false) :=
  ⟨issue_all (by decide +kernel), by decide +kernel⟩
theorem test_hyp_FlatStores :
    (let s := withAddresses 7
     (∀ f ∈ [fun e => ({ pre := need (clsM e.et), vs := [e.src 3, one 4], ks := [2], guarded := true, mem := true } : Form),
             fun _ => { ks := [1, 5], mem := true }], Issues s arm0 false f) ∧
     s.l2Fail = [] ∧ s.lsConflict 0 0 false true [0x400] = false ∧ (s.env arm0).lanes = [0] ∧ s.plainKey (s.env arm0) 1 true 0x20002 = some 0x20002 ∧
     s.plainKey (s.env arm0) 8 true 0x20000 = some 0x20000) := ⟨issue_all (by decide +kernel), by decide +kernel⟩
theorem test_hyp_FlatAddressTraps :
    (let s := withAddresses 0
     (∀ f ∈ [fun e => ({ pre := need (clsM e.et), vs := [e.dst 3, one 4], ks := [2], guarded := true, mem := true } : Form),
             fun e => { pre := need (clsM e.et), vs := [e.src 3, one 4], ks := [2], guarded := true, mem := true },
             fun e => { pre := need (clsM e.et), vs := [e.dst 3, one 4], ks := [3], guarded := true, mem := true },
             fun e => { pre := need (clsM e.et), vs := [e.src 3, one 4], ks := [3], guarded := true, mem := true }], Issues s arm0 false f) ∧
     TakesTraps s arm0 ∧ (s.env arm0).lanes = [0] ∧
     (let at' := fun k => (s.env arm0).wv.kreg k + ((s.env arm0).wv.vreg 4 0).signExtend 64
      (at' 2).toNat % 4 ≠ 0 ∧ (at' 3).toNat % 4 = 0 ∧ at' 3 ≠ ((at' 3).setWidth 57).signExtend 64)) :=
  ⟨issue_all (by decide +kernel), takes_traps (by decide +kernel), by decide +kernel⟩
/-- A word of the level-2 table: the leaf of the 1 GiB at 0x40000000. -/
def withLeaf (x : Nat) (s : State) : State := s.putBytes none (cellsAt 0x3008 (leBytes 8 x))
/-- Another wave of the block, wave id 1025, in its epoch 3. -/
def withOther (s : State) : State := s.modBlock 0 fun k => { k with waves := [k.waves.headD {}, { idx := 1, slot := 1, res := 1, epoch := 3 }] }
/-- No page, one without W, an encoded one, an aperture-only one; in the handler the trap halts the wave. -/
theorem test_hyp_FlatAddressTraps_pages :
    [(0, 1), (0x40000003, 2), (0x40000017, 9), (0x40000047, 9)].all (fun x =>
      let s := withLeaf x.1 (withK [(1, 0x40000000)] (inMode 0))
      let e := s.env arm0
      [s, withWave (fun w => { w with status := 0x100 }) s].all (fun s =>
        canIssue s arm0 false (fun e => { pre := need (clsM e.et), vs := [e.src 3, one 4], ks := [1], guarded := true, mem := true }) && (s.wave 0 0).outst.isEmpty && s.reports.isEmpty) &&
      canTrap s arm0 && decide (e.wv.kreg 1 + (e.wv.vreg 4 0).signExtend 64 = 0x40000000) &&
      match s.translate (dataSide e.core) e.cx 0x40000000 true false with
      | .error c => c == (3, x.2)
      | .ok y => x.2 == 9 && (y.enc == (x.1 == 0x40000017)) && (y.aper == (x.1 == 0x40000047))) = true := by decide +kernel
/-- A race-checked page whose first granule holds the other wave's record, of its epoch or of an earlier one. -/
theorem test_hyp_FlatAddressTraps_races :
    [(1025 * 256 + 3, true), (1025 * 256 + 2, false), (0, false)].all (fun x =>
      let s := { withLeaf 0x40000027 (withOther (withK [(1, 0x40000000)] (inMode 0))) with race := [(0x40000000 / 128, BitVec.ofNat 32 x.1)] }
      let e := s.env arm0
      canIssue s arm0 false (fun e => { pre := need (clsM e.et), vs := [e.src 3, one 4], ks := [1], guarded := true, mem := true }) && canTrap s arm0 &&
      !s.lsConflict 0 0 false true [0x40000000 / 128] && decide (s.idOf 0 0 ≠ 1025) && (s.residentWave 1025 == some (0, 1)) &&
      ((s.wave 0 1).epoch.toNat == x.1 % 256) == x.2 &&
      match s.translate (dataSide e.core) e.cx 0x40000000 true false with
      | .error _ => false
      | .ok y => y.rc && decide (s.place y.pa y.host = .mem 0x40000000)) = true := by decide +kernel
/-- A second bank in compute mode. -/
def withCompute : State := withCore (fun c => { c with banks := [(1, { compute := true, ww := 4 })] }) (inMode 2)
theorem test_hyp_ScratchpadAccesses :
    (let s := withV [(5 * 1024, 0x1000), (6 * 1024, 0x10000)] withCompute
     (∀ f ∈ [fun e => ({ pre := need (clsM e.et), vs := [e.dst 2, one 5], ks := [], guarded := true, mem := true } : Form),
             fun e => { pre := need (clsM e.et), vs := [e.src 2, one 5], ks := [], guarded := true, mem := true },
             fun e => { pre := need (clsM e.et), vs := [e.dst 2, one 6], ks := [1], guarded := true, mem := true },
             fun e => { pre := need (clsM e.et), vs := [e.src 2, one 5], ks := [1], guarded := true, mem := true }], Issues s arm0 false f) ∧
     0 < s.blocks.length ∧ (s.peerBlock (s.env arm0) ((s.env arm0).wv.kreg 1)).toOption = some 0 ∧ (s.env arm0).lanes = [0] ∧
     s.plainScr (s.env arm0) 0 8 0 (0x1000 + 4 * 2) = true ∧ s.plainScr (s.env arm0) 0 8 0 0x1000 = true ∧ s.plainScr (s.env arm0) 0 8 0 0x10000 = true ∧
     s.computeIn 0 (0x1000 + 4 * 2) 8 = false ∧ s.computeIn 0 0x1000 8 = false ∧ s.computeIn 0 0x10000 8 = true) :=
  ⟨issue_all (by decide +kernel), by decide +kernel⟩

/-- A request of lane 0 of the only wave for an add of 5 to the s32 at a key; its result is number 7. -/
def request (key : Nat) : AtomReq :=
  { inst := 1, b := 0, w := 0, armB := false, core := 0, lane := 0, va := 0x20000, key := key, host := false, rc := false, home := 0, op := 0, et := 0
    rm := 0, fz := false, c := 5, new := 0, ret := true, d := 3, res := 7, site := 0x10000, seq := 0, f := 0 }
def withRequests (l : List AtomReq) (s : State := base) : State := { s with atomReqs := l }
/-- Is r request i of s; does it wait behind another of its instruction; can the link not serve it; is its element uncorrectable? -/
def requestIs (s : State) (i : Nat) (r : AtomReq) (behind noLink bad : Bool) : Bool :=
  s.atomReqs[i]? == some r && ((s.atomReqs.take i).any (fun q => q.inst == r.inst && q.key == r.key)) == behind &&
  (r.host && !((r.et == 1 || r.et == 3) && (r.op == 0 || r.op == 6 || r.op == 8))) == noLink && s.badIn r.key 4 == bad
theorem test_hyp_AtomicsAtTheirTargets :
    requestIs (withRequests [request 0x20000]) 0 (request 0x20000) false false false = true ∧
    (withRequests [request 0x20000]).replaying (request 0x20000) = 0 ∧
    requestIs (withRequests [request 0x20000, { request 0x20000 with lane := 1 }]) 1 { request 0x20000 with lane := 1 } true false false = true ∧
    requestIs (withRequests [{ request (hostBit + 64) with host := true, op := 1 }]) 0 { request (hostBit + 64) with host := true, op := 1 } false true false = true ∧
    requestIs { withRequests [request 0x20000] with memBad := [0x8000] } 0 (request 0x20000) false false true = true ∧
    (let r := { request (hostBit + 64) with host := true, et := 1 }
     let s := withRequests [r]
     requestIs s 0 r false false false = true ∧ s.replaying r = 0 ∧ (s.atomPlace r).2 = false ∧ r.host = true) ∧
    (let r := request 0x20000
     let l : ReplayLine := { ctx := 0, line := 0x400, runs := [(9, 0, 0, 0, 1)] }
     let s := { withRequests [r] (withCtx fun c => { c with replayMode := 2 }) with replayLines := [l] }
     requestIs s 0 r false false false = true ∧ s.replaying r = 2 ∧
     s.replayLines.find? (fun l => l.ctx == s.reqCtx r && l.line == r.key / 128) = some l ∧ l.diverged = false ∧ (9, 0, 0, 0) ≠ s.requester r) ∧
    (let r := request 0x20000
     let q := { request 0x20008 with held := true, arrived := 1 }
     let l : ReplayLine := { ctx := 0, line := 0x400, runs := [(9, 0, 0, 0, 1)], diverged := true }
     let s := { withRequests [r, q] (withCtx fun c => { c with replayMode := 2 }) with replayLines := [l] }
     requestIs s 0 r false false false = true ∧ s.replaying r = 2 ∧
     s.replayLines.find? (fun l => l.ctx == s.reqCtx r && l.line == r.key / 128) = some l ∧ l.diverged = true ∧
     q ∈ s.atomReqs ∧ s.reqCtx q = s.reqCtx r ∧ q.key / 128 = r.key / 128 ∧ q.arrived ≠ 0 ∧ (r.arrived = 0 ∨ q.arrived < r.arrived)) ∧
    ((withRequests [{ request 0x20000 with held := true }]).reqCtx (request 0x20000) = 0 ∧ (request 0x20000).key / 128 = 0x400) := by decide +kernel
theorem test_hyp_AtomicsAtTheirTargets_values : (0xFFFFFFFF#64).toNat < 2 ^ (8 * 4) ∧ etBytes 0 = 4 ∧ etBytes 10 = 2 := ⟨by simp, by decide⟩
/-- Buffer 0: raw f32 at 0x20000; buffer 1: f16 in memory, f32 in registers; buffer 2: zrev at 0x40000000, on encoded pages. -/
def withBuffers (et : Nat) : State :=
  let s := withLaunch (fun n => { n with bufs := [[0x20000, 4096, 0x808, 0, 0], [0x21000, 0x1000000000100, 0x080A, 0, 0],
                                                  [0x40000000, 0x3000000001000, 0x909, 0, 0]] }) (withAddresses et)
  withLeaf 0x4000001F s
theorem test_hyp_BufferGroups :
    (let s := withV [(5 * 1024, 127)] (withBuffers 8)
     (∀ f ∈ [fun e => ({ pre := bufPre e 0, vs := [bufRegs (e.buf 0) 2 true, one 5], guarded := true, mem := true } : Form),
             fun e => { pre := bufPre e 1, vs := [bufRegs (e.buf 1) 2 true, one 5], guarded := true, mem := true },
             fun e => { pre := bufPre e 0, vs := [bufRegs (e.buf 0) 2 false, one 5], guarded := true, mem := true },
             fun e => { pre := bufPre e 1, vs := [bufRegs (e.buf 1) 2 false, one 5], guarded := true, mem := true }], Issues s arm0 false f) ∧
     s.l2Fail = [] ∧ s.l2Lost = [] ∧ (s.core 0).l1Old = [] ∧ (s.env arm0).lanes = [0] ∧ s.lsConflict 0 0 false true [0x403, 0x421] = false ∧
     s.lsConflict 0 0 false false [0x403, 0x421] = false ∧
     (let r := (s.env arm0).ln.bufs.getD 0 []
      bufEncoded r = false ∧ bufRace r = false ∧ bufPos r 127 = some 127 ∧ s.plainKey (s.env arm0) 4 false (bufBase r + 508) = some 0x201FC ∧
      s.plainKey (s.env arm0) 4 true (bufBase r + 508) = some 0x201FC ∧ s.badIn 0x201FC 4 = false) ∧
     (let r := (s.env arm0).ln.bufs.getD 1 []
      bufEncoded r = false ∧ bufRace r = false ∧ bufPos r 127 = some 127 ∧ s.plainKey (s.env arm0) 2 true (bufBase r + 254) = some 0x210FE ∧
      s.plainKey (s.env arm0) 2 false (bufBase r + 254) = some 0x210FE ∧ s.badIn 0x210FE 2 = false)) := ⟨issue_all (by decide +kernel), by decide +kernel⟩
theorem test_hyp_EncodedBufferAccesses :
    (let s := withBuffers 9
     let e := s.env arm0
     let r := e.ln.bufs.getD 2 []
     (∀ f ∈ [fun e => ({ pre := bufPre e 2, vs := [bufRegs (e.buf 2) 2 true, one 5], guarded := true, mem := true } : Form),
             fun e => { pre := bufPre e 2, vs := [bufRegs (e.buf 2) 2 false, one 5], guarded := true, mem := true }], Issues s arm0 false f) ∧
     bufEncoded r = true ∧ bufRace r = false ∧ e.lanes = [0] ∧ bufPos r (e.wv.vreg 5 0) = some 0 ∧ bufEnc r = 3 ∧
     (s.blockAt e r (blockOf r 0).1).isSome = true ∧ s.sumac = [] ∧ (s.core e.core).decoded = [] ∧
     [blockVa r (blockOf r 0).1, mapVa r (blockOf r 0).1].all (fun va => (s.bufXlat e r false va).isOk && (s.bufXlat e r true va).isOk) = true) :=
  ⟨issue_all (by decide +kernel), by decide +kernel⟩
theorem test_hyp_HintsAndCodecMaintenance :
    (let s := withK [(7, 0), (8, 2)] (withBuffers 9)
     let e := s.env arm0
     let r := e.ln.bufs.getD 2 []
     (∀ f ∈ [fun _ => ({ vs := [one 3], ks := [1], guarded := true } : Form), maintainForm 2 7 8], Issues s arm0 false f) ∧
     bufOk r = true ∧ bufEncoded r = true ∧ (e.wv.kreg 7).toNat + (e.wv.kreg 8).toNat ≤ bufBlocks r ∧ s.sumac = [] ∧
     [0, 1].all (fun j => (s.blockAt e r j).isSome && (s.bufXlat e r true (blockVa r j)).isOk && (s.bufXlat e r true (mapVa r j)).isOk) = true) :=
  ⟨issue_all (by decide +kernel), by decide +kernel⟩
theorem test_hyp_FencesAndWaits :
    (let s := withK [(9, 1), (10, 0)] (withAddresses 0)
     (∀ f ∈ [fun _ => ({ mem := true } : Form), fun _ => { ks := [1, 9], mem := true }, fun _ => { ks := [1, 10], mem := true }], Issues s arm0 false f) ∧
     s.l2Fail = [] ∧ s.l2Lost = [] ∧ s.lsConflict 0 0 false false [0x400] = false ∧ s.plainKey (s.env arm0) 8 false 0x20000 = some 0x20000 ∧
     s.badIn 0x20000 8 = false ∧ 0x20000 < peerBit ∧
     s.scopeClash (0x20000 / 128) (0, 0) (s.arm arm0).scope = false ∧
     ((s.env arm0).wv.kreg 10).toNat ≤ leNat (s.bytesAt 0x20000 8) ∧ ¬ ((s.env arm0).wv.kreg 9).toNat ≤ leNat (s.bytesAt 0x20000 8)) :=
  ⟨issue_all (by decide +kernel), by decide +kernel⟩
/-- The line was last used by the other wave at the issuing arm's scope, which only the arm itself is in; a fence is open. -/
theorem test_hyp_FencesAndWaits_scopes :
    (let s := { withOther (withK [(9, 1)] (withAddresses 0)) with sync := [(0x400, 1025)] }
     canIssue s arm0 false (fun _ => { ks := [1, 9], mem := true }) = true ∧ canTrap s arm0 = true ∧ s.plainKey (s.env arm0) 8 false 0x20000 = some 0x20000 ∧
     s.lsConflict 0 0 false false [0x400] = false ∧ s.scopeClash 0x400 (0, 0) (s.arm arm0).scope = true ∧ s.scopeClash 0x400 (0, 1) 0 = false) ∧
    (let s := withWave fun w => { w with a := { w.a with fence := some { kind := 1, scope := 4, paths := 15 } } }
     s.cur = some arm0 ∧ s.mustPark arm0 true = false ∧ (s.arm arm0).fence.isSome = true) := by decide +kernel
theorem test_hyp_FlatAtomics :
    (let s := withAddresses 1
     let form := fun (op : Nat) (ret : Bool) (e : Env) =>
       ({ pre := need (atomType op e.et), vs := (if ret then [{ r := 3, pair := e.pair, dest := op != 8 }] else []) ++ [one 4, e.src 5]
          ks := [1], guarded := true, mem := true } : Form)
     (∀ f ∈ [form 7 true, form 0 true, form 8 true, form 5 false], Issues s arm0 false f) ∧ s.lsConflict 0 0 false true [0x400] = false ∧ (s.env arm0).lanes = [0] ∧
     s.plainKey (s.env arm0) 4 true 0x20000 = some 0x20000 ∧ s.scopeClash (0x20000 / 128) (0, 0) (s.arm arm0).scope = false) :=
  ⟨issue_all (by decide +kernel), by decide +kernel⟩
theorem test_hyp_ScratchpadAtomics :
    (let s := withV [(4 * 1024, 0x1000)] (inMode 3)
     let form := fun (op : Nat) (ret : Bool) (ks : List Nat) (e : Env) =>
       ({ pre := need (atomType op e.et), vs := (if ret then [{ r := 6, pair := e.pair, dest := op != 8 }] else []) ++ [one 4, e.src 2]
          ks := ks, guarded := true, mem := true } : Form)
     (∀ f ∈ [form 0 true [], form 8 true [], form 7 false [], form 6 true [1], form 8 true [1], form 4 false [1]], Issues s arm0 false f) ∧
     0 < s.blocks.length ∧ (s.peerBlock (s.env arm0) ((s.env arm0).wv.kreg 1)).toOption = some 0 ∧ (s.env arm0).lanes = [0] ∧
     s.plainScr (s.env arm0) 0 8 7 0x1000 = true ∧ s.computeIn 0 0x1000 8 = false) := ⟨issue_all (by decide +kernel), by decide +kernel⟩
/-- Slot 0 is f32 unscaled; bank 0 in compute mode with 4-bit weights; k1 is the record of mmac (base 0x20000, extent 4096),
k2 the source of mpack. -/
def withArrays (et : Nat) : State :=
  withLaunch (fun n => { n with slots := [0x08] })
    (withCore (fun c => { c with banks := [(0, { compute := true, ww := 4, calibrated := true })] }) (withK [(1, 0x100000020000), (2, 0x20080)] (withV [(3 * 1024, 0x20000)]
      (withCtx (fun c => { c with colls := [(0, { result := 0, nblk := 1, fmt := 8, group := 0, expect := 1, caddr := 0, cinc := 0 })] }) (inMode et)))))
theorem test_hyp_ArrayInstructions :
    (let form := fun (legal : Env → Bool) (vs : List VOp) (ks : List Nat) (g : Bool) (e : Env) =>
       ({ pre := need (e.ln.arrays && legal e), vs := vs, ks := ks, guarded := g, mem := true } : Form)
     (∀ f ∈ [form (fun _ => true) [] [] false, form (fun e => 17 ≤ e.et && e.et ≤ 23) [] [1] true,
             form (fun e => e.et == 17 || e.et == 19 || e.et == 23) [] [2] false, form (fun _ => true) [] [127] false], Issues (withArrays 17) arm0 false f) ∧
     ∀ f ∈ [form (fun e => e.et == 8 && slotOk (e.slot 0) && slotScale (e.slot 0) == 0 && drainFmt 0 (slotFmt (e.slot 0)))
              [{ r := 224, n := 32, dest := true }] [] true,
            form (fun e => e.et == 8 && slotOk (e.slot 0) && slotScale (e.slot 0) == 0 && drainFmt 2 (slotFmt (e.slot 0))) [one 4] [] true],
       Issues (withArrays 8) arm0 false f) := ⟨issue_all (by decide +kernel), issue_all (by decide +kernel)⟩
theorem test_hyp_ArrayInstructions_state :
    (let s := withArrays 17
     let e := s.env arm0
     let x := e.wv.kreg 1
     let y := e.wv.kreg 2
     let alloc := 4096 * e.ln.granules
     (s.core e.core).arb.length < 32 ∧ (s.core e.core).badTiles = [] ∧ e.lanes = [0] ∧ alloc = 8 * 65536 ∧
     amodeTrap e s 2 true 0 2040 = none ∧ tableHeld e s 2 true 0 2040 = false ∧ amodeModeTrap e s 2 true 0 2040 = none ∧ (s.bank 0 0).compute = true ∧ (s.core e.core).arb = [] ∧
     (x &&& 0xFFF00000FFF80000#64 = 0 ∧ recBase x % 8 = 0 ∧ recBase x + recExtent x ≤ alloc ∧ (0 + 1) * (32 * (17 - 15) + 8) ≤ recExtent x ∧ 6 + 2 ≤ 8) ∧
     (drainTrap 224 0 8 e s = none ∧ drainTrap 4 2 8 e s = none ∧ drainTrap 3 1 8 e s = none) ∧
     (y.toNat + 65536 ≤ alloc ∧ y.toNat < 2 ^ 19 ∧ y.toNat % 128 = 0 ∧ (s.bank 0 4).compute = false ∧ y.toNat / 65536 ≠ 4 ∧ (y.toNat + 65535) / 65536 ≠ 4)) := by
  decide +kernel
/-- Nothing is switched, no tile has an error, the instruction issues and a trap enters the handler. -/
def canArr (s : State) (f : Env → Form) : Bool :=
  canIssue s arm0 false f && canTrap s arm0 && (s.core 0).badTiles.isEmpty && (s.core 0).arb.isEmpty && (s.env arm0).ln.arrays && decide (s.allocation (s.block 0) = 0x80000)
/-- mmac: a reserved bit, a bank in scratchpad mode, a base off its alignment, a region past the allocation, tiles past the eighth, a
vector past its region. -/
theorem test_hyp_ArrayInstructions_mmac_traps :
    (let f : Env → Form := fun e => { pre := need (e.ln.arrays && (17 ≤ e.et && e.et ≤ 23)), ks := [1], guarded := true, mem := true }
     [0x8000000000000000, 0x100000020001, 0x10000007FFF8, 0x100000020000, 0x800020000].all (fun x => canArr (withK [(1, x)] (withArrays 17)) f) &&
     (0x8000000000000000#64 &&& 0xFFF00000FFF80000#64 != 0) && !((withArrays 17).bank 0 1).compute && decide (recBase 0x100000020001 % 8 ≠ 0) &&
     decide (0x80000 < recBase 0x10000007FFF8 + recExtent 0x10000007FFF8) && decide (8 < 7 + 0 * (2048 / 4 / 256) + 2048 / 4 / 256) &&
     decide (recExtent 0x800020000 < (0 + 1) * (32 * (17 - 15) + 8)) && ((withArrays 17).env arm0).lanes == [0]) = true := by decide +kernel
/-- mdrain of slot 0: tiles past the eighth; v3 holds an offset that is odd, past the allocation, in the compute-mode bank 0; or names a collective that is not there, or a
block past it. -/
theorem test_hyp_ArrayInstructions_mdrain_traps :
    (let f : Nat → Env → Form := fun tgt e =>
       { pre := need (e.ln.arrays && (e.et == 8 && slotOk (e.slot 0) && slotScale (e.slot 0) == 0 && drainFmt tgt (slotFmt (e.slot 0)))), vs := [one 3], guarded := true, mem := true }
     let s := fun x => withV [(3 * 1024, x)] (withArrays 8)
     [0x20004, 0x7FC08, 0x1000].all (fun x => canArr (s x) (f 1)) && [0x1000000, 1].all (fun x => canArr (s x) (f 2)) &&
     ((s 0).env arm0).lanes == [0] && slotFmt (((s 0).env arm0).slot 0) == 8 && decide (0x80000 < 0x7FC08 + 256 * etBytes 8) && (s 0).inCompute 0 0x1000 &&
     (((s 0).env arm0).cx.colls.find? fun c => c.1 == 0x1000000 / 2 ^ 24).isNone && (((s 0).env arm0).cx.colls.map fun c => (c.1, c.2.nblk, c.2.fmt)) == [(0, 1, 8)] &&
     (let z := withLaunch (fun n => { n with lanes := 64 }) (withWave (fun w => { w with a := { w.a with mask := 1 <<< 32 } }) (s 0))
      canArr z (f 0) && canArr z (f 1) && (z.arm arm0).mask.getLsbD 32 && decide (32 < (z.env arm0).ln.lanes ∧ 32 / 32 = 1 ∧ 8 < 7 + 1 * 1 + 1))) = true := by
  decide +kernel
/-- mpack: a reserved bit, a source past the allocation, one in the bank itself, one off its alignment, a bank in compute mode. -/
theorem test_hyp_ArrayInstructions_mpack_traps :
    (let f : Env → Form := fun e => { pre := need (e.ln.arrays && (e.et == 17 || e.et == 19 || e.et == 23)), ks := [2], mem := true }
     [0x80000, 0x70080, 0x20000, 0x20040, 0x20080].all (fun x => canArr (withK [(2, x)] (withArrays 17)) f) && ((withArrays 17).bank 0 0).compute &&
     decide (2 ^ 19 ≤ 0x80000 ∧ 0x80000 < 0x70080 + 65536 ∧ 0x20000 / 65536 = 2 ∧ 0x20040 % 128 ≠ 0 ∧ 0x20080 % 128 = 0)) = true := by decide +kernel
/-- k1 is the address of a parameter block, k2 a range of one granule; a copy whose block is captured, or not yet. -/
def withCopies (l : List Copy) : State := withCore (fun c => { c with copies := l }) (withK [(1, 0x20000), (2, 65536)] { base with nextId := 9 })
theorem test_hyp_CopiesAndHomes :
    (∀ f ∈ [fun _ => ({ ks := [1], mem := true } : Form), fun _ => { ks := [3, 1] }, fun _ => { ks := [1, 2], mem := true }], Issues (withCopies []) arm0 false f) ∧
    (let s := withCopies []
     let e := s.env arm0
     e.wv.idx = e.ln.producer ∧ s.lsConflict 0 0 false false [0x400] = false ∧ (s.core e.core).copies.length < 32 ∧ s.plainKey e 128 false 0x20000 = some 0x20000) ∧
    (let s := withCopies []
     let e := s.env arm0
     (e.wv.kreg 1).toNat % 65536 = 0 ∧ (e.wv.kreg 2).toNat % 65536 = 0 ∧ (e.wv.kreg 2).toNat ≤ 2 ^ 30 ∧ s.quietArm e = true ∧ s.sumac = [] ∧
     (s.rehomePages e 0x20000 16).toOption = some [(2, 0)]) ∧
    (∀ b ∈ [none, some []], let s := withCopies [{ id := 3, b := 0, w := 0, armB := false, since := 3, ka := 0x20000, site := 0x10000, block := b }]
     ((s.core 0).copies.filter fun c => c.b == 0 && c.id < s.nextId).length = 1) := ⟨issue_all (by decide +kernel), by decide +kernel⟩
/-- A graph with one port (inbox of four 32-byte entries at 0x1000) and one channel from it to itself, bound to the launch.  k1 is the
channel with one word, k2 a timestamp, k3 the port, k4 the next victim, k5 the frontier's field 0. -/
def withGraph (entries : Nat) (reqs : List SendReq) (s : State := base) : State :=
  let g : Graph := { ctx := 0, num := 0, image := 0x30000, ports := [{ depth := 0, plen := 1, log2e := 2, inbox := 0x1000, icap := 0 }]
                     edges := [{ src := 0, dst := 0, kind := 0, vec := 0 }], front := 0x40000, xring := 0, xlog2n := 0, sums := [[[idSummary]]]
                     counts := [(0, 0, 1)], extCaps := [], ann := [([0], false, 0)], bound := some 0 }
  let t := withBlock (fun k => { k with inboxes := [{ port := 0, head := 0, tail := entries }], held := [{ port := 0, ts := 0, count := 1 }] })
    (withLaunch (fun n => { n with graph := some 0, rects := [(0, 0, 1, 0, 0)] }) (withK [(1, 0x10000), (2, 0x0005000000000000), (3, 0), (4, 0), (5, 0x80000)] s))
  { t with graphs := [g], sendReqs := reqs }
theorem test_hyp_SendsAndReceives :
    (let s := withGraph 1 []
     (∀ f ∈ [fun _ => ({ ks := [1, 2], guarded := true, mem := true } : Form), fun _ => { ks := [6, 3], mem := true }, fun _ => { ks := [6, 4], mem := true }],
       Issues s arm0 false f) ∧
     (let e := s.env arm0
      let h := s.graph 0
      let kt := e.wv.kreg 2
      e.ln.graph = some 0 ∧ 0 < s.blocks.length ∧ (e.wv.kreg 1).toNat = 0 + 65536 * 1 ∧ 0 < h.edges.length ∧ 1 ≤ 64 ∧
      (({ vs := [{ r := 255, n := 1 }] } : Form).check ((s.beginSegment arm0 false).env arm0)).isNone = true ∧ 4 * 1 ≤ 16 * (h.port 0).plen ∧
      validAt (h.port 0).depth kt = true ∧ e.lanes = [0] ∧ heldAny (s.block 0).held 0 kt = true ∧ s.remotePort 0 0 = false ∧ s.stalled e.core = false ∧
      s.consumers 0 0 = [0] ∧ 1 ≤ (h.port 0).ring * 1 ∧ (edgeSummary (h.port 0).depth (h.edge 0)).exact kt = some kt ∧ s.sendReqs = []) ∧
     (let e := s.env arm0
      e.wv.recvOut = false ∧ (s.block 0).heldFull = false ∧ (s.block 0).inbox 0 = some { port := 0, head := 0, tail := 1 } ∧ (s.block 0).resident = true ∧
      (s.block 0).restoring = false ∧ (s.oldestRecv 0 0 0).isNone = true ∧ s.victim 0 0 0 = some 0 ∧ (s.block 0).saved = none)) ∧
    (let s := withGraph 0 [{ b := 0, w := 0, armB := false, graph := 0, chan := 0, lanes := 1, site := 0x10000, kc := 0x0005000000000000, granted := some ([0].map some) }]
     Issues s arm0 false (fun _ => { ks := [1, 2], guarded := true, mem := true }) ∧ (s.block 0).inbox 0 = some { port := 0, head := 0, tail := 0 } ∧
     (s.sendReqs.find? fun r => { r with granted := none } == { b := 0, w := 0, armB := false, graph := 0, chan := 0, lanes := (s.env arm0).lanes.length, site := (s.arm arm0).pc, kc := (s.env arm0).wv.kreg 2 }).map (·.granted) = some (some [some 0]) ∧ s.victim 0 0 0 = some 0) :=
  ⟨⟨issue_all (by decide +kernel), by decide +kernel⟩, issues_of (by decide +kernel), by decide +kernel⟩
/-- amode of bank 2 (and mcal, mstat): a bank past the allocation, a lost bank, a table that ends past it, one in a compute-mode bank, one in
a bank it switches, an inbox of the block in a bank it switches. -/
theorem test_hyp_ArrayInstructions_amode_traps :
    (let f : Env → Form := fun e => { pre := need (e.ln.arrays && true), mem := true }
     let s := withArrays 17
     let low := withLaunch (fun n => { n with granules := 16 }) s
     canIssue low arm0 false f && canTrap low arm0 && decide (low.allocation (low.block 0) = 65536) && canIssue low arm0 false (fun e => { f e with ks := [127] }) &&
     [s, withCore (fun c => { c with lost := 4 }) s, withGraph 1 [] s].all (fun s => canArr s f) &&
     (withCore (fun c => { c with lost := 4 }) s).lostTrap 0 4 == some { cause := 15, info := 4 } &&
     decide (256 * 2047 + 1024 * 0 < 0x80000 ∧ 0x80000 < 256 * 2047 + 1024 * 0 + 2048 / 2 ^ (1 + 1)) && s.inCompute 0 (256 * 8 + 1024 * 2) &&
     decide ((256 * 1020 + 1024 * 2) / 65536 = 4) && (withGraph 1 [] s).inboxRegions 0 == [(0x1000, 160)]) = true := by decide +kernel
/-- k6 counts to the end, k7 is 1 in counter 0. -/
def withTimes : State := withK [(6, 0xFFFF000000000000), (7, 0x0001000000000000)] (withGraph 0 [])
theorem test_hyp_UnitsTimesAndFrontiers :
    (let s := withTimes
     (∀ f ∈ [fun _ => ({ ks := [3, 2], mem := true } : Form), fun _ => { ks := [9, 5], mem := true }, kForm [9, 2], kForm [9, 6], kForm [9, 2, 7],
             kForm [9, 6, 7]], Issues s arm0 false f) ∧ TakesTraps s arm0 ∧
     (let e := s.env arm0
      let h := s.graph 0
      let y := e.wv.kreg 2
      e.ln.graph = some 0 ∧ (e.wv.kreg 3).toNat = 0 ∧ 0 < h.ports.length ∧ validAt (h.port 0).depth y = true ∧ s.stalled e.core = false ∧
      heldAny (s.block 0).held 0 y = true ∧ (s.block 0).heldFull = false ∧ heldAt (s.block 0).held 0 0 = true ∧ validAt 0 0 = true ∧
      s.l2Fail = [] ∧ s.l2Lost = [] ∧ s.plainKey e 8 false (h.front + 0) = some 0x40000 ∧ s.badIn 0x40000 128 = false ∧ 0x40000 < peerBit ∧
      ((s.frontAt 0x40000).all fun f => !tsLe f y) = true ∧ (e.wv.kreg 5).toNat = 0 + 65536 * 8 ∧ s.plainKey e 8 false (h.front + 0 + 8) = some 0x40008 ∧
      validAt 0 (e.wv.kreg 6) = true ∧ 0xFFFF + 1 > 65535 ∧ 5 + 1 ≤ 65535)) := ⟨issue_all (by decide +kernel), takes_traps (by decide +kernel), by decide +kernel⟩

/-! ### Statements about events -/

/-- A result that writes lane 0 of v3, k5 and p2, and one of a peer. -/
def plainResult : OutRes := { id := 7, owner := 0, kind := .plain, eff := { v := [(3 * 1024, 9)], k := [(5, 8)], p := [(2, 1, 1)], flags := 1 } }
theorem test_hyp_WaveEvents_results :
    (let s := withResult plainResult
     0 < s.blocks.length ∧ 0 < (s.block 0).waves.length ∧ (s.wave 0 0).outst = [plainResult] ∧ plainResult.kind.bound = true ∧
     (plainResult.eff.v.map (·.1)).Nodup ∧ (plainResult.eff.k.map (·.1)).Nodup ∧ (plainResult.eff.p.map (·.1)).Nodup) ∧
    (let r := { plainResult with kind := .peer 2 }
     (withResult r).wave 0 0 |>.outst.contains r) = true := by decide +kernel
def report : Report := { b := 0, w := 0, d := { cause := 21, sub := 0, info := 0x20000, site := 0x10000, seq := 0 } }
theorem test_hyp_WaveEvents_reports :
    (let s := { base with reports := [report] }
     s.reports[0]? = some report ∧ 0 < s.blocks.length ∧ 0 < (s.block 0).waves.length ∧ (s.wave 0 0).done = false ∧ (s.wave 0 0).pend.length < 4) ∧
    (let s := { withWave fun w => { w with pend := List.replicate 4 report.d } with reports := [report] }
     (s.wave 0 0).done = false ∧ 4 ≤ (s.wave 0 0).pend.length) ∧
    (let s := { withWave fun w => { w with done := true } with reports := [report] }
     (s.wave 0 0).done = true) := by decide +kernel
theorem test_hyp_WaveEvents_traps :
    (let s := withWave fun w => { w with pend := [report.d] }
     s.cur = some arm0 ∧ (s.wave 0 0).pend = [report.d] ∧ (s.wave 0 0).halted = false ∧ (s.wave 0 0).done = false ∧ (s.arm arm0).st = .ready ∧ canTrap s arm0 = true) ∧
    (let s := withCtx fun c => { c with debug := true, bps := [0, 0x20001, 0x10001] }
     s.cur = some arm0 ∧ (s.wave 0 0).outst = [] ∧ s.reports = [] ∧ (s.ctx 0).debug = true ∧ (s.arm arm0).skipBp = false ∧ 2 < (s.ctx 0).bps.length ∧
     ∀ j ∈ [0, 1, 2], (j = 2 ↔ ((s.ctx 0).bps.getD j 0).getLsbD 0 = true ∧
       ((s.ctx 0).bps.getD j 0).extractLsb' 2 55 = (s.arm arm0).pc.extractLsb' 2 55)) := by decide +kernel
def withFence (f : Fence) (l : List Sumac := []) : State := { withWave fun w => { w with a := { w.a with fence := some f } } with sumac := l }
def blockJob : Sumac :=
  { id := 5, who := some (0, 0, false), core := 0, die := 0, write := false, buf := [0x40000000, 0x3000000001000, 0x909, 0, 0], blk := 0, key := 0x40000080
    mapKey := some 0x40000000, updates := [], full := false, lanes := [(0, 0)], d := 2, res := 7, site := 0x10000, seq := 0, asid := 4096 }
theorem test_hyp_WaveEvents_fences :
    (let f : Fence := { kind := 3, scope := 5, paths := 15 }
     let s := withFence f
     ((s.wave 0 0).arm false).fence = some f ∧ s.lsBusy 0 0 false = false ∧ (s.wave 0 0).reading false = false ∧ s.cpBusy 0 0 false = false ∧ s.mxBusy 0 0 false = false ∧
     s.sending 0 0 false = false ∧ (s.wave 0 0).receiving false = false ∧ s.reports = [] ∧ s.peerReqs = [] ∧ (s.block 0).st ≠ .preempted ∧ (s.block 0).restoring = false) ∧
    (let f : Fence := { kind := 2, scope := 2, paths := 1 }
     let s := withFence f [{ blockJob with write := true }]
     ((s.wave 0 0).arm false).fence = some f ∧ f.paths.getLsbD 0 = true ∧ s.lsBusy 0 0 false = true) := by decide +kernel
def monitor0 : Monitor := { b := 0, w := 0, armB := false, key := 0x20000, line := 0x400, home := 0, fired := true }
/-- Arm A waits until the counter at 0x20000, which is 0, is at least n. -/
def waiting (n : DWord) (m : Monitor) : State :=
  { withWave fun w => { w with a := { w.a with st := .waitge 0x20000 0x20000 n none } } with monitors := [m] }
theorem test_hyp_WaveEvents_waits :
    0x20000 < peerBit ∧
    (let s := waiting 0 monitor0
     (∃ m ∈ s.monitors, m.waits arm0 = true ∧ m.line = 0x400 ∧ m.fired = true ∧ m.retry = false) ∧ s.waitHolds (s.arm arm0).st = true) ∧
    (let s := waiting 1 { monitor0 with fired := false }
     { monitor0 with fired := false } ∈ s.monitors ∧ 0x20004 / 128 = monitor0.line ∧ monitor0.peer = none ∧ monitor0.retry = false) ∧
    (let s := waiting 1 monitor0
     s.monitors = [monitor0] ∧ s.waitHolds (s.arm arm0).st = false ∧ s.memGood = true ∧ monitor0.key < peerBit) ∧
    (let s := waiting 0 { monitor0 with retry := true }
     s.monitors = [{ monitor0 with retry := true }] ∧ s.waitHolds (s.arm arm0).st = true) ∧
    (let s := waiting 1 { monitor0 with retry := true }
     s.monitors = [{ monitor0 with retry := true }] ∧ (s.monitors.filter fun n => n.home == 0 && !n.retry).length < 3840 ∧
     s.waitHolds (s.arm arm0).st = false) := by decide +kernel
theorem test_hyp_WaveEvents_samples :
    (let s := withBlock (fun k => { k with sampctl := 0x601, sampbuf := 0x20000 })
     0 < s.blocks.length ∧ (s.block 0).st = .resident ∧ (s.block 0).sampctl.getLsbD 0 = true ∧ (s.block 0).sampbuf ≠ 0 ∧ 0 < (s.block 0).waves.length ∧
     (s.wave 0 (((s.block 0).sampleNext + 0) % (s.block 0).waves.length)).done = false ∧
     (s.engineKeys 0 (s.ctx (s.launch (s.block 0).launch).ctx) 0x20000 true 2 16).toOption = some (span 0x20000 16) ∧
     s.memGood = true ∧ (s.block 0).marks = []) := by decide +kernel

def withJob (j : Sumac) (s : State := withBuffers 9) : State := { s with sumac := [j] }
def isLocked (s : State) (j : Sumac) : Bool := s.sumac.any fun y => y.id != 5 && y.key == j.key && (y.locked || (y.write && y.out.isSome))
/-- Reads: without a lock, with one; writes: an update, a pack of a raw block (map byte 31), a pack of another one; an apply. -/
theorem test_hyp_BlocksAndOutsideAccesses_jobs :
    (let s := withJob blockJob
     s.sumac.find? (fun y => y.id == 5) = some blockJob ∧ blockJob.write = false ∧ isLocked s blockJob = false ∧ blockJob.who = some (0, 0, false) ∧ 0 < s.blocks.length ∧
     0 < (s.block 0).waves.length ∧ s.memGood = true ∧ ¬ blockJob.write = true) ∧
    isLocked { withJob blockJob with sumac := [blockJob, { blockJob with id := 6, write := true, out := some ([], 0, [], []) }] } blockJob = true ∧
    (∀ j ∈ [{ blockJob with write := true, updates := [(0, 5)] }, { blockJob with write := true, full := true }],
      let s := withJob j
      s.sumac.find? (fun y => y.id == 5) = some j ∧ j.out = none ∧ isLocked s j = false ∧ (s.byteAt 0x40000000).toNat % 32 ≠ 31) ∧
    (let j := { blockJob with write := true, full := true }
     let s := (withJob j).putBytes none (cellsAt 0x40000000 [31])
     s.sumac.find? (fun y => y.id == 5) = some j ∧ j.out = none ∧ isLocked s j = false ∧ (s.byteAt 0x40000000).toNat % 32 = 31) ∧
    (let j := { blockJob with write := true, out := some (List.replicate 128 1, 31, [], []) }
     let s := withJob j
     s.sumac.find? (fun y => y.id == 5) = some j ∧ bufErrs j.buf = 0 ∧ 0x40000000 < j.key) := by decide +kernel
/-- The codec: blocks of zeros, of a NaN, and of 2.0; a reserved code. -/
theorem test_hyp_BlocksAndOutsideAccesses_codec :
    (List.replicate 16 (0x4000000000000000#64)).length = 16 ∧ (0x8000000000000000#64).toNat % 0x8000000000000000 = 0 ∧
    (0x7FF8000000000000#64).toNat / 0x10000000000000 % 2048 = 2047 ∧ (0x7FF8000000000000#64).toNat % 0x10000000000000 ≠ 0 ∧
    (0x4000000000000000#64).toNat / 0x10000000000000 % 2048 = 1024 ∧ 17 ≤ (0x3E#8).toNat ∧ (0x3E#8).toNat ≠ 31 := by decide
/-- Of the host: kinds 0 to 4 served, 5 not. -/
theorem test_hyp_BlocksAndOutsideAccesses_host :
    (∀ kind ∈ [0, 1, 2, 3, 4], base.dev.stage = 3 ∧ 1 ≤ 4 ∧ 0x20000 + 4 ≤ base.memSize ∧ base.badIn 0x20000 4 = false ∧ kind ≤ 4 ∧ 0x20000 % 4 = 0 ∧
      (base.dirByte 0x20000).getLsbD 6 = false) ∧ ¬ 5 ≤ 4 ∧ State.reset.dev.stage ≠ 3 := by decide +kernel
theorem test_hyp_BlocksAndOutsideAccesses_peer :
    base.dev.stage = 3 ∧ base.outsideOk 0x20000 8 = true ∧ 0x20000 % 8 = 0 ∧ (List.range 9).all (fun k => atomType k 3) = true ∧ base.memGood = true ∧
    (0 : DWord).toNat ≤ leNat (base.bytesAt 0x20000 8) ∧ leNat (base.bytesAt 0x20000 8) < (1 : DWord).toNat ∧
    (base.monitors.filter fun m => m.home == base.lineSlice 0x20000 && !m.retry).length < 3840 := by decide +kernel
/-- A zrev window of 32 blocks at 0x50000000, the first of them raw. -/
def withWindow : State :=
  (withDev (fun d => { d with windows := [(0, [0x50000000, 0x8003000000001000, 0, 0])] })).putBytes none (cellsAt 0x50000000 [31])
theorem test_hyp_BlocksAndOutsideAccesses_aperture :
    (let s := withWindow
     let r := winRecord (s.window 0)
     let x := winBlock r (blockOf r (8 / 8)).1
     s.dev.stage = 3 ∧ s.windowOk 0 8 8 = true ∧ 8 % 8 = 0 ∧ s.blockLocked x.key = false ∧ bufEnc r = 3 ∧ bufErrs r = 0 ∧ s.memGood = true ∧
     x.mapKey = some 0x50000000 ∧ s.byteAt 0x50000000 = 31 ∧ 0x50000000 < x.key ∧
     (List.range 16).all (fun i => !isPadding r (blockOf r (8 / 8)).1 i) = true) := by decide +kernel
def peer0 : PeerReq := { id := 3, kind := 0, b := 0, w := 0, lane := 0, res := 7, dev := 1, pa := 0x20000, va := 0x20000, data := [], site := 0x10000, seq := 0 }
theorem test_hyp_BlocksAndOutsideAccesses_peers :
    (let s := { withResult { plainResult with kind := .peer 1 } with peerReqs := [peer0] }
     s.peerReqs[0]? = some peer0 ∧ (s.wave 0 0).outst.length = 1 ∧ (s.peerReqs.map (·.id)).Nodup) ∧ base.peerReqs = [] ∧ 15 < 16 ∧ 16 ≤ 16 := by decide +kernel
/-- Collective 0 over one f32 block with result at 0x20000, in a group of this device alone. -/
def withColl (expect : Nat) : State :=
  withDev (fun d => { d with groups := [(2, [0])] })
    (withCtx fun c => { c with colls := [(0, { result := 0x20000, nblk := 1, fmt := 8, group := 2, expect := expect, caddr := 0, cinc := 0 })] })
theorem test_hyp_BlocksAndOutsideAccesses_collectives :
    (∀ n ∈ [1, 2], let s := withColl n
      let c := sget { result := 0, nblk := 0, fmt := 0, group := 0, expect := 0, caddr := 0, cinc := 0 } (s.ctx 0).colls 0
      0 < s.ctxs.length ∧ (s.ctx 0).colls = [(0, c)] ∧ sget [] s.dev.groups c.group = [0] ∧ c.caddr = 0 ∧ s.memGood = true ∧
      (c.expect ≤ 1 ↔ n = 1) ∧ (c.results [(0, 0, List.replicate 256 1)]).length = 1024 ∧
      (s.engineKeys 8 (s.ctx 0) c.result true (1024 / 4096 + 2) 1024).toOption = some (span 0x20000 1024)) := by decide +kernel
theorem test_hyp_BlocksAndOutsideAccesses_scrub :
    (0 ∈ base.dies ∧ 3 % 128 < 64 ∧ 8 ≤ 8 ∧ 64 ≤ 79 % 128 ∧ 79 % 128 < 80 ∧ ¬ 80 % 128 < 80) ∧ 1024 ≤ 1024 ∧ base.badIn 0x20000 4 = false ∧ base.l2Fail = [] ∧ base.l2Lost = [] ∧
    ({ base with memBad := [0x8000] } : State).badIn 0x20000 4 = true ∧ (base.core 0).failing 20 = [] ∧
    (let s := withCore fun c => { c with scrFail := [5 * 16384 + 5] }
     (s.core 0).failing 20 = [5] ∧ (s.core 0).lost.getLsbD 5 = false) := by decide +kernel

/-- One entry waits at the arbiter of core 0. -/
def entryOf (op : ArrOp) (granted : Bool) : ArbEntry :=
  { id := 4, b := 0, w := 0, armB := false, op := op, banks := 1, tiles := 1, cls := 1, length := 16, granted := granted, mode := 0x88, act := 1, site := 0x10000 }
def withEntry (op : ArrOp) (granted : Bool) (calibrated : Bool := true) : State :=
  withCore (fun c => { c with arb := [entryOf op granted], banks := [(0, { compute := true, ww := 4, calibrated := calibrated, calTemp := some 0 })] })
theorem test_hyp_ArrayPassesAndCopies_grants :
    (let s := withEntry (.mmac 0 0 0 0 0x100000020000) false
     let l := (s.core 0).arb
     ((l.filter fun x => x.cls == 0) ++ l.filter fun x => x.cls != 0).find? (s.grantable 0) = some (entryOf (.mmac 0 0 0 0 0x100000020000) false) ∧
     (s.bank 0 0).calibrated = true) ∧
    (let s := withEntry (.mmac 0 0 0 0 0x100000020000) false false
     let l := (s.core 0).arb
     ((l.filter fun x => x.cls == 0) ++ l.filter fun x => x.cls != 0).find? (s.grantable 0) = some (entryOf (.mmac 0 0 0 0 0x100000020000) false) ∧
     (s.bank 0 0).calibrated = false) ∧
    ((base.core 0).arb.find? (base.grantable 0)).isNone = true := by decide +kernel
/-- A granted entry of each operation, with what its clause asks. -/
theorem test_hyp_ArrayPassesAndCopies_entries :
    ([ArrOp.amode 1 false 2 0, .mzero 0, .mmac 0 0 0 5 0x100000020000, .mdrain 4 0 32 224 true 0 0 [], .mpack 1 0x20000, .mcal 1].all fun op =>
      ((withEntry op true).core 0).arb.find? (fun y => y.id == 4 && y.granted) == some (entryOf op true)) = true ∧
    (let s := withEntry (.mzero 0) true
     0 < s.blocks.length ∧ 0 < (s.block 0).waves.length ∧ (s.core 0).scrFail = [] ∧ (s.core 0).lost = 0 ∧ (s.launch (s.block 0).launch).racing = false ∧
     (s.bank 0 0).ww = 4 ∧ modeET 0x88 - 15 = 2 ∧ 224 + 32 ≤ 256) := by decide +kernel
theorem test_hyp_ArrayPassesAndCopies_lapse :
    (let s := withDev (fun d => { d with sensors := [(0, (true, 400))] }) (withEntry (.mzero 0) true)
     (s.bank 0 0).calibrated = true ∧ (s.bank 0 0).calTemp = some 0 ∧ 8 < (s.tj (0 / 64) - (0#16).toInt).natAbs) ∧
    (base.bank 0 0).calibrated = false := by decide +kernel
/-- A copy of four 4-byte elements from 0x20000 to offset 0; with rank 0 it is no valid block. -/
def paramBlock (rank : Nat) (dir : Nat := 0) (obase : Nat := 0) : List Byte :=
  leBytes 8 0x20000 ++ leBytes 8 obase ++ leBytes 8 0 ++ leBytes 8 0 ++ leBytes 8 0 ++ leBytes 4 4 ++ leBytes 16 0 ++ leBytes 4 (0x20 + 64 * dir + rank) ++
  leBytes 32 0 ++ leBytes 20 0 ++ leBytes 2 4 ++ leBytes 2 1 ++ leBytes 2 1 ++ leBytes 2 1 ++ leBytes 2 1 ++ leBytes 2 0
def copy0 (ka : DWord) (block : Option (List Byte)) : Copy := { id := 3, b := 0, w := 0, armB := false, since := 3, ka := ka, site := 0x10000, block := block }
theorem test_hyp_ArrayPassesAndCopies_captures :
    (let s := withCopies [copy0 0x20000 none]
     (s.core 0).copies.find? (fun y => y.id == 3 && y.block.isNone) = some (copy0 0x20000 none) ∧
     ((s.translate 0 (s.ctx 0) 0x20000 false false).toOption.map fun x => (x.pa, x.host)) = some (0x20000, false) ∧
     (match s.place 0x20000 false with | .mem k => decide (k = 0x20000) | _ => false) = true ∧ s.badIn 0x20000 128 = false) ∧
    (let s := withCopies [copy0 0x80000000 none]
     (s.core 0).copies.find? (fun y => y.id == 3 && y.block.isNone) = some (copy0 0x80000000 none) ∧
     (s.translate 0 (s.ctx 0) 0x80000000 false false).toOption = none ∧ ((s.block 0).waves.any fun v => !v.done) = true) := by decide +kernel
theorem test_hyp_ArrayPassesAndCopies_copies :
    (let s := withCopies [copy0 0x20000 (some (paramBlock 1))]
     let c := copy0 0x20000 (some (paramBlock 1))
     let x := tensorOf (paramBlock 1)
     (s.core 0).copies.find? (fun y => y.id == 3) = some c ∧ s.copyReady 0 c = true ∧ ((s.block 0).waves.any fun v => !v.done) = true ∧ s.memGood = true ∧ c.progress = 0 ∧ c.busy = false ∧ c.fault = none ∧
     x.valid (s.allocation (s.block 0)) = true ∧ x.dir = 0 ∧ (s.launch 0).racing = false ∧ (s.core 0).scrFail = [] ∧ (s.core 0).lost = 0 ∧
     (s.core 0).banks = [] ∧ x.caddr = 0 ∧
     (positions x.box).map (fun q => (x.clipped q, ((s.copyKey 0 (s.ctx 0) (x.address q) false).toOption))) =
       [(false, some 0x20000), (false, some 0x20004), (false, some 0x20008), (false, some 0x2000C)] ∧ 0x2000C < peerBit) ∧
    (let s := withCopies [copy0 0x20000 (some (paramBlock 0))]
     s.copyReady 0 (copy0 0x20000 (some (paramBlock 0))) = true ∧ (tensorOf (paramBlock 0)).valid (s.allocation (s.block 0)) = false ∧
     (tensorOf (paramBlock 0)).caddr = 0) := by decide +kernel
/-- Nothing is cached, and what changes lies beside the entries that the walks of the used addresses read. -/
theorem tables_settled {s : State} {c : Context} {used : DWord → Prop} {changed : Nat → Prop} (l : List DWord) (lo hi : Nat)
    (h : (s.tlb.isEmpty && s.walks.isEmpty && l.all fun va =>
      (({ s with tlb := [], walks := [] } : State).walkKeys c.asid va [4, 3, 2, 1, 0] c.root c.rootHost).all fun k => decide (k + 8 ≤ lo ∨ hi ≤ k)) = true)
    (hu : ∀ va, used va → va ∈ l) (hc : ∀ a, changed a → lo ≤ a ∧ a < hi) : TablesSettled s c used changed := by
  simp only [Bool.and_eq_true, List.isEmpty_iff, List.all_eq_true, decide_eq_true_eq] at h
  refine ⟨fun va _ e he => ?_, fun va _ p hp => ?_, fun va hv k hk j hj hx => ?_⟩
  · simp [h.1.1] at he
  · simp [h.1.2] at hp
  · have a := h.2 va (hu va hv) k hk
    have b := hc _ hx
    omega
/-- The four elements from offset 0 to 0x20000 (DIR 2), or from 0x20000 to 0x28000 (DIR 1). -/
theorem test_hyp_ArrayPassesAndCopies_copies_out :
    [1, 2].all (fun dir =>
      let p := paramBlock 1 dir (if dir = 1 then 0x28000 else 0)
      let s := withCopies [copy0 0x20000 (some p)]
      let x := tensorOf p
      let out := fun q => if x.dir = 1 then x.obase + BitVec.ofNat 64 (x.dense q) else x.address q
      let dst := fun q => (if dir = 1 then 0x28000 else 0x20000) + x.dense q
      s.copyReady 0 (copy0 0x20000 (some p)) && s.memGood && x.valid (s.allocation (s.block 0)) && x.dir == dir && x.caddr == 0 && (s.core 0).scrFail.isEmpty &&
      (s.core 0).lost == 0 && (s.core 0).banks.isEmpty && s.tlb.isEmpty && s.walks.isEmpty && x.size == 4 &&
      (positions x.box).all (fun q => !x.clipped q && (s.copyKey 0 (s.ctx 0) (out q) true).toOption == some (dst q) && decide (dst q + 4 ≤ peerBit) &&
        (s.copyKey 0 (s.ctx 0) (x.address q) false).toOption == some (0x20000 + x.dense q) &&
        (({ s with tlb := [], walks := [] } : State).walkKeys (s.ctx 0).asid (out q) [4, 3, 2, 1, 0] (s.ctx 0).root (s.ctx 0).rootHost).all (fun k => decide (k + 8 ≤ 0x20000)) &&
        (positions x.box).all fun r => (q == r || decide (dst q + 4 ≤ dst r ∨ dst r + 4 ≤ dst q)) &&
          (dir == 2 || decide (0x20000 + x.dense q + 4 ≤ dst r ∨ dst r + 4 ≤ 0x20000 + x.dense q)))) = true := by decide +kernel
theorem test_hyp_ArrayPassesAndCopies_tables :
    (let s := withCopies [copy0 0x20000 (some (paramBlock 1))]
     TablesSettled s (s.ctx 0) (fun va => va = 0 ∨ ∃ q ∈ positions (tensorOf (paramBlock 1)).box, va = (tensorOf (paramBlock 1)).address q) (fun _ => False)) ∧
    (let s := withCopies [copy0 0x20000 (some (paramBlock 1 1 0x28000))]
     TablesSettled s (s.ctx 0) (fun va => va ∈ [0x20000, 0x20004, 0x20008, 0x2000C, 0x28000, 0x28004, 0x28008, 0x2800C]) (fun a => 0x28000 ≤ a ∧ a < 0x28010)) :=
  ⟨tables_settled [0, 0x20000, 0x20004, 0x20008, 0x2000C] 0 0 (by decide +kernel) (by
      rintro va (rfl | ⟨q, hq, rfl⟩)
      · decide
      · exact of_decide_eq_true (List.all_eq_true.mp (by decide +kernel : ((positions (tensorOf (paramBlock 1)).box).all fun q =>
          decide ((tensorOf (paramBlock 1)).address q ∈ [0, 0x20000, 0x20004, 0x20008, 0x2000C])) = true) q hq)) (fun _ h => h.elim),
    tables_settled _ 0x28000 0x28010 (by decide +kernel) (fun _ h => h) (fun _ h => h)⟩
/-- A switch to compute mode of bank 1, lost or not; drains of tile 0 to offset 0x30000 and to collective 0; entries that fill the table, a pass
without conversion and a stale bank to calibrate. -/
theorem test_hyp_ArrayPassesAndCopies_more :
    [0, 2].all (fun lost =>
      let x := { entryOf (.amode 2 true 4 1024) true with banks := 2 }
      let s := withCore (fun c => { c with arb := [x], lost := lost })
      (s.core 0).arb.find? (fun y => y.id == 4 && y.granted) == some x && (s.core 0).scrFail.isEmpty && decide (0 < (s.block 0).waves.length) && canTrap s arm0 &&
      ((2#8).setWidth 9 &&& (s.core 0).lost != 0) == (lost == 2)) = true ∧
    [ArrOp.mdrain 4 0 256 0 true 1 0 [(0, 0x30000)], .mdrain 4 0 256 0 false 2 0 [(0, 0)]].all (fun op =>
      let s := withEntry op true
      (s.core 0).arb.find? (fun y => y.id == 4 && y.granted) == some (entryOf op true) && (s.core 0).scrFail.isEmpty && (s.core 0).softTiles.isEmpty && !(s.launch 0).racing) = true ∧
    [false, true].all (fun calibrated =>
      let x := entryOf (.mmac 0 0 0 (if calibrated then 5 else 0) 0x100000020000) false
      let l := x :: (List.range 31).map fun i => { entryOf (.mzero 5) false with id := 10 + i, banks := 0, tiles := 0x20 }
      let s := withCore (fun c => { c with arb := l, banks := [(0, { compute := true, ww := 4, calibrated := calibrated, calTemp := some 0 })] })
      ((l.filter fun x => x.cls == 0) ++ l.filter fun x => x.cls != 0).find? (s.grantable 0) == some x && l.length == 32 && s.current 0 0 == calibrated) = true ∧
    (let s := withEntry (.mzero 0) true false
     (s.block 0).resident = true ∧ (s.block 0).core = 0 ∧ (s.launch 0).arrays = true ∧ s.current 0 0 = false ∧ (s.bank 0 0).compute = true ∧ (s.core 0).calRun 0 = false ∧
     (s.core 0).arb.length < 32) := by decide +kernel

def delta0 : Delta := { port := 0, ts := 0, add := 1 }
def withBatches (openB closed : List Batch) : State := { withGraph 1 [] with openBatches := openB, closedBatches := closed }
theorem test_hyp_ChannelEvents_batches :
    (∀ n ∈ [1, 64], let x : Batch := { core := 0, graph := 0, deltas := List.replicate n delta0 }
      let s := withBatches [x] []
      s.openBatches.find? (fun y => y.core == 0 && y.graph == 0) = some x ∧ x.core = 0 ∧ x.graph = 0 ∧ (64 ≤ x.deltas.length ↔ n = 64)) ∧
    (let x : Batch := { core := 0, graph := 0, deltas := [delta0] }
     let s := withBatches [] [x]
     s.closedBatches.find? (fun y => y.core == 0) = some x ∧ s.entries = [] ∧ s.batchFits x = true ∧ x.graph < s.graphs.length) := by decide +kernel
def entry0 (applied : Bool) : Entry :=
  { graph := 0, chan := 0, port := 0, cons := some 0, ts := 0, sender := 0, payload := [1], core := 0, b := 0, w := 0, applied := applied, id := 6 }
theorem test_hyp_ChannelEvents_deliveries :
    (∀ a ∈ [false, true], let s := { withGraph 1 [] with entries := [entry0 a] }
      s.entries = [entry0 a] ∧ (entry0 a).arrived = false ∧ (entry0 a).cons = some 0 ∧ 0 < s.blocks.length ∧
      (s.block 0).inbox 0 = some { port := 0, head := 0, tail := 1 } ∧ (s.block 0).saved = none ∧ (s.launch 0).racing = false ∧ (s.wave 0 0).outst = []) := by
  decide +kernel
def withGraphOf (f : Graph → Graph) : State := { withGraph 1 [] with graphs := [f ((withGraph 1 []).graph 0)] }
theorem test_hyp_ChannelEvents_words :
    (let s := withGraphOf fun h => { h with dirty := [0] }
     0 < s.graphs.length ∧ 0 ∈ (s.graph 0).dirty ∧ 0 < (s.graph 0).ann.length ∧ s.memGood = true ∧
     (s.engineKeys 8 (s.ctx (s.graph 0).ctx) ((s.graph 0).front + BitVec.ofNat 64 (128 * 0)) true 2 128).toOption = some (span 0x40000 128)) ∧
    (let s := withGraphOf fun h => { h with dirty := [0], front := 0x80000000 }
     0 ∈ (s.graph 0).dirty ∧ (s.engineKeys 8 (s.ctx (s.graph 0).ctx) ((s.graph 0).front + BitVec.ofNat 64 (128 * 0)) true 2 128).toOption = none) ∧
    0 ∉ (withGraphOf id |>.graph 0).dirty := by decide +kernel
def request0 : SendReq := { b := 0, w := 0, armB := false, graph := 0, chan := 0, lanes := 1, site := 0x10000, kc := 0x0005000000000000 }
theorem test_hyp_ChannelEvents_credits :
    (let s := withGraph 1 [request0]
     s.sendReqs[0]? = some request0 ∧ request0.granted = none ∧ s.remotePort 0 0 = false ∧ (s.grant 0 0 1).isSome = true ∧ (s.grant 0 0 4).isNone = true) ∧
    (let s := { withGraphOf fun h => { h with group := some 2, place := [9] } with sendReqs := [request0] }
     s.sendReqs[0]? = some request0 ∧ s.remotePort 0 0 = true) ∧
    ({ request0 with granted := some [some 0] } : SendReq).granted.isSome = true := by decide +kernel
/-- An external ring of one record at 0x50000 with HEAD 0, TAIL 1 at the image: plain, or giving back one unit. -/
def withExternal (op : Nat) : State :=
  let s := withGraphOf fun h => { h with xring := 0x50000, extCaps := [(0, 0, 1)] }
  s.putBytes none (cellsAt 0x30020 (leBytes 8 0 ++ leBytes 8 1) ++ cellsAt 0x50000 (leBytes 2 0xFFFF ++ leBytes 2 0 ++ [BitVec.ofNat 8 op]))
theorem test_hyp_ChannelEvents_external :
    (∀ op ∈ [0, 2], let s := withExternal op
      let h := s.graph 0
      let c := s.ctx h.ctx
      let hd := ((s.ctxLoad c (h.image + 32) 16).toOption).getD []
      let r := ((s.ctxLoad c (h.xring + BitVec.ofNat 64 (320 * (0 % 2 ^ h.xlog2n))) 320).toOption).getD []
      h.xring ≠ 0 ∧ s.stalled 1024 = false ∧ field hd 0 8 = 0 ∧ field hd 8 8 = 1 ∧ 1 ≤ 0 + 2 ^ h.xlog2n ∧ field r 0 2 = 0xFFFF ∧ field r 4 1 = op ∧
      field r 16 2 < h.ports.length ∧ validAt (h.port 0).depth (BitVec.ofNat 64 (field r 24 8)) = true ∧ (0, 0, 1) ∈ h.extCaps ∧ s.openBatches = [] ∧
      s.memGood = true ∧ 0 < s.graphs.length ∧ (s.engineKeys 8 c (h.image + 32) true 2 8).toOption = some (span 0x30020 8)) := by decide +kernel
/-- In the same ring: a unit taken (op 1), an entry sent on channel 0 with one word; without a place in the inbox; in a shared graph of another owner. -/
theorem test_hyp_ChannelEvents_external_more :
    (let rec' := fun (l : List Byte) (s : State) => s.putBytes none (cellsAt 0x50000 l)
     let take := rec' (leBytes 2 0xFFFF ++ leBytes 2 0 ++ [1] ++ leBytes 27 0) (withExternal 0)
     let send := rec' (leBytes 2 0 ++ leBytes 2 4 ++ leBytes 28 0 ++ leBytes 4 7) (withExternal 0)
     let full := send.modBlock 0 fun k => { k with inboxes := [{ port := 0, head := 0, tail := 4 }] }
     let far := send.modGraph 0 fun h => { h with group := some 2, place := [9] }
     [take, send, full, far].all (fun s =>
       let h := s.graph 0
       let c := s.ctx h.ctx
       h.xring != 0 && !s.stalled 1024 && s.agentMons.isEmpty && s.memGood && s.openBatches.isEmpty &&
       (s.engineKeys 8 c (h.image + 32) false 2 16).toOption == some (span 0x30020 16) && leNat (s.bytesAt 0x30020 8) == 0 && leNat (s.bytesAt 0x30028 8) == 1 &&
       (s.engineKeys 8 c (h.image + 32) true 2 8).toOption == some (span 0x30020 8) && (s.engineKeys 8 c h.xring false 2 320).toOption == some (span 0x50000 320)) &&
     (let h := take.graph 0
      leNat (take.bytesAt 0x50000 2) == 0xFFFF && leNat (take.bytesAt 0x50004 1) == 1 && decide (leNat (take.bytesAt 0x50010 2) < h.ports.length) &&
      h.extCaps == [(0, 0, 1)] && tsLe 0 (BitVec.ofNat 64 (leNat (take.bytesAt 0x50018 8)))) &&
     (let h := send.graph 0
      leNat (send.bytesAt 0x50000 2) == 0 && leNat (send.bytesAt 0x50004 1) == 0 && leNat (send.bytesAt 0x50002 2) == 4 && decide (4 ≤ 16 * (h.port 0).plen) &&
      leNat (send.bytesAt 0x50008 8) == 0 && validAt (h.port 0).depth 0 && (edgeSummary (h.port 0).depth (h.edge 0)).exact 0 == some 0) &&
     !send.remotePort 0 0 && ((send.grant 0 0 1).map (·.1)) == some [0] && !full.remotePort 0 0 && full.consumers 0 0 == [0] && (full.grant 0 0 1).isNone && far.remotePort 0 0) = true := by
  decide +kernel
/-- A word that no one has written since HEAD was read; a batch that waits for room. -/
theorem test_hyp_ChannelEvents_external_waits :
    (let s := { withExternal 0 with agentMons := [{ who := (0, 16), home := 0, line := 0x600 }] }
     (s.agentMons.map fun m => (m.who, m.fired)) = [((0, 16), false)]) ∧
    (let s := (withExternal 0).putBytes none (cellsAt 0x30020 (leBytes 8 1))
     leNat (s.bytesAt 0x30028 8) ≤ leNat (s.bytesAt 0x30020 8)) := by decide +kernel
/-- A shared graph whose port is here; with a send that is not acknowledged, or not; this device leads it, or not. -/
def shared (unacked : List Unacked) (members : List Nat) : State :=
  withDev (fun d => { d with number := 1, groups := [(2, members)] })
    (withGraphOf fun h => { h with group := some 2, place := [1], unacked := unacked, declared := [([], false)] })
theorem test_hyp_ChannelEvents_shared :
    (let s := shared [] [0, 1]
     (s.graph 0).group.isSome = true ∧ 0 < (s.graph 0).edges.length ∧ s.remotePort 0 0 = false ∧ s.grant 0 0 1 = some ([0], 1) ∧ s.openBatches = [] ∧
     0 < s.graphs.length ∧ (s.graph 0).token = none ∧ s.leads 0 = false ∧ (s.graph 0).unacked.length ≤ 0) ∧
    (let s := shared [{ chan := 0, b := 0, w := 0, id := 1, ts := 0 }] [1, 0]
     0 < (s.graph 0).unacked.length ∧ (s.graph 0).token = none ∧ s.leads 0 = true) ∧
    (let s := shared [{ chan := 0, b := 0, w := 0, id := 1, ts := 0 }] [0, 1]
     (s.graph 0).unacked ≠ [] ∧ s.leads 0 = false) ∧ ((withGraph 1 []).graph 0).group = none ∧
    (let s := (shared [{ chan := 0, b := 0, w := 0, id := 1, ts := 0 }] [1, 0]).modGraph 0 fun h => { h with token := some { round := 1, black := false, chains := [] } }
     (s.graph 0).unacked.length = 1 ∧ (s.graph 0).token.isSome = true) ∧
    (let s := (shared [] [0, 1]).modGraph 0 fun h => { h with lent := [(5, 0), (0, 0)] }
     (s.graph 0).group.isSome = true ∧ 0 < (s.graph 0).edges.length ∧ s.remotePort 0 0 = false ∧ (s.graph 0).lent = [(5, 0)] ++ (0, 0) :: [] ∧ 0 ∈ s.consumers 0 0 ∧
     s.openBatches = [] ∧ (s.grant 0 0 1).isSome = true ∧ (s.grant 0 0 4).isNone = true) := by decide +kernel

theorem test_hyp_LaunchEvents_stores :
    (let s := base
     (s.engineKeys 8 (s.ctx 0) 0x20FFC true ([1, 2, 3, 4, 5, 6, 7, (8 : Byte)].length / 4096 + 2) [1, 2, 3, 4, 5, 6, 7, (8 : Byte)].length).toOption =
       some (span 0x20FFC 8) ∧ s.memGood = true) := by decide +kernel
/-- Queue 0 of context 0, whose ring of two records is at 0x60000 and holds one launch of one wave on core 0 of virtual die 0. -/
def withQueue : State :=
  base.putBytes none (cellsAt 0x400 (leBytes 8 0x60000 ++ [1, 1] ++ leBytes 6 0 ++ leBytes 8 0 ++ leBytes 8 1) ++
    cellsAt 0x60000 (leBytes 8 0x10000 ++ leBytes 8 0x40000 ++ leBytes 10 0 ++ [1, 0, 1, 0, 1, 0, 1, 1, 0, 0] ++ leBytes 4 0 ++ leBytes 2 0xFFFF ++ [0, 1]) ++
    cellsAt (0x60000 + 240) [0, 0, 0, 1, 1])
theorem test_hyp_LaunchEvents_queues :
    (let s := withQueue
     let c := s.ctx 0
     let at' := c.ccb + BitVec.ofNat 64 (1024 + 64 * 0)
     let d := ((s.ctxLoad c at' 64).toOption).getD []
     let l := ((s.ctxLoad c (BitVec.ofNat 64 (field d 0 8 + 512 * (field d 16 8 % 2 ^ field d 8 1))) 512).toOption).getD []
     field d 9 1 = 1 ∧ queueOk d = true ∧ field d 16 8 < field d 24 8 ∧ field d 24 8 ≤ field d 16 8 + 2 ^ field d 8 1 ∧ recordOk c l = true ∧ field l 24 2 = 0 ∧
     field l 40 2 = 0xFFFF ∧ (s.engineKeys 8 c (at' + 16) true 2 8).toOption = some (span 0x410 8) ∧ s.memGood = true ∧ 0 < s.ctxs.length) := by decide +kernel
/-- The block of the first launch is gone and its gang waits (again) for a core. -/
def withWaiting (f : Gang → Gang) (n : Launch → Launch) : State :=
  withBlock (fun k => { k with st := .done, released := true }) (withLaunch fun l => { n l with gangs := l.gangs.map fun g => f { g with st := .waiting, blocks := [] } })
theorem test_hyp_LaunchEvents_rounds :
    (let ok := fun (s : State) (room : Bool) => s.dev.stage == 3 && s.blocks.all (fun k => k.st != .swapped) && s.waitingGangs == [(0, 0)] &&
       (s.gang 0 0).st == .waiting && (s.launch 0).hint == 0 && (s.launch 0).priority != 0 && (s.launch 0).shape == 0 && (s.launch 0).graph.isNone &&
       1 ≤ (s.launch 0).waves && s.roomOn (s.launch 0) 0 == room && (room || (s.onCore 0).all fun k => (s.launch 0).priority ≤ (s.launch k.launch).priority && !(s.gang k.launch k.gang).sliceDone) && (s.rangeFor 0 (s.launch 0) == some 0 || !room) &&
       0 < s.launches.length && 0 < (s.launch 0).gangs.length
     ok (withWaiting id id) true = true ∧ ok (withWaiting id fun n => { n with waves := 16, lanes := 1024 }) false = true) ∧
    (let s := withWaiting (fun g => { g with waited := 16 }) id
     (s.gang 0 0).st = .waiting ∧ 16 ≤ (s.gang 0 0).waited ∧ (s.gang 0 0).promoted = false) ∧
    (let s := withCtx fun c => { c with slices := [5] }
     (s.gang 0 0).st = .placed ∧ (s.launch 0).priority ≠ 0 ∧ (s.ctx (s.launch 0).ctx).slices.getD ((s.launch 0).priority - 1) 0 ≠ 0) := by decide +kernel
/-- A launch of level 2 waits for the core that holds a gang of level 1, whose record fits the save region. -/
def withLower : State :=
  let s := withCtx (fun c => { c with saveBase := 0x1000000, saveSize := 0x1000000 }) (withLaunch fun n => { n with priority := 1 })
  let n := s.launch 0
  { s with launches := s.launches ++ [{ n with priority := 2, gangs := n.gangs.map fun g => { g with st := .waiting, blocks := [] } }] }
theorem test_hyp_LaunchEvents_rounds_lower :
    (let s := withLower
     let n := s.launch 1
     s.dev.stage == 3 && s.blocks.all (fun k => k.st != .swapped) && s.waitingGangs == [(1, 0)] && (s.gang 1 0).st == .waiting && n.hint == 0 && n.priority == 2 &&
     (gangCores n (s.gang 1 0)).map (·.2) == [0] && !s.roomOn n 0 && (s.onCore 0).map (fun k => (k.launch, k.gang, k.st)) == [(0, 0, .resident)] &&
     (s.onCore 0).all (fun k => s.levelOfBlock k == 1) && (s.gang 0 0).st == .placed && !(s.gang 0 0).stopReq && (s.gangPlaces 0 0).isSome && s.roomAmong [] n) = true ∧
    withLower.acceptAll = withLower := by decide +kernel
theorem test_hyp_LaunchEvents_rounds_queues : (withWaiting id id).acceptAll = withWaiting id id := by decide +kernel
/-- The only gang is done; the launch counts at an address, or nowhere. -/
def withFinished (ca : DWord) : State := withLaunch fun n => { n with caddr := ca, gangs := n.gangs.map fun g => { g with st := .done } }
theorem test_hyp_LaunchEvents_completions :
    (let s := withFinished 0
     0 < s.launches.length ∧ (s.launch 0).done = false ∧ (∀ z ∈ (s.launch 0).gangs, z.st = .done) ∧ s.launchQuiet 0 = true ∧ (s.launch 0).graph = none ∧
     s.peerReqs = [] ∧ s.memGood = true ∧ (s.launch 0).caddr = 0) ∧
    (let s := withFinished 0x20000
     s.launchQuiet 0 = true ∧ (s.launch 0).caddr = 0x20000 ∧ (s.engineKeys 8 (s.ctx 0) 0x20000 false 2 8).toOption = some (span 0x20000 8) ∧
     (s.engineKeys 8 (s.ctx 0) 0x20000 true 2 8).toOption = some (span 0x20000 8)) ∧
    (let s := withFinished 0x80000000
     s.launchQuiet 0 = true ∧ (s.launch 0).graph = none ∧ (s.launch 0).caddr ≠ 0 ∧ (s.translate 8 (s.ctx 0) (s.launch 0).caddr true false).toOption = none) := by decide +kernel
theorem test_hyp_LaunchEvents_dies :
    (let s := withDev (fun d => { d with unstable := [0], granted := [(0, 3)] })
     0 ∈ s.dev.unstable ∧ 1 ∉ s.dev.unstable ∧
     ((s.blocks.filter fun k => k.die == 0 && (k.st == .resident || k.st == .swapped)).map fun k => (s.launch k.launch).hint).foldl max 0 < s.grantedOf 0) := by
  decide +kernel
/-- The only wave waits for a counter, and the context has a save region and a short swap time. -/
def withSwap : State :=
  withCtx (fun c => { c with swapUs := 5, saveBase := 0x1000000, saveSize := 0x1000000 })
    (withLaunch (fun n => { n with arrays := false, granules := 1 }) (waiting 1 monitor0))
theorem test_hyp_LaunchEvents_swaps :
    (let s := withSwap
     s.swappable 0 = true ∧ (s.blocks.all fun j => !j.coming) = true ∧ (s.wave 0 0).outst = [] ∧ (s.core (s.block 0).core).arb = [] ∧ (s.block 0).savedArb = [] ∧ s.openBatches = [] ∧
     (s.placeRecords 0 false [0] (s.savedIn 0)).map (fun l => l.map fun x => (x.1, x.2.1)) = some [(0, 0)]) ∧ base.swappable 0 = false := by decide +kernel
/-- Its gang is asked to stop, with a place for its record; the wave has given up its registers. -/
def withStop : State :=
  withBlock (fun k => { k with waves := k.waves.map fun w => { w with octets := 0 } })
    (withLaunch (fun n => { n with gangs := n.gangs.map fun g => { g with stopReq := true, places := [(0, 0, 0x10000)] } }) withSwap)
theorem test_hyp_LaunchEvents_stops :
    (let s := withStop
     let k := s.block 0
     (s.gang 0 0).st = .placed ∧ (s.gang 0 0).stopReq = true ∧ s.gangStopped 0 0 = true ∧ (s.gang 0 0).blocks = [0] ∧ 0 < s.blocks.length ∧ k.launch = 0 ∧
     0 < (s.launch 0).gangs.length ∧ (s.wave 0 0).outst = [] ∧ (s.core k.core).arb = [] ∧ (s.core k.core).copies = [] ∧ s.openBatches = [] ∧
     (s.launch 0).arrays = false ∧ k.st = .resident ∧ (s.blocks.all fun j => !j.coming) = true ∧ (s.gang 0 0).places = [(0, 0, 0x10000)]) ∧ (base.gang 0 0).stopReq = false := by decide +kernel
/-- The record of that stop fits its place. -/
theorem test_hyp_LaunchEvents_stops_record :
    (let s := withStop
     ((s.modBlock 0 fun k => { k with waves := k.waves.map Wave.stop, savedArb := [], st := .preempted, saved := some { scratch := [] }, coming := false }).saveRecord 0 1).length ≤ 0x10000) := by
  decide +kernel
theorem test_hyp_LaunchEvents_restores :
    (let z : Saved := { scratch := [(4095, 7)] }
     let s := withBlock (fun k => { k with restoring := true, saved := some z }) (withLaunch fun n => { n with arrays := false, granules := 1 })
     (s.gang 0 0).blocks = [0] ∧ 0 < s.blocks.length ∧ (s.block 0).restoring = true ∧ (s.block 0).saved = some z ∧ (s.block 0).savedArb = [] ∧ z.copies = [] ∧
     (s.core 0).copies.length ≤ 32 ∧ (s.core 0).arb.length ≤ 32 ∧ s.monitors = [] ∧ (s.launch 0).arrays = false ∧ (s.launch 0).graph = none ∧ 4095 < 4096 * (s.launch 0).granules ∧ swf 0 z.scratch = true ∧
     (s.block 0).waves.map (fun v => (v.b, v.a.st)) = [(none, .ready)]) := by decide +kernel
theorem test_hyp_LaunchEvents_hangs :
    ([ArmSt.waitge 0x20000 0x20000 1 none, .waitge 0x20000 0x20000 1 (some 0), .fwait 0 0 0x20000 0, .barw 0 0, .claim 1 2, .parked].all fun st =>
      let s := withCtx (fun c => { c with hang := 5 }) (withWave fun w =>
        { w with a := { w.a with st := st, waited := 5000000 }, outst := if st = .parked then [{ id := 1, owner := 0, kind := .recv 0 2, eff := {} }] else [] })
      decide ((s.ctx (s.launch (s.block 0).launch).ctx).hang ≠ 0 ∧ (s.block 0).st = .resident ∧ (s.wave 0 0).done = false ∧
        (s.wave 0 0).waitsNow false = true ∧ 5 * 1000000 ≤ ((s.wave 0 0).arm false).waited ∧
        s.participantHalted 0 0 false = false ∧ ((s.wave 0 0).arm false).st = st)) = true := by decide +kernel
/-- A command block at the control block's offset 128: SEQ 1, DONE 0, launch 0 of queue 0, gang, block and wave 0, an OP. -/
def withCommand (op : Nat) : State :=
  (withWave fun w => { w with halted := true }).putBytes none
    (cellsAt 128 (leBytes 8 1 ++ leBytes 8 0 ++ leBytes 14 0 ++ [BitVec.ofNat 8 op] ++ leBytes 1 0 ++ leBytes 8 0x10000))
theorem test_hyp_LaunchEvents_commands : ([1, 2, 3].all fun op =>
    let s := withCommand op
    let c := s.ctx 0
    let l := ((s.ctxLoad c (c.ccb + 128) 64).toOption).getD []
    decide (c.live = true ∧ field l 0 8 ≠ field l 8 8 ∧ s.launchNamed 0 (BitVec.ofNat 32 (field l 16 4)) (field l 20 1) = some 0 ∧ field l 30 1 = op ∧
      s.memGood = true ∧ s.waveNamed 0 (field l 24 4) (field l 28 1) (field l 29 1) = some (0, 0) ∧ (s.wave 0 0).done = false ∧ (s.wave 0 0).halted = true ∧
      (s.wave 0 0).b = none) && (s.ctxStore c (c.ccb + 168) (leBytes 4 0)).isOk && (s.ctxStore c (c.ccb + 136) (leBytes 8 1)).isOk) = true := by decide +kernel
/-- A shootdown of one page is asked for, or none. -/
def withShootdown (seq : Nat) : State := base.putBytes none (cellsAt 64 (leBytes 8 seq ++ leBytes 8 0 ++ leBytes 8 0x20000 ++ leBytes 8 1))
theorem test_hyp_LaunchEvents_shootdowns :
    ([0, 1].all fun n =>
      let s := withShootdown n
      let c := s.ctx 0
      let l := ((s.ctxLoad c (c.ccb + 64) 64).toOption).getD []
      decide (0 < s.ctxs.length ∧ c.live = true ∧ c.shootPending = false ∧ s.memGood = true ∧ (field l 0 8 = field l 8 8 ↔ n = 0) ∧ (l.drop 32).all (· == 0) = true ∧
        field l 16 8 % 4096 = 0 ∧ canonical (BitVec.ofNat 64 (field l 16 8)) = true)) = true ∧
    (let s := withCtx fun c => { c with shootPending := true, shootSeq := 1 }
     (s.ctx 0).shootPending = true ∧ s.atomReqs = [] ∧ s.sumac = [] ∧ s.peerReqs = [] ∧ ((s.armsIn 0 fun _ => true).all fun u => (s.arm u).st == .ready) = true ∧ s.monitors = [] ∧ s.memGood = true ∧
     (s.engineKeys 8 (s.ctx 0) ((s.ctx 0).ccb + 72) true 2 8).toOption = some (span 72 8)) ∧
    (base.ctx 0).notifyDue = false ∧
    (let s := (withCtx fun c => { c with notifyDue := true }).putBytes none (cellsAt 40 (leBytes 8 0x20000 ++ leBytes 4 5))
     let l := ((s.ctxLoad (s.ctx 0) (s.ctx 0).ccb 64).toOption).getD []
     (s.ctx 0).notifyDue = true ∧ field l 40 8 ≠ 0 ∧ s.memGood = true ∧
     (s.engineKeys 8 (s.ctx 0) (BitVec.ofNat 64 (field l 40 8)) true 2 4).toOption = some (span 0x20000 4)) := by decide +kernel

/-- A mailbox command waits, its argument block at host address 0. -/
def withBox (cmd stage : Nat) (a : List Byte) (s : State := base) : State :=
  (withDev (fun d => { d with mbSeq := 1, mbCmd := BitVec.ofNat 64 cmd, stage := stage }) s).putBytes none (cellsAt hostBit a)
def boxOk (s : State) (cmd : Nat) (stages : List Nat) : Bool :=
  s.dev.powered && s.dev.mbSeq != s.dev.mbDone && s.dev.mbCmd.toNat == cmd && stages.contains s.dev.stage && decide (s.dev.mbArg.toNat + 64 ≤ 2 ^ 56)
theorem test_hyp_SetUpAndMailbox_contexts :
    base.dev.stage = 3 ∧ State.reset.dev.stage ≠ 3 ∧ (7 < 2 ^ 32 ∧ 4095 < 4096 ∧ (∀ c ∈ base.ctxs, c.live = true → c.asid ≠ 4095 ∧ c.number ≠ 7) ∧
    (0x5000#64).toNat % 4096 = 0 ∧ 0x5000#64 = ((0x5000#64).setWidth 57).signExtend 64 ∧ 0x1000 % 4096 = 0 ∧
    vdiesOk base.dev.dieEn [0x80, 0x87, 0, 0, 0, 0, 0, 0] = true ∧ 0x1000 % 4096 = 0 ∧ 0x1000 + 0x1000 ≤ base.memSize ∧ (List.replicate 7 1000).length = 7 ∧ [0, 0, 0, 0, 0, 0, 65535].length = 7) ∧
    (base.ctx 0).live = true ∧ (withLaunch (fun n => { n with done := true })).launches.all (fun n => n.done) = true ∧
    ((withCtx fun c => { c with live := false }).ctx 0).live = false := by decide +kernel
theorem test_hyp_SetUpAndMailbox_windows :
    63 < 64 ∧ windowLegal 0x50000000 0x8003000000001000 0 0 = true ∧ 1048575 < 2 ^ 20 ∧ base.dev.number ∈ [0, 5] ∧ base.dev.groups.length < 64 ∧ 2 ^ 40 ≤ 2 ^ 40 ∧
    (let w0 : DWord := 0x20000
     let w1 : DWord := 0x0000000A01000000
     w1.toNat < 2 ^ 40 ∧ w0 = (w0.setWidth 57).signExtend 64 ∧ w1.toNat / 2 ^ 32 % 256 = 10 ∧ w0.toNat % 2 = 0 ∧ w1.toNat % 2 ^ 32 = 2 ^ 24 ∧
     2 ∈ (withColl 1).dev.groups.map (·.1) ∧ (0x0000000100000002 : DWord).toNat % 2 ^ 32 = 2 ∧ 1 ≤ (0x0000000100000002 : DWord).toNat / 2 ^ 32 ∧ (8 : DWord).toNat % 8 = 0) ∧
    base.dev.stage = 3 ∧ base.memGood = true ∧ 0x20000 + 1 ≤ base.memSize ∧ base.memSize < base.memSize + 1 := by decide +kernel
/-- An image of one port and no channel at 0x30000 is registered; one without ports is not. -/
def withImage (ports : Nat) : State :=
  base.putBytes none (cellsAt 0x30000 (leBytes 2 ports ++ leBytes 6 0 ++ leBytes 8 0x40000) ++ cellsAt 0x30040 [0, 1, 2])
theorem test_hyp_SetUpAndMailbox_graphs :
    (let s := withImage 1
     (s.ctx 0).live = true ∧ s.graphs.length < (s.registerGraph 0 0x30000 none []).graphs.length) ∧
    (let s := withImage 0
     let l := ((s.ctxLoad (s.ctx 0) 0x30000 64).toOption).getD []
     l.length = 64 ∧ s.memGood = true ∧ field l 0 2 = 0) ∧
    (let s := (withImage 1).putBytes none (cellsAt 0x30020 [1])
     field (((s.ctxLoad (s.ctx 0) 0x30000 64).toOption).getD []) 32 8 ≠ 0) := by decide +kernel
theorem test_hyp_SetUpAndMailbox_start :
    (let s := withBox 2 0 (leBytes 8 64 ++ leBytes 8 (2 ^ 26 - 8) ++ leBytes 8 8)
     let a := s.bytesAt hostBit 64
     boxOk s 2 [0] = true ∧ field a 8 8 + field a 16 8 ≤ 2 ^ 26 ∧ field a 0 8 + field a 16 8 ≤ 2 ^ 56 ∧ s.dev.failCode ≠ 1) ∧
    (let s := withBox 3 2 [1]
     boxOk s 3 [0, 1, 2, 3] = true ∧ ((s.bytesAt hostBit 64).drop 1).all (· == 0) = true ∧ field (s.bytesAt hostBit 64) 0 1 = 1) ∧
    (let s := withBox 3 3 [0] (withLaunch fun n => { n with done := true })
     boxOk s 3 [0, 1, 2, 3] = true ∧ s.openLaunches = [] ∧ field (s.bytesAt hostBit 64) 0 1 = 0 ∧ s.dev.slot = []) := by decide +kernel
/-- The same image is legal, its words and its table can be reached, and nothing cached or changed touches them. -/
theorem test_hyp_SetUpAndMailbox_graph :
    (let s := withImage 1
     let l := s.bytesAt 0x30000 80
     imageOk l && s.placeOk none [] 1 && decide (l.length = 80) && field l 0 2 == 1 && field l 2 2 == 0 && field l 32 8 == 0 && decide (field l 40 8 ≤ 2 ^ field l 24 1) &&
     (s.engineKeys 8 (s.ctx 0) 0x30000 false (64 / 4096 + 2) 64).toOption == some (span 0x30000 64) && (s.engineKeys 8 (s.ctx 0) 0x30000 false (80 / 4096 + 2) 80).toOption == some (span 0x30000 80) &&
     (s.engineKeys 8 (s.ctx 0) (0x30000 + 32) true (8 / 4096 + 2) 8).toOption == some (span 0x30020 8) && (s.engineKeys 8 (s.ctx 0) (BitVec.ofNat 64 (field l 8 8)) true (128 / 4096 + 2) 128).toOption == some (span 0x40000 128) &&
     s.memGood && decide (0x40000 + 128 ≤ peerBit) &&
     (let ports : List Port := [{ depth := 0, plen := 1, log2e := 2, inbox := 0, icap := 0 }]
      !identityCycle ports [] [summariesFrom ports [] 0] && (summariesFrom ports [] 0).all fun z => decide (z.length ≤ 4))) = true ∧
    TablesSettled (withImage 1) ((withImage 1).ctx 0) (fun va => va = 0x40000) (fun a => 0x30020 ≤ a ∧ a < 0x30028) :=
  ⟨by decide +kernel, tables_settled [0x40000] 0x30020 0x30028 (by decide +kernel) (fun va h => by simp [h]) (fun _ h => h)⟩
/-- IMAGE_WRITE asked again while in progress, and at its end; RESTART with a reserved byte, in stage 3 with a launch open, stopped and held or not, with
an image or none. -/
theorem test_hyp_SetUpAndMailbox_jobs :
    (let job := fun (cmd : Nat) (stopped : Bool) (a : List Byte) (s : State) => withDev (fun d => { d with job := some { cmd := cmd, seq := 1, args := a, stopped := stopped } }) s
     let idle := withDev fun d => { d with stage := 0, failCode := 1 }
     let a := leBytes 8 256 ++ leBytes 8 0 ++ leBytes 8 8 ++ leBytes 40 0
     let again := job 2 false a (withDev (fun d => { d with mbSeq := 2 }) (withBox 2 0 a))
     boxOk again 2 [0] && (again.dev.job.map (·.seq)) == some 1 && decide (again.dev.mbSeq = 2) &&
     (let s := (job 2 false a idle).putBytes none (cellsAt (hostBit + 256) [1])
      s.dev.mbSeq == s.dev.mbDone && decide (field a 8 8 + field a 16 8 ≤ 2 ^ 26) && s.dev.failCode == 1 && !s.dev.hold && s.byteAt (hostBit + 256) == 1) &&
     boxOk (withBox 2 1 a) 2 [1] && boxOk (withBox 2 0 (leBytes 8 0 ++ leBytes 8 (2 ^ 26) ++ leBytes 8 1)) 2 [0] &&
     boxOk (withBox 3 3 [2]) 3 [3] && boxOk (withBox 3 3 [0, 1]) 3 [3] && (withBox 3 3 [0]).openLaunches == [0] &&
     (job 3 false [0] (withLaunch fun n => { n with done := true })).openLaunches.isEmpty &&
     [[], [(0, 1)]].all fun slot => [false, true].all fun hold =>
       let s := job 3 true [0] (withDev (fun d => { d with hold := hold, slot := slot }) idle)
       (s.dev.job.map fun j => (j.cmd, j.stopped)) == some (3, true) && s.dev.hold == hold && s.dev.slot == slot) = true := by decide +kernel
theorem test_hyp_SetUpAndMailbox_refusals :
    (base.ctxNumbered 9 = none ∧ boxOk (withBox 27 3 (leBytes 4 9)) 27 [3] = true ∧ boxOk (withBox 29 3 (leBytes 4 0 ++ [3])) 29 [3] = true ∧
     boxOk (withBox 26 3 []) 26 [3] = true ∧ base.dev.dump = false ∧ boxOk (withBox 1 0 []) 1 [0] = true ∧ boxOk (withBox 6 0 []) 6 [0] = true ∧
     (withBox 30 3 [8, 64]).bytesAt hostBit 2 = [8, 64]) ∧ (base.launch 0).done = false ∧ (base.launch 0).ctx = 0 ∧ (base.ctx 0).live = true := by decide +kernel
theorem test_hyp_SetUpAndMailbox_limits :
    (let s := withBox 4 3 (leBytes 8 8 ++ leBytes 8 0x000001F400640032)
     let a := s.bytesAt hostBit 64
     let v : DWord := BitVec.ofNat 64 (field a 8 8)
     boxOk s 4 [0, 1, 2, 3] = true ∧ field a 0 8 = 8 ∧ (v.extractLsb' 0 16).toInt < (v.extractLsb' 16 16).toInt ∧
     (v.extractLsb' 16 16).toInt < (v.extractLsb' 32 16).toInt ∧ (v.extractLsb' 32 16).toInt ≤ 0x1F4) ∧
    (let s := withBox 5 3 (leBytes 8 (2 ^ 32 + 1000 * 2 ^ 16 + 4000))
     let p := field (s.bytesAt hostBit 64) 0 8
     boxOk s 5 [3] = true ∧ 1000 ≤ p % 2 ^ 16 ∧ p % 2 ^ 16 ≤ 4000 ∧ 1000 ≤ p / 2 ^ 16 % 2 ^ 16 ∧ p / 2 ^ 16 % 2 ^ 16 ≤ p % 2 ^ 16) := by decide +kernel
theorem test_hyp_SetUpAndMailbox_debugging :
    (let s := withBox 26 3 (leBytes 8 256 ++ leBytes 8 0 ++ leBytes 8 16) (withDev fun d => { d with dump := true, dumpMem := List.replicate 16 1 })
     let a := s.bytesAt hostBit 64
     boxOk s 26 [3] = true ∧ s.dev.dump = true ∧ field a 8 8 + field a 16 8 ≤ 2 ^ 26 ∧ (s.hostPut (field a 0 8) (slice s.dev.dumpMem (field a 8 8) (field a 16 8))).isSome = true) ∧
    (let s := withBox 27 3 (leBytes 8 (2 ^ 32) ++ leBytes 8 0x10001)
     let a := s.bytesAt hostBit 64
     boxOk s 27 [3] = true ∧ s.ctxNumbered (field a 0 4) = some 0 ∧
     ((List.range 4).all fun i => BitVec.ofNat 64 (field a (8 + 8 * i) 8) &&& 0xFE00000000000002#64 == 0#64) = true) ∧
    (let s := withBox 29 3 (leBytes 8 (2 * 2 ^ 32) ++ leBytes 8 0x20000)
     let a := s.bytesAt hostBit 64
     boxOk s 29 [3] = true ∧ s.ctxNumbered (field a 0 4) = some 0 ∧ field a 4 1 ≤ 2) ∧
    (let s := withBox 28 3 (leBytes 8 256 ++ leBytes 8 4)
     let a := s.bytesAt hostBit 64
     boxOk s 28 [3] = true ∧ (s.hostPut (field a 0 8) ((s.collectorAll.take (min s.collectorAll.length (field a 8 8))).map CollRec.bytes).flatten).isSome = true) ∧
    (let s := withBox 30 3 ([7, 63, 2, 1, 31, 1] ++ leBytes 2 0)
     boxOk s 30 [3] = true ∧ monOk s.dev.dieEn (s.bytesAt hostBit 64) = true) ∧
    (let s := withBox 31 3 ([7, 63] ++ leBytes 6 0 ++ leBytes 8 256)
     let a := s.bytesAt hostBit 64
     boxOk s 31 [3] = true ∧ field a 0 1 < 8 ∧ s.dev.dieEn.getLsbD (field a 0 1) = true ∧ field a 1 1 < 64 ∧ (s.hostPut (field a 8 8) (leBytes 144 0)).isSome = true) := by
  decide +kernel
theorem test_hyp_DeviceEvents_dies :
    (base.block 0).die = 0 ∧ (base.block 0).st ≠ .done ∧ 0 < base.blocks.length ∧ 7 < 8 ∧ 8 ≤ 8 ∧
    (let s := withDev fun d => { d with stage := 2 }
     s.dev.powered = true ∧ s.dev.stage = 2 ∧ 5 ≤ 7) ∧ base.dev.powered = true ∧ base.dev.stage ≠ 2 ∧ (0x8000000#64).getLsbD 27 = true ∧
    (let v := 0x000001F400640032#64
     (v.extractLsb' 0 16).toInt < (v.extractLsb' 16 16).toInt ∧ (v.extractLsb' 16 16).toInt < (v.extractLsb' 32 16).toInt ∧ (v.extractLsb' 32 16).toInt ≤ 0x1F4) ∧
    ¬ ((0#64).extractLsb' 0 16).toInt < ((0#64).extractLsb' 16 16).toInt ∧ 0x2200 = 0x2000 + 64 * 8 ∧ (∀ die, die ≤ 8 → 0x3000 ≠ 0x2000 + 64 * die) ∧
    1000 ≤ (0xE10#64).toNat % 2 ^ 16 ∧ (0xE10#64).toNat % 2 ^ 16 ≤ 4000 ∧ (0xE10#64).toNat / 2 ^ 16 % 2 ^ 16 = 0 := by decide +kernel
theorem test_hyp_DeviceEvents_temperature :
    base.dev.powered = true ∧ base.sensorThere 0 15 = true ∧ base.sensorThere 8 4 = false ∧ base.sensorThere 9 15 = true ∧
    (let s := withDev fun d => { d with sensors := [(0, (true, 400)), (288, (true, 60))] }
     (0 < 8 ∧ s.dev.dieEn.getLsbD 0 = true) ∧ State.tj s 0 < s.critOf 0 ∧ s.stackHot 0 = false ∧ s.stackHot 1 = false ∧ s.dieHot 0 = false ∧ ((s.thrOf 0).extractLsb' 16 16).toInt > s.tj 0) ∧
    (let s := withDev fun d => { d with sensors := [(0, (true, 480)), (288, (true, 60))] }
     s.dieHot 0 = true ∧ ((s.thrOf 0).extractLsb' 16 16).toInt ≤ s.tj 0 ∧ s.stackHot (2 * s.hostDie) = false ∧ sget (false, (0 : Half)) s.dev.sensors 288 = (true, 60)) ∧
    (300#16).toInt < base.critOf (15 / 2) := by decide +kernel
/-- Stage 1 with a header that is none; a throttled die and the control die; the points that a rise may raise. -/
theorem test_hyp_DeviceEvents_stages :
    (let s := withDev fun d => { d with stage := 1, slot := [(0, 1)] }
     s.dev.stage = 1 ∧ s.imageCode = 2) ∧
    (let s := withDev fun d => { d with slot := [(0, 0x49), (1, 0x4B), (2, 0x46), (3, 0x57), (8, 1)] }
     s.imageHeaderOk = true ∧ s.dev.slot ≠ []) ∧
    (let s := withDev fun d => { d with sensors := [(0, (true, 440)), (256, (true, 440))], point := [(0, 3), (1, 1)] }
     ((s.thrOf 0).extractLsb' 16 16).toInt ≤ s.tj 0 ∧ ((s.thrOf 8).extractLsb' 16 16).toInt ≤ s.tj 8 ∧ ¬ s.pointOf 0 ≤ 1 ∧ s.pointOf 1 ≤ 1) ∧
    (let s := withDev fun d => { d with sensors := [(0, (true, 60)), (256, (true, 60))], point := [(0, 1)], granted := [(0, 3)] }
     s.pointOf 0 < s.grantedOf 0 ∧ s.warm 0 = false ∧ s.warm 8 = false ∧ 0 ∉ s.dev.capped) ∧
    (let s := withDev fun d => { d with sensors := [(289, (true, 30))] }
     sget (false, (0 : Half)) s.dev.sensors 289 = (true, 30)) ∧ ((base.sensorThere 0 15 = true) ∧ (sget (false, (0 : Half)) base.dev.sensors 0).1 = false) := by decide +kernel
/-- RATE at its least value and below it. -/
theorem test_hyp_DeviceEvents_steering : 8 ≤ 8 ∧ 0x3FEF9DB2 ≤ (0x3FEF9DB2#32).toNat ∧ ¬ 0x3FEF9DB2 ≤ (0x3FEF9DB1#32).toNat := by decide
theorem test_hyp_DeviceEvents_power :
    base.ballastGangs = [] ∧ base.dev.powered = true ∧
    (let s := withDev fun d => { d with overCap := true, point := [(0, 3)] }
     s.dev.overCap = true ∧ s.ballastGangs = []) ∧ base.dev.overCap = false ∧ base.dev.underCap = false ∧
    (let s := withDev fun d => { d with underCap := true, capped := [0], granted := [(0, 3)], point := [(0, 1)], sensors := [(0, (true, 60)), (256, (true, 60))] }
     s.dev.underCap = true ∧ s.dev.capped.Nodup ∧ s.pointOf 0 < s.grantedOf 0 ∧ s.warm 0 = false ∧ s.warm 8 = false) ∧
    (let s := withDev fun d => { d with units := [(63, { src := 2, en := true })] }
     (sget {} s.dev.units 63 : MonUnit).src = 2 ∧ (sget {} s.dev.units 63 : MonUnit).en = true ∧ 63 < 64) := by decide +kernel

/-! ### Decoding, memory and the step -/

theorem test_hyp_EncodeDecode : (Instr.tadv true 9 8 2 1 1 3).wf = true ∧ encode (.tadv true 9 8 2 1 1 3) = some [0xEC090806, 0x00030016] := by decide
/-- `add v3, v1, v2` stands where the first step fetches; the step goes past it. -/
def loaded : State := State.reset.withFetchWord 32 0x00030102
theorem test_hyp_MemoryStaysCanonical :
    loaded.memWf = true ∧ (match step loaded with | .next t => decide ((t.wave 0 0).a.pc = 0x10004) | _ => false) = true := by decide +kernel
theorem test_hyp_StepRunsDecoded :
    (let t := (loaded.armsOf 0).foldl State.rehomeWake ((loaded.armsOf 0).foldl State.yieldWake
       ((loaded.armsOf 0).foldl State.barWake ((loaded.armsOf 0).foldl State.trapWake loaded)))
     loaded.agenda = [.core 0] ∧ loaded.dev.stage = 3 ∧ t.candidates 0 = [arm0] ∧
     (let s1 := { loaded.modArm arm0 fun a => { a with reason := 0 } with cur := some arm0 }
      s1.memGood = true ∧ (s1.wave 0 0).atRejoin false = false ∧ (s1.wave 0 0).pend = [] ∧ (s1.breakpoint arm0).isNone = true ∧
      (match s1.fetch arm0 with | .ok ws => (decode ws).toOption | .error _ => none) = some (.add false 3 1 2))) := by decide +kernel
theorem test_hyp_StepRunsDecoded_fetch :
    (let s := loaded
     let k := s.block 0
     (s.arm arm0).pc.toNat % 4 = 0 ∧ (s.fetchWord arm0 0).toOption = some 0x00030102 ∧
     ((s.translate (codeSide k.core) (s.ctx (s.launch k.launch).ctx) ((s.arm arm0).pc + BitVec.ofNat 64 (4 * 0)) false true).toOption.map fun x => ((flatPage x).isNone, x.pa)) =
       some (true, 0x10000) ∧ s.badIn 0x10000 4 = false ∧ (s.core k.core).icOld = []) ∧
    (let s := loaded.modArm arm0 fun a => { a with pc := 0x10002 }
     (s.arm arm0).pc.toNat % 4 ≠ 0) := by decide +kernel

/-! ### One step each: the rows of the spec's example tables, and the memory map by hand -/

/-- Register v1 to v3 (pairs from an even number) of lane 0, then one instruction; its result is written where it is outstanding. -/
def ran (mode : Nat) (v : List (Nat × Word)) (k : Sparse DWord) (i : Instr) : Option State :=
  let s := withK k (withV (v.map fun x => (x.1 * 1024, x.2)) (withWave fun w => { w with a := { w.a with mode := BitVec.ofNat 32 mode } }))
  match exec i s with
  | .next t => (match (t.wave 0 0).outst with
    | [] => some t
    | r :: _ => (match exec (.resultWrite 0 0 r.id) t with | .next u => some u | _ => none))
  | _ => none
/-- A register of lane 0 and the flags (R92, R150) after it, raised or on their way. -/
def gives (mode : Nat) (v : List (Nat × Word)) (i : Instr) (r : Nat) : Option (Word × Nat) :=
  (ran mode v [] i).map fun t => ((t.wave 0 0).vreg r 0, (t.wave 0 0).status.toNat % 256 ||| (t.wave 0 0).lateFlags.toNat)
/-- Mode: element type and SAT (R17). -/
def md (et : Nat) (sat : Bool := false) : Nat := 8 * et + (if sat then 2048 else 0)

theorem test_step_add : gives (md 6) [(1, 0x7F), (2, 1)] (.add false 3 1 2) 3 = some (0xFFFFFF80, 0) := by decide +kernel
theorem test_step_add_saturates : gives (md 6 true) [(1, 0x7F), (2, 1)] (.add false 3 1 2) 3 = some (0x7F, 0x20) := by decide +kernel
theorem test_step_sub : gives (md 5) [(1, 3), (2, 5)] (.sub false 3 1 2) 3 = some (0xFFFE, 0) := by decide +kernel
theorem test_step_sub_saturates : gives (md 5 true) [(1, 3), (2, 5)] (.sub false 3 1 2) 3 = some (0, 0x20) := by decide +kernel
theorem test_step_div : gives (md 0) [(1, 0xFFFFFFF9), (2, 2)] (.div false 3 1 2) 3 = some (0xFFFFFFFD, 0) := by decide +kernel
theorem test_step_div_saturates : gives (md 0 true) [(1, 0x80000000), (2, 0xFFFFFFFF)] (.div false 3 1 2) 3 = some (0x7FFFFFFF, 0x20) := by decide +kernel
theorem test_step_rem : gives (md 0) [(1, 0xFFFFFFF9), (2, 2)] (.rem false 3 1 2) 3 = some (0xFFFFFFFF, 0) := by decide +kernel
theorem test_step_rem_by_zero : gives (md 0) [(1, 7), (2, 0)] (.rem false 3 1 2) 3 = some (7, 2) := by decide +kernel
theorem test_step_mulhi : gives (md 1) [(1, 0xFFFFFFFF)] (.mulhi false 3 1 1) 3 = some (0xFFFFFFFE, 0) := by decide +kernel
theorem test_step_mulhi_signed : gives (md 0) [(1, 0xFFFFFFFF)] (.mulhi false 3 1 1) 3 = some (0, 0) := by decide +kernel
theorem test_step_sar : gives (md 0) [(1, 0x80000010), (2, 40)] (.sar false 3 1 2) 3 = some (0xFFFFFFFF, 0) := by decide +kernel
theorem test_step_shr : gives (md 0) [(1, 0x80000010), (2, 40)] (.shr false 3 1 2) 3 = some (0, 0) := by decide +kernel
theorem test_step_rol : gives (md 1) [(1, 0x80000001), (2, 33)] (.rol false 3 1 2) 3 = some (3, 0) := by decide +kernel
theorem test_step_clz : gives (md 4) [(1, 1)] (.clz false 3 1) 3 = some (15, 0) := by decide +kernel
theorem test_step_popc : gives (md 4) [(1, 0xFFFF8000)] (.popc false 3 1) 3 = some (1, 0) := by decide +kernel
theorem test_step_bfx : gives (md 0) [(1, 0xF0A0)] (.bfx false 3 1 8 8) 3 = some (0xFFFFFFF0, 0) := by decide +kernel
theorem test_step_bfi : gives (md 1) [(1, 0xC), (3, 0x12345678)] (.bfi false 3 1 4 4) 3 = some (0x123456C8, 0) := by decide +kernel
/-- The low words of the example of R100: the sum wraps to zero and carries into p1. -/
theorem test_step_addc :
    (ran (md 3) [(0, 0xFFFFFFFF), (1, 0xFFFFFFFF), (4, 1)] [] (.addc false 8 0 4 1)).map (fun t => ((t.wave 0 0).vreg 8 0, (t.wave 0 0).vreg 9 0, ((t.wave 0 0).preg 1).getLsbD 0)) =
      some (0, 0, true) := by decide +kernel
theorem test_step_lea :
    (ran 0 [(7, 0xFFFFFFF0)] [(3, 0x0000004000000100)] (.lea false 12 3 7)).map (fun t => ((t.wave 0 0).vreg 12 0, (t.wave 0 0).vreg 13 0)) = some (0xF0, 0x40) := by
  decide +kernel
theorem test_step_fadd : gives (md 8) [(1, 0x7F7FFFFF)] (.fadd false 3 1 1) 3 = some (0x7F800000, 0x14) := by decide +kernel
theorem test_step_fadd_rtz : gives (md 8 + 256) [(1, 0x7F7FFFFF)] (.fadd false 3 1 1) 3 = some (0x7F7FFFFF, 0x14) := by decide +kernel
theorem test_step_fma : gives (md 8) [(1, 0x3F800001), (3, 0xBF800002)] (.fma false 3 1 1) 3 = some (0x28800000, 0) := by decide +kernel
theorem test_step_fmin : gives (md 8) [(1, 0x7FA00000), (2, 0x40000000)] (.fmin false 3 1 2) 3 = some (0x40000000, 1) := by decide +kernel
theorem test_step_fmin_zeros : gives (md 8) [(1, 0x80000000), (2, 0)] (.fmin false 3 1 2) 3 = some (0x80000000, 0) := by decide +kernel
theorem test_step_fdiv : gives (md 8) [(1, 0x3F800000), (2, 0)] (.fdiv false 3 1 2) 3 = some (0x7F800000, 2) := by decide +kernel
theorem test_step_fsqrt : gives (md 8) [(1, 0xBF800000)] (.fsqrt false 3 1) 3 = some (0x7FC00000, 1) := by decide +kernel
theorem test_step_fsgn : gives (md 8) [(1, 0x40000000), (2, 0x80000000)] (.fsgn false 3 1 2) 3 = some (0xC0000000, 0) := by decide +kernel
theorem test_step_fclass : gives (md 8) [(1, 1)] (.fclass false 3 1) 3 = some (0x20, 0) := by decide +kernel
theorem test_step_frnd : gives (md 8) [(1, 0x40200000)] (.frnd false 3 1) 3 = some (0x40000000, 0x10) := by decide +kernel
theorem test_step_fsin : gives (md 8) [(1, 0x3F000000)] (.fsin false 3 1) 3 = some (0x3F800000, 0) := by decide +kernel
theorem test_step_fcmp :
    (ran (md 8) [(1, 0x7FC00000), (2, 0x3F800000)] [] (.fcmp false 2 1 1 2)).map (fun t => (((t.wave 0 0).preg 1).getLsbD 0, (t.wave 0 0).lateFlags)) = some (false, 1) := by
  decide +kernel
/-- R77 and the table of R73: 2.5 and 3.5 to s32 under rne and rno. -/
theorem test_convert_to_integer :
    ([(0, 0x40200000, 2), (1, 0x40200000, 2), (3, 0x40200000, 3), (5, 0x40200000, 3), (0, 0x40600000, 4), (5, 0x40600000, 3), (2, 0xC0200000, 0xFFFFFFFD)] :
      List (Nat × DWord × Nat)).all (fun x => (convertTo 0 x.1 false false (valueOf 8 false x.2.1)).1.toNat % 2 ^ 32 == x.2.2) = true := by decide +kernel
/-- The example of R87: the tree sum of 2^24, 1, 1 and 3 in lanes 0, 1, 2 and 5. -/
theorem test_wave_reduction :
    (waveReduce 8 0 false 0 32 0b100111#1024 fun i => if i = 0 then 0x4B800000 else if i = 5 then 0x40400000 else 0x3F800000) = (0x4B800002, 16) := by decide +kernel
/-- R136: the branch of one active lane; R138: the return address. -/
theorem test_step_br : (ran 0 [] [] (.br false 0 ⟨false, 1⟩ 0x3FFFFFFC)).map (fun t => (t.arm arm0).pc) = some 0x10008 := by decide +kernel
theorem test_step_br_taken : (ran 0 [] [] (.br false 2 ⟨false, 1⟩ 0x3FFFFFFC)).map (fun t => (t.arm arm0).pc) = some 0xFFF0 := by decide +kernel
theorem test_step_call : (ran 0 [] [] (.call false 20 0x10)).map (fun t => ((t.arm arm0).pc, (t.wave 0 0).kreg 20)) = some (0x10040, 0x10008) := by decide +kernel
/-- The example of R157: a misaligned load enters the handler, fault1 names the address, v4 keeps its value. -/
theorem test_step_ld_traps :
    (ran (md 8) [(4, 0x11111111)] [(2, 0x4000000042)] (.ld false 4 2 0)).map (fun t => ((t.arm arm0).pc, (t.wave 0 0).fault0, (t.wave 0 0).fault1, (t.wave 0 0).vreg 4 0)) =
      some (0x40000, 0x1000000000010000, 0x4000000042, 0x11111111) := by decide +kernel
theorem test_step_ld : (ran (md 6) [] [(2, 0x10003)] (.ld false 4 2 0)).map (fun t => (t.wave 0 0).vreg 4 0) = some 0 := by decide +kernel
theorem test_step_st : (ran (md 4) [(4, 0x12345678)] [(2, 0x20000)] (.st false 2 0 4)).map (fun t => [t.byteAt 0x1FFFF, t.byteAt 0x20000, t.byteAt 0x20001, t.byteAt 0x20002]) =
    some [0, 0x78, 0x56, 0] := by decide +kernel
theorem test_step_sts : (ran (md 8) [(4, 0xAABBCCDD), (5, 0x40)] [] (.sts false 5 1 4)).map (fun t => [t.scrByte 0 0x43, t.scrByte 0 0x44, t.scrByte 0 0x47, t.scrByte 0 0x48]) =
    some [0, 0xDD, 0xAA, 0] := by decide +kernel
theorem test_step_atomic : (ran (md 1) [(4, 0x40), (7, 5), (6, 9)] [] (.atomcScr false 6 4 7)).map (fun t => ((t.wave 0 0).vreg 6 0, t.scrByte 0 0x40)) = some (0, 0) := by
  decide +kernel
theorem test_step_atomic_add : (ran (md 1) [(4, 0x40), (7, 5), (6, 9)] [] (.atomScr false 0 6 4 7)).map (fun t => ((t.wave 0 0).vreg 6 0, t.scrByte 0 0x40)) = some (0, 5) := by
  decide +kernel
/-- R185: lane 0 is taken; arm B has no lane and waits at the next instruction. -/
theorem test_step_bdiv :
    (ran 0 [] [] (.bdiv false ⟨false, 0⟩ 0x10 0x20)).map (fun t => ((t.arm arm0).pc, (t.wave 0 0).b.map (fun a => (a.pc, a.mask)), (t.wave 0 0).stack.map (·.rejoin))) =
      some (0x10040, some (0x1000C, 0), [0x10080]) := by decide +kernel
/-- The barrier example of R204, steps 1 to 3. -/
theorem test_barrier_words : arrive 0 2 = some 0x10002 ∧ arrive 0x10002 3 = none ∧ arrive 0x10002 2 = some 0x100000000 := by decide
theorem test_step_exit : (ran 0 [] [] (.exit false)).map (fun t => ((t.wave 0 0).exited, (t.arm arm0).mask)) = some (1, 0) := by decide +kernel
theorem test_step_vote : (ran 0 [] [(1, 0x100000001)] (.vote false 0 2 ⟨true, 3⟩ 1)).map (fun t => (t.wave 0 0).preg 2) = some 1 := by decide +kernel
theorem test_step_ballot : (ran 0 [] [(1, 0x100000001)] (.ballot false 9 ⟨true, 3⟩ 1)).map (fun t => (t.wave 0 0).kreg 9) = some 0x100000001 := by decide +kernel
theorem test_step_mode : (ran (md 3) [] [] (.mode false 5 0x102)).map (fun t => (t.arm arm0).mode) = some 0x11A := by decide +kernel
theorem test_step_tret : (match exec (.tret false) (withWave fun w => { w with status := 0x121, fault0 := 0x1000000000010004 }) with
    | .next t => decide ((t.arm arm0).pc = 0x10004 ∧ (t.wave 0 0).status = 0x21) | _ => false) = true := by decide +kernel
theorem test_step_claim : (match exec (.claim false 1 2) (withOctets 2 { idx := 1, octets := 4 }) with
    | .next t => decide ((t.wave 0 0).octets = 4 ∧ let k := (t.block 0).endClk
        (k.waves.headD {}).octets = 6 ∧ k.pool = 0 ∧ (k.waves.headD {}).preg 1 = 1) | _ => false) = true := by decide +kernel
theorem test_step_tsum : (ran 0 [] [(1, 0x0001000200030004), (2, 0x0001000100010001)] (.tsum false 3 1 2)).map (fun t => (t.wave 0 0).kreg 3) = some 0x0002000300040005 := by
  decide +kernel
/-- R413: dies 0 and 4, at (0, 0) and (2, 2). -/
theorem test_step_hops : (match exec (.hops false 3 1 2) (withV [(2 * 1024, 1)] (withCtx fun c => { c with vdies := [0x80, 0x84] })) with
    | .next t => decide ((t.wave 0 0).vreg 3 0 = 4) | _ => false) = true := by decide +kernel
/-- R443: a reading at WARN's default, 100 °C, sets WARNED and not THROTTLED. -/
theorem test_step_sensor : (match exec (.sensorReading 0 0 400) (withDev fun d => { d with sensors := [(256, (true, 60))] }) with
    | .next t => decide (t.thrOf 0 = 0x000101D801B00190#64) | _ => false) = true := by decide +kernel

end Sys2Proof.Tests
end

section
/-! PROOFS. Writes of special registers, with what other instructions share: work that changes the issuing arm's wave or block, and a
precise trap at issue. -/
namespace Sys2Proof.Machine

/-! ### Updates of one element -/

theorem upd_upd {α : Type} (l : List α) (i : Nat) (f g : α → α) : upd (upd l i f) i g = upd l i fun x => g (f x) := by
  induction l generalizing i with
  | nil => rfl
  | cons x t ih => cases i <;> simp [upd, ih]

/-- An update that keeps the element it changes keeps the list. -/
theorem upd_eq_self {α : Type} (l : List α) (i : Nat) (f : α → α) (d : α) (h : f (l.getD i d) = l.getD i d) : upd l i f = l := by
  induction l generalizing i with
  | nil => rfl
  | cons x t ih =>
    cases i with
    | zero => exact congrArg (· :: t) h
    | succ n => exact congrArg (x :: ·) (ih n h)

theorem modBlock_modBlock (s : State) (b : Nat) (f g : Block → Block) : (s.modBlock b f).modBlock b g = s.modBlock b fun k => g (f k) := by
  simp only [State.modBlock, upd_upd]

theorem modBlock_eq_self (s : State) (b : Nat) (f : Block → Block) (h : f (s.block b) = s.block b) : s.modBlock b f = s := by
  simp only [State.modBlock, upd_eq_self s.blocks b f noBlock h]

theorem modWave_eq_self (s : State) (b w : Nat) (f : Wave → Wave) (h : f (s.wave b w) = s.wave b w) : s.modWave b w f = s :=
  modBlock_eq_self s b _ (by simp only [Block.modWave, upd_eq_self (s.block b).waves w f { done := true } h])

/-- A change of a wave that another one undoes. -/
theorem modWave_restored (s : State) (b w : Nat) (f g : Wave → Wave) (h : g (f (s.wave b w)) = s.wave b w) :
    (s.modWave b w f).modWave b w g = s := by
  rw [modWave_modWave]
  exact modWave_eq_self s b w _ h

/-- A change of a block that another one undoes. -/
theorem modBlock_restored (s : State) (b : Nat) (f g : Block → Block) (h : g (f (s.block b)) = s.block b) :
    (s.modBlock b f).modBlock b g = s := by
  rw [modBlock_modBlock]
  exact modBlock_eq_self s b _ h

/-! ### Work on the wave or the block of the issuing arm -/

/-- The arm goes on after its work on a field of the wave, in either order. -/
theorem finish_modWave (s : State) (u : Cursor) (len : Nat) (f : Wave → Wave)
    (hf : ∀ v F, (f v).modArm u.armB F = f (v.modArm u.armB F)) :
    s.finish u len (.next (s.modWave u.b u.w f)) = .next ((s.advance u ((s.arm u).pc + BitVec.ofNat 64 len)).modWave u.b u.w f) := by
  unfold State.finish State.advance State.modArm
  simp only [modWave_modWave, hf]
  rfl

/-- The arm goes on after its work on a field of the block, in either order. -/
theorem finish_modBlock (s : State) (u : Cursor) (len : Nat) (f : Block → Block)
    (hf : ∀ k F, (f k).modWave u.w F = f (k.modWave u.w F)) :
    s.finish u len (.next (s.modBlock u.b f)) = .next ((s.advance u ((s.arm u).pc + BitVec.ofNat 64 len)).modBlock u.b f) := by
  unfold State.finish State.advance State.modArm State.modWave
  simp only [modBlock_modBlock, hf]
  rfl

/-! ### Precise traps -/

theorem toNat_append_add {m n : Nat} (x : BitVec m) (y : BitVec n) : (x ++ y).toNat = x.toNat * 2 ^ n + y.toNat := by
  rw [BitVec.toNat_append, ← Nat.shiftLeft_add_eq_or_of_lt y.isLt, Nat.shiftLeft_eq]

/-- R151: the fields of fault0. -/
theorem fault0Of_eq (cause : Nat) (deferred : Bool) (pc : DWord) :
    fault0Of cause deferred pc = BitVec.ofNat 5 cause ++ BitVec.ofBool deferred ++ 0#1 ++ pc.setWidth 57 := by
  have hdef : (BitVec.ofBool deferred).toNat * 2 ^ 58 = bit deferred 58 := by cases deferred <;> rfl
  have hbit : bit deferred 58 ≤ 2 ^ 58 := by cases deferred <;> decide
  apply BitVec.eq_of_toNat_eq
  simp only [fault0Of, toNat_append_add, BitVec.toNat_ofNat, BitVec.toNat_setWidth]
  omega

/-- With no report of a wave on its way there is nothing to deliver. -/
theorem deliverAll_of_quiet (s : State) (b w : Nat) (h : ∀ r ∈ s.reports, ¬ (r.b = b ∧ r.w = w)) : s.deliverAll b w = s := by
  have hne : ∀ r ∈ s.reports, (r.b == b && r.w == w) = false := fun r hr => by
    rw [Bool.eq_false_iff]
    simpa only [ne_eq, Bool.and_eq_true, beq_iff_eq] using h r hr
  have hmine : (s.reports.filter fun r => r.b == b && r.w == w) = [] :=
    List.filter_eq_nil_iff.mpr fun r hr => Bool.eq_false_iff.mp (hne r hr)
  have hrest : (s.reports.filter fun r => !(r.b == b && r.w == w)) = s.reports :=
    List.filter_eq_self.mpr fun r hr => congrArg not (hne r hr)
  simp only [State.deliverAll, hmine, hrest, List.foldl_nil]

theorem writeBound_of_drained (s : State) (b w : Nat) (h : (s.wave b w).outst = []) : s.writeBound b w = s := by
  simp [State.writeBound, h]

/-- R29, R156: where nothing stands in its way, an instruction's own trap enters the handler at once. -/
theorem takeTrap_of_takesTraps {s : State} {u : Cursor} (h : TakesTraps s u) (len : Nat) (x : Trap) :
    s.takeTrap u len x = (s.dropSend u).modWave u.b u.w fun v =>
      v.enter u.armB (fault0Of x.cause false (if x.after then (s.arm u).pc + BitVec.ofNat 64 len else (s.arm u).pc)) x.info
        (s.launch (s.block u.b).launch).handler := by
  have hdrained : ((s.dropSend u).wave u.b u.w).drained = true := by
    show (s.wave u.b u.w).outst.isEmpty = true
    rw [h.drained]; rfl
  have hhnd : ((s.dropSend u).wave u.b u.w).hnd = false := h.running
  have hhandler : (((s.dropSend u).launch ((s.dropSend u).block u.b).launch).handler != 0) = true := bne_iff_ne.mpr h.handler
  have hquiet : (s.dropSend u).deliverAll u.b u.w = s.dropSend u := deliverAll_of_quiet _ _ _ h.quiet
  have hkeep : (s.dropSend u).modWave u.b u.w (fun v => v) = s.dropSend u := modWave_eq_self _ _ _ _ rfl
  unfold State.takeTrap State.enterTrap
  simp only [writeBound_of_drained (s.dropSend u) u.b u.w h.drained, hdrained, Bool.not_true, Bool.false_eq_true, if_false]
  unfold State.trapNow
  simp only [hquiet, hhnd, hhandler, Bool.false_eq_true, if_false, hkeep, Bool.not_false, Bool.and_self, if_true]
  rfl

section
variable {s : State} {u : Cursor} {sw : Bool} {form : Env → Form}

/-- What holds of taking traps holds after the switch marker too. -/
theorem TakesTraps.beginSegment (h : TakesTraps s u) (hb : u.b < s.blocks.length) (hw : u.w < (s.block u.b).waves.length) :
    TakesTraps (s.beginSegment u sw) u := by
  have hwave := wave_modWave_self s (fun w => w.modArm u.armB fun a => { a with dmask := if sw then 0 else a.dmask }) hb hw
  have hblock := block_modWave_self s u.w (fun w => w.modArm u.armB fun a => { a with dmask := if sw then 0 else a.dmask }) hb
  refine ⟨?_, h.quiet, ?_, ?_⟩ <;> unfold State.beginSegment State.modArm
  · rw [hwave]; exact h.drained
  · rw [hwave]; exact h.running
  · rw [hblock]; exact h.handler

/-- The wave in its handler, after the switch marker of the instruction that trapped. -/
def entered (u : Cursor) (sw : Bool) (f0 f1 handler : DWord) (w : Wave) : Wave :=
  (w.modArm u.armB fun a => { a with dmask := if sw then 0 else a.dmask }).enter u.armB f0 f1 handler

/-- R151, R156: a precise trap of an instruction that issues is taken at once. -/
theorem Issues.trapEntered (h : Issues s u sw form) (ht : TakesTraps s u) (len : Nat) (x : Trap) :
    ∃ t, (s.beginSegment u sw).finish u len (.trap x) = .next t ∧
      TrapEntered s t u x.cause false (if x.after then (s.arm u).pc + BitVec.ofNat 64 len else (s.arm u).pc) x.info := by
  have harm := arm_beginSegment (sw := sw) h.block h.wave h.arm
  have hblock : (s.beginSegment u sw).block u.b = _ := block_modWave_self s u.w _ h.block
  generalize hpc : (if x.after then (s.arm u).pc + BitVec.ofNat 64 len else (s.arm u).pc) = pc
  have hclosed : (s.beginSegment u sw).takeTrap u len x =
      (s.dropSend u).modWave u.b u.w (entered u sw (fault0Of x.cause false pc) x.info (s.launch (s.block u.b).launch).handler) := by
    rw [takeTrap_of_takesTraps (ht.beginSegment h.block h.wave), harm, hpc, hblock]
    exact modWave_modWave (s.dropSend u) u.b u.w _ _
  refine ⟨_, congrArg Host.Outcome.next hclosed, ?_⟩
  generalize hhandler : (s.launch (s.block u.b).launch).handler = handler
  have hwave : ((s.dropSend u).modWave u.b u.w (entered u sw (fault0Of x.cause false pc) x.info handler)).wave u.b u.w =
      entered u sw (fault0Of x.cause false pc) x.info handler (s.wave u.b u.w) := wave_modWave_self (s.dropSend u) _ h.block h.wave
  refine ⟨othersKept_modWave _ h.block, rfl, ?_, ?_, ?_, ?_, ?_, ?_, ?_, ?_⟩
  · show Wave.arm (State.wave _ u.b u.w) u.armB = _
    rw [hwave, hhandler]
    show Wave.arm (((s.wave u.b u.w).modArm u.armB _).modArm u.armB _) u.armB = _
    rw [modArm_modArm, Wave.arm_modArm _ _ _ h.arm]
    rfl
  · rw [hwave]
    show Wave.arm (((s.wave u.b u.w).modArm u.armB _).modArm u.armB _) (!u.armB) = _
    rw [modArm_modArm, Wave.arm_modArm_other]
  · rw [hwave]; exact fault0Of_eq _ _ _
  · rw [hwave]; rfl
  · rw [hwave]; rfl
  · rw [hwave]; rfl
  · rw [hwave]; exact ⟨rfl, Wave.modArm_divided _ _ _⟩
  · rw [hwave]; simp only [entered, Wave.enter, Wave.modArm]

/-! ### What an instruction reads, and where its arm goes on -/

/-- R21: an instruction reads the uniform registers as they are when it issues. -/
theorem Issues.envK (h : Issues s u sw form) (ka : KReg) : ((s.beginSegment u sw).env u).k ka = (s.wave u.b u.w).kreg ka.toNat := by
  rw [h.env]; rfl

/-- An instruction that changes a field of the wave: but for that field, only its arm has gone on. -/
theorem Issues.waveWritten (h : Issues s u sw form) (len : Nat) (f : Wave → Wave) (hf : ∀ v F, (f v).modArm u.armB F = f (v.modArm u.armB F)) :
    ∃ t m, (s.beginSegment u sw).finish u len (.next ((s.beginSegment u sw).modWave u.b u.w f)) = .next t ∧
      PcResult s m u sw ((s.arm u).pc + BitVec.ofNat 64 len) ∧ t.wave u.b u.w = f (m.wave u.b u.w) ∧
      ∀ undo : Wave → Wave, undo (f (m.wave u.b u.w)) = m.wave u.b u.w → t.modWave u.b u.w undo = m := by
  refine ⟨_, _, ?_, h.pcResult _, wave_modWave_self _ f ?_ ?_, fun undo => modWave_restored _ _ _ f undo⟩
  · rw [finish_modWave _ _ _ f hf, arm_beginSegment h.block h.wave h.arm]
  · simpa [State.advance, State.beginSegment] using h.block
  · simpa [State.advance, State.beginSegment, State.modArm, modWave_modWave, block_modWave_self s u.w _ h.block] using h.wave

/-- The same, of a field of the block. -/
theorem Issues.blockWritten (h : Issues s u sw form) (len : Nat) (f : Block → Block) (hf : ∀ k F, (f k).modWave u.w F = f (k.modWave u.w F)) :
    ∃ t m, (s.beginSegment u sw).finish u len (.next ((s.beginSegment u sw).modBlock u.b f)) = .next t ∧
      PcResult s m u sw ((s.arm u).pc + BitVec.ofNat 64 len) ∧ t.block u.b = f (m.block u.b) ∧
      ∀ undo : Block → Block, undo (f (m.block u.b)) = m.block u.b → t.modBlock u.b undo = m := by
  refine ⟨_, _, ?_, h.pcResult _, block_modBlock_self _ f ?_, fun undo => modBlock_restored _ _ f undo⟩
  · rw [finish_modBlock _ _ _ f hf, arm_beginSegment h.block h.wave h.arm]
  · simpa [State.advance, State.beginSegment] using h.block

/-! What an arm that has gone on leaves of its wave and block, field by field. -/

theorem PcResult.fault0 {t : State} {pc : DWord} (h : PcResult s t u sw pc) : (t.wave u.b u.w).fault0 = (s.wave u.b u.w).fault0 :=
  (congrArg Wave.fault0 h.went.wave :)
theorem PcResult.fault1 {t : State} {pc : DWord} (h : PcResult s t u sw pc) : (t.wave u.b u.w).fault1 = (s.wave u.b u.w).fault1 :=
  (congrArg Wave.fault1 h.went.wave :)
theorem PcResult.sampctl {t : State} {pc : DWord} (h : PcResult s t u sw pc) : (t.block u.b).sampctl = (s.block u.b).sampctl :=
  (congrArg Block.sampctl h.others.block :)
theorem PcResult.sampbuf {t : State} {pc : DWord} (h : PcResult s t u sw pc) : (t.block u.b).sampbuf = (s.block u.b).sampbuf :=
  (congrArg Block.sampbuf h.others.block :)
theorem PcResult.marks {t : State} {pc : DWord} (h : PcResult s t u sw pc) : (t.block u.b).marks = (s.block u.b).marks :=
  (congrArg Block.marks h.others.block :)

end

/-! ### The values that are written -/

/-- R92: a 1 in bit[6:0] clears. -/
theorem getLsbD_statusWrite (old : Word) (x : DWord) (n : Nat) :
    (old &&& ~~~((x &&& 0x7F#64).setWidth 32)).getLsbD n = (old.getLsbD n && !(decide (n < 7) && x.getLsbD n)) := by
  by_cases hn : n < 32
  · have hmask : ∀ n < 32, (0x7F#64).getLsbD n = decide (n < 7) := by decide
    simp only [BitVec.getLsbD_and, BitVec.getLsbD_not, BitVec.getLsbD_setWidth, hmask n hn, hn, decide_true, Bool.true_and, Bool.and_comm]
  · simp [BitVec.getLsbD_of_ge old n (by omega)]

theorem getLsbD_fault0Write (x : DWord) (n : Nat) :
    (x &&& ~~~(1#64 <<< 57)).getLsbD n = (x.getLsbD n && decide (n ≠ 57)) := by
  by_cases hn : n < 64
  · have hmask : ∀ n < 64, (~~~(1#64 <<< 57)).getLsbD n = decide (n ≠ 57) := by decide
    rw [BitVec.getLsbD_and, hmask n hn]
  · simp [BitVec.getLsbD_of_ge x n (by omega)]

/-- R451: HEAD stays, FAULT is cleared by a 1, EN, PERIOD and MARKS are written. -/
theorem getLsbD_sampctlWrite (old x : DWord) (n : Nat) (hn : n < 64) :
    (sampctlWrite old x).getLsbD n =
      if n ≥ 32 then old.getLsbD n else if n = 17 then old.getLsbD 17 && !x.getLsbD 17
      else (n = 0 || (8 ≤ n && n ≤ 12) || n = 16) && x.getLsbD n := by
  have hhead : ∀ n < 64, (0xFFFFFFFF00000000#64).getLsbD n = decide (n ≥ 32) := by decide
  have hwritten : ∀ n < 64, (0x11F01#64).getLsbD n = (n = 0 || (8 ≤ n && n ≤ 12) || n = 16 : Bool) := by decide
  have hfault : ∀ n < 64, (0x20000#64).getLsbD n = decide (n = 17) := by decide
  simp only [sampctlWrite, BitVec.getLsbD_or, BitVec.getLsbD_and, BitVec.getLsbD_not, hhead n hn, hwritten n hn, hfault n hn]
  by_cases h32 : n ≥ 32
  · have : n ≠ 17 ∧ n ≠ 0 ∧ n ≠ 16 ∧ ¬ n ≤ 12 := by omega
    simp [h32, this]
  · by_cases h17 : n = 17
    · subst h17; simp
    · simp [h32, h17, Bool.and_comm]

theorem sampctlOk_iff (x : DWord) :
    sampctlOk x = true ↔ (x &&& 0xFFFCE0FE#64) = 0 ∧ 6 ≤ x.toNat / 256 % 32 ∧ x.toNat / 256 % 32 ≤ 16 := by
  simp [sampctlOk, BitVec.extractLsb'_toNat, Nat.shiftRight_eq_div_pow, and_assoc]

theorem sampbufOk_iff (x : DWord) : sampbufOk x = true ↔ (x &&& 0xFE00000000000FF0#64) = 0 ∧ x.toNat % 16 ≤ 12 := by
  simp [sampbufOk, BitVec.extractLsb'_toNat]

/-- A write of sampbuf clears HEAD, the upper word of sampctl. -/
theorem and_lowWord (x : DWord) : x &&& 0xFFFFFFFF#64 = (x.setWidth 32).setWidth 64 := by
  have hmask : ∀ n < 64, (0xFFFFFFFF#64).getLsbD n = decide (n < 32) := by decide
  apply BitVec.eq_of_getLsbD_eq
  intro n hn
  simp only [BitVec.getLsbD_and, BitVec.getLsbD_setWidth, hmask n hn, hn, decide_true, Bool.true_and, Bool.and_comm]

/-! ### The instructions -/

section
variable {s : State} {u : Cursor} {sw : Bool} {ka : KReg}

theorem wrsrStatus_result (h : Issues s u sw (kForm [ka])) :
    ∃ t, exec (.wrsrStatus sw ka) s = .next t ∧
      (∀ n, (t.wave u.b u.w).status.getLsbD n =
        ((s.wave u.b u.w).status.getLsbD n && !(decide (n < 7) && ((s.wave u.b u.w).kreg ka.toNat).getLsbD n))) ∧
      PcResult s (t.modWave u.b u.w fun v => { v with status := (s.wave u.b u.w).status }) u sw ((s.arm u).pc + 4) := by
  obtain ⟨t, m, ht, hm, hw, hundo⟩ := h.waveWritten 4
    (fun v => { v with status := v.status &&& ~~~((((s.wave u.b u.w).kreg ka.toNat) &&& 0x7F#64).setWidth 32) }) (fun _ _ => rfl)
  refine ⟨t, ?_, fun n => ?_, ?_⟩
  · rw [← ht, ← h.envK ka]
    show execWrsrStatus sw ka s = _
    rw [execWrsrStatus, h.issue]
    rfl
  · rw [hw, ← hm.flags.status]
    exact getLsbD_statusWrite _ _ n
  · rw [hundo _ (by rw [← hm.flags.status])]
    exact hm

theorem wrsrFault0_result (h : Issues s u sw (kForm [ka])) :
    ∃ t, exec (.wrsrFault0 sw ka) s = .next t ∧
      (∀ n, (t.wave u.b u.w).fault0.getLsbD n = (((s.wave u.b u.w).kreg ka.toNat).getLsbD n && decide (n ≠ 57))) ∧
      PcResult s (t.modWave u.b u.w fun v => { v with fault0 := (s.wave u.b u.w).fault0 }) u sw ((s.arm u).pc + 4) := by
  obtain ⟨t, m, ht, hm, hw, hundo⟩ := h.waveWritten 4
    (fun v => { v with fault0 := (s.wave u.b u.w).kreg ka.toNat &&& ~~~(1#64 <<< 57) }) (fun _ _ => rfl)
  refine ⟨t, ?_, fun n => ?_, ?_⟩
  · rw [← ht, ← h.envK ka]
    show execWrsrFault0 sw ka s = _
    rw [execWrsrFault0, h.issue]
    rfl
  · rw [hw]
    exact getLsbD_fault0Write _ n
  · rw [hundo _ (by rw [← hm.fault0])]
    exact hm

theorem wrsrFault1_result (h : Issues s u sw (kForm [ka])) :
    ∃ t, exec (.wrsrFault1 sw ka) s = .next t ∧ (t.wave u.b u.w).fault1 = (s.wave u.b u.w).kreg ka.toNat ∧
      PcResult s (t.modWave u.b u.w fun v => { v with fault1 := (s.wave u.b u.w).fault1 }) u sw ((s.arm u).pc + 4) := by
  obtain ⟨t, m, ht, hm, hw, hundo⟩ := h.waveWritten 4 (fun v => { v with fault1 := (s.wave u.b u.w).kreg ka.toNat }) (fun _ _ => rfl)
  refine ⟨t, ?_, by rw [hw], ?_⟩
  · rw [← ht, ← h.envK ka]
    show execWrsrFault1 sw ka s = _
    rw [execWrsrFault1, h.issue]
    rfl
  · rw [hundo _ (by rw [← hm.fault1])]
    exact hm

/-- A value of sampctl within its limits is written; any other one traps. -/
theorem execWrsrSampctl_eq (h : Issues s u sw (kForm [ka])) :
    exec (.wrsrSampctl sw ka) s = (s.beginSegment u sw).finish u 4
      (if sampctlOk ((s.wave u.b u.w).kreg ka.toNat) then
        .next ((s.beginSegment u sw).modBlock u.b fun k => { k with sampctl := sampctlWrite k.sampctl ((s.wave u.b u.w).kreg ka.toNat) })
      else .trap illegal) := by
  rw [← h.envK ka]
  show execWrsrSampctl sw ka s = _
  rw [execWrsrSampctl, h.issue]
  rfl

theorem execWrsrSampbuf_eq (h : Issues s u sw (kForm [ka])) :
    exec (.wrsrSampbuf sw ka) s = (s.beginSegment u sw).finish u 4
      (if sampbufOk ((s.wave u.b u.w).kreg ka.toNat) then
        .next ((s.beginSegment u sw).modBlock u.b fun k =>
          { k with sampbuf := (s.wave u.b u.w).kreg ka.toNat, sampctl := k.sampctl &&& 0xFFFFFFFF#64, marks := [] })
      else .trap illegal) := by
  rw [← h.envK ka]
  show execWrsrSampbuf sw ka s = _
  rw [execWrsrSampbuf, h.issue]
  rfl

theorem wrsrSampctl_result (h : Issues s u sw (kForm [ka])) (hok : sampctlOk ((s.wave u.b u.w).kreg ka.toNat) = true) :
    ∃ t, exec (.wrsrSampctl sw ka) s = .next t ∧
      (t.block u.b).sampctl = sampctlWrite (s.block u.b).sampctl ((s.wave u.b u.w).kreg ka.toNat) ∧
      PcResult s (t.modBlock u.b fun b => { b with sampctl := (s.block u.b).sampctl }) u sw ((s.arm u).pc + 4) := by
  obtain ⟨t, m, ht, hm, hw, hundo⟩ := h.blockWritten 4
    (fun k => { k with sampctl := sampctlWrite k.sampctl ((s.wave u.b u.w).kreg ka.toNat) }) (fun _ _ => rfl)
  refine ⟨t, ?_, by rw [hw, hm.sampctl], ?_⟩
  · rw [execWrsrSampctl_eq h, if_pos hok, ht]
  · rw [hundo _ (by rw [← hm.sampctl])]
    exact hm

theorem wrsrSampbuf_result (h : Issues s u sw (kForm [ka])) (hok : sampbufOk ((s.wave u.b u.w).kreg ka.toNat) = true) :
    ∃ t, exec (.wrsrSampbuf sw ka) s = .next t ∧ (t.block u.b).sampbuf = (s.wave u.b u.w).kreg ka.toNat ∧
      (t.block u.b).sampctl = ((s.block u.b).sampctl.setWidth 32).setWidth 64 ∧
      PcResult s (t.modBlock u.b fun b =>
        { b with sampctl := (s.block u.b).sampctl, sampbuf := (s.block u.b).sampbuf, marks := (s.block u.b).marks }) u sw ((s.arm u).pc + 4) := by
  obtain ⟨t, m, ht, hm, hw, hundo⟩ := h.blockWritten 4 (fun k =>
    { k with sampbuf := (s.wave u.b u.w).kreg ka.toNat, sampctl := k.sampctl &&& 0xFFFFFFFF#64, marks := [] }) (fun _ _ => rfl)
  refine ⟨t, ?_, by rw [hw], ?_, ?_⟩
  · rw [execWrsrSampbuf_eq h, if_pos hok, ht]
  · rw [hw, ← hm.sampctl]
    exact and_lowWord _
  · rw [hundo _ (by rw [← hm.sampctl, ← hm.sampbuf, ← hm.marks])]
    exact hm

/-- R153, R451: a refused value raises ILLEGAL_INSTRUCTION. -/
theorem wrsrSampctl_trap (h : Issues s u sw (kForm [ka])) (ht : TakesTraps s u) (hbad : ¬ sampctlOk ((s.wave u.b u.w).kreg ka.toNat) = true) :
    ∃ t, exec (.wrsrSampctl sw ka) s = .next t ∧ TrapEntered s t u 1 false (s.arm u).pc 0 := by
  rw [execWrsrSampctl_eq h, if_neg hbad]
  exact h.trapEntered ht 4 illegal

theorem wrsrSampbuf_trap (h : Issues s u sw (kForm [ka])) (ht : TakesTraps s u) (hbad : ¬ sampbufOk ((s.wave u.b u.w).kreg ka.toNat) = true) :
    ∃ t, exec (.wrsrSampbuf sw ka) s = .next t ∧ TrapEntered s t u 1 false (s.arm u).pc 0 := by
  rw [execWrsrSampbuf_eq h, if_neg hbad]
  exact h.trapEntered ht 4 illegal

end

/-- Settles O23: each write is work on one field of the wave or block, or, for a refused value, a precise trap. -/
theorem specialRegisterWrites : Obligations.SpecialRegisterWrites := by
  unfold Obligations.SpecialRegisterWrites
  intro s u sw ka k w x pc ctlOk bufOk h
  refine ⟨wrsrStatus_result h, wrsrFault0_result h, wrsrFault1_result h, fun hok => ?_,
    fun hok => wrsrSampbuf_result h ((sampbufOk_iff x).mpr hok),
    fun ht => ⟨fun hbad => wrsrSampctl_trap h ht (mt (sampctlOk_iff x).mp hbad), fun hbad => wrsrSampbuf_trap h ht (mt (sampbufOk_iff x).mp hbad)⟩⟩
  obtain ⟨t, ht, hctl, hpc⟩ := wrsrSampctl_result h ((sampctlOk_iff x).mpr hok)
  exact ⟨t, ht, fun n hn => hctl ▸ getLsbD_sampctlWrite k.sampctl x n hn, hpc⟩

end Sys2Proof.Machine
end

section
/-! PROOFS. Decoding of words written out from the encodings: the fields of the base word choose the map by the length that R20 gives its
opcode, and the map's row gives the instruction. -/
namespace Sys2Proof.Machine

/-! ### Which map decodes a word, by its opcode's length (R20) -/

theorem decode_oneWord {w : Word} (x : Base) (hw : Base.ofWord w = x) (hop : x.op.toNat < 0x60) (more : List Word) :
    decode (w :: more) = decodeO x := by
  subst hw
  exact if_pos hop

theorem decode_twoWords {w : Word} (x : Base) (hw : Base.ofWord w = x) (hop : 0x60 ≤ x.op.toNat ∧ x.op.toNat < 0x7C) (l : Word) (more : List Word) :
    decode (w :: l :: more) = decodeL x l := by
  subst hw
  exact (if_neg (Nat.not_lt.mpr hop.1)).trans (if_pos hop.2)

theorem decode_threeWords {w : Word} (x : Base) (hw : Base.ofWord w = x) (hop : 0x7C ≤ x.op.toNat) (l0 l1 : Word) (more : List Word) :
    decode (w :: l0 :: l1 :: more) = decodeLL x l0 l1 := by
  subst hw
  exact (if_neg (by omega)).trans (if_neg (Nat.not_lt.mpr hop))

/-- Settles O56: each base word is split into S, opcode, D, A and B or F (R34), and the row of its map is evaluated. -/
theorem decodeWords : Obligations.DecodeWords := by
  unfold Obligations.DecodeWords
  refine ⟨?add, ?cmp, ?addi, ?fmul, ?br, ?wscan, ?mmac, ?atomPeer, ?tadv, ?movkk⟩
  case add => exact decode_oneWord ⟨false, 0x00, 3, 1, 2⟩ rfl (by decide) []
  case cmp => exact decode_oneWord ⟨false, 0x1C, 0x12, 1, 3⟩ rfl (by decide) []
  case fmul => exact decode_oneWord ⟨true, 0x26, 8, 4, 6⟩ rfl (by decide) []
  case addi => exact decode_twoWords ⟨false, 0x60, 3, 1, 0⟩ rfl (by decide) 0xFFFFFFFB []
  case br => exact decode_twoWords ⟨false, 0x63, 2, 0x0B, 0⟩ rfl (by decide) 0xFFFFFFF0 []
  case wscan => exact decode_twoWords ⟨false, 0x65, 6, 4, 5⟩ rfl (by decide) 0x00A00300 []
  case mmac => exact decode_twoWords ⟨false, 0x6A, 2, 4, 1⟩ rfl (by decide) 0x00000129 []
  case atomPeer => exact decode_twoWords ⟨false, 0x68, 6, 4, 0x80⟩ rfl (by decide) 0x00000702 []
  case tadv => exact decode_twoWords ⟨false, 0x6C, 9, 8, 6⟩ rfl (by decide) 0x00030016 []
  case movkk => exact decode_threeWords ⟨false, 0x7C, 9, 0, 0⟩ rfl (by decide) 0 0x40 []

end Sys2Proof.Machine
end

section
/-! PROOFS. What an instruction that issues samples, and fixed-latency results over the active lanes, in terms of the state before it. -/
namespace Sys2Proof.Machine

/-! ### What an instruction reads after its switch marker -/

theorem need_eq_none {ok : Bool} : need ok = none ↔ ok = true := by
  cases ok <;> simp [need]

/-- R44: a form that passes its checks passes the element-type step. -/
theorem Form.pre_of_check {f : Form} {e : Env} (h : f.check e = none) : f.pre = none := by
  cases hp : f.pre with
  | none => rfl
  | some t => simp [Form.check, hp] at h

section
variable {s : State} {u : Cursor} {sw : Bool} {form : Env → Form}

/-! The switch marker empties the destination mask, which shows in none of these. -/

theorem Issues.env_et (h : Issues s u sw form) : ((s.beginSegment u sw).env u).et = (s.env u).et := by rw [h.env]; rfl
theorem Issues.env_rm (h : Issues s u sw form) : ((s.beginSegment u sw).env u).rm = (s.env u).rm := by rw [h.env]; rfl
theorem Issues.env_sat (h : Issues s u sw form) : ((s.beginSegment u sw).env u).sat = (s.env u).sat := by rw [h.env]; rfl
theorem Issues.env_fz (h : Issues s u sw form) : ((s.beginSegment u sw).env u).fz = (s.env u).fz := by rw [h.env]; rfl
theorem Issues.env_slot (h : Issues s u sw form) (n : SlotNo) : ((s.beginSegment u sw).env u).slot n = (s.env u).slot n := by rw [h.env]; rfl
theorem Issues.env_elem (h : Issues s u sw form) (pair : Bool) (r i : Nat) :
    ((s.beginSegment u sw).env u).elem pair r i = (s.env u).elem pair r i := by rw [h.env]; rfl
theorem Issues.env_word (h : Issues s u sw form) (r : VReg) (i : Nat) : ((s.beginSegment u sw).env u).word r i = (s.env u).word r i := by
  rw [h.env]; rfl
theorem Issues.env_pair (h : Issues s u sw form) : ((s.beginSegment u sw).env u).pair = (s.env u).pair := congrArg isPair h.env_et
theorem Issues.env_get (h : Issues s u sw form) (r : VReg) (i : Nat) : ((s.beginSegment u sw).env u).get r i = (s.env u).get r i := by
  unfold Env.get; rw [h.env_pair, h.env_elem]

/-- A fixed-latency instruction over the active lanes, where what it computes does not depend on the destination mask. -/
theorem Issues.laneResult_of_eq (h : Issues s u sw form) (len : Nat) {pair : Env → Bool} (d : VReg) {f : Env → Nat → DWord × BitVec 8}
    {p : Bool} {g : Nat → DWord × BitVec 8} (hp : pair ((s.beginSegment u sw).env u) = p) (hg : ∀ i, f ((s.beginSegment u sw).env u) i = g i) :
    ∃ t, Machine.issue sw len form (vecBody pair d f) s = .next t ∧ LaneResult s t u sw len d.toNat p g := by
  obtain ⟨t, ht, hr⟩ := h.laneResult len pair d f
  refine ⟨t, ht, ?_⟩
  rwa [hp, funext hg] at hr

/-- A fixed-latency floating instruction of class F whose function does not depend on the mode. -/
theorem Issues.fpOpResult {d : VReg} {src : List VReg} (h : Issues s u sw (vForm clsF d src)) {f : Fmt → List DWord → DWord × BitVec 8}
    {g : Nat → DWord × BitVec 8}
    (hg : clsF (s.env u).et = true → ∀ i, overElems (s.env u).et f (src.map fun r => (s.env u).get r i) = g i) :
    ∃ t, fpOp sw d src (fun _ => f) s = .next t ∧ LaneResult s t u sw 4 d.toNat (s.env u).pair g := by
  have hcls : clsF (s.env u).et = true := by
    rw [← h.env_et]
    exact need_eq_none.mp (Form.pre_of_check h.ok)
  refine h.laneResult_of_eq 4 d h.env_pair fun i => ?_
  simp only [Env.fp, h.env_et, h.env_get]
  exact hg hcls i

end

end Sys2Proof.Machine
end

section
/-! PROOFS. An operation over the elements of a register or pair, bit by bit (R68), and with it the sign operations (R117). -/
namespace Sys2Proof.Machine

/-! ### Elements, bit by bit (R68) -/

/-- R68: element i of elements of w bits. -/
def elemOf (w i : Nat) (x : DWord) : DWord := (x >>> (i * w)) &&& BitVec.ofNat 64 (2 ^ w - 1)

theorem getLsbD_elemOf (w i : Nat) (x : DWord) {k : Nat} (hk : k < w) : (elemOf w i x).getLsbD k = x.getLsbD (i * w + k) := by
  simp only [elemOf, BitVec.getLsbD_and, BitVec.getLsbD_ushiftRight, BitVec.getLsbD_ofNat, Nat.testBit_two_pow_sub_one, hk, decide_true, Bool.and_true]
  by_cases h : k < 64
  · simp [h]
  · simp [BitVec.getLsbD_of_ge x (i * w + k) (by omega)]

/-- Elements put side by side: bit q of the whole is bit q mod w of element q / w. -/
theorem getLsbD_foldl_elems {w : Nat} (hw : 0 < w) (g : Nat → DWord × BitVec 8) (hg : ∀ i k, w ≤ k → (g i).1.getLsbD k = false)
    (n : Nat) {q : Nat} (hq : q < 64) :
    ((List.range n).foldl (fun a i => (a.1 ||| ((g i).1 <<< (i * w)), a.2 ||| (g i).2)) ((0, 0) : DWord × BitVec 8)).1.getLsbD q =
      (decide (q / w < n) && (g (q / w)).1.getLsbD (q % w)) := by
  induction n with
  | zero => simp
  | succ n ih =>
    have hsplit := Nat.div_add_mod' q w
    simp only [List.range_succ, List.foldl_append, List.foldl_cons, List.foldl_nil, BitVec.getLsbD_or, ih, BitVec.getLsbD_shiftLeft, hq,
      decide_true, Bool.true_and]
    rcases Nat.lt_trichotomy (q / w) n with h | h | h
    · have : q < n * w := (Nat.div_lt_iff_lt_mul hw).mp h
      simp [h, this, Nat.lt_succ_of_lt h]
    · have : q - n * w = q % w := by rw [← h]; omega
      have hle : ¬ q < n * w := by rw [← h]; omega
      simp [h, this, hle]
    · have : (n + 1) * w ≤ q := (Nat.le_div_iff_mul_le hw).mp h
      have hfar : w ≤ q - n * w := by rw [Nat.add_mul] at this; omega
      rw [hg n _ hfar, decide_eq_false (Nat.lt_asymm h), decide_eq_false (Nat.not_lt.mpr h), Bool.and_false, Bool.false_and, Bool.or_false]

/-- R68: bit q of an operation over elements. -/
theorem getLsbD_overElems {et n w t : Nat} (hp : packing et = (n, w, t)) (hw : 0 < w) (f : Fmt → List DWord → DWord × BitVec 8)
    (hf : ∀ l k, w ≤ k → (f (fmtOf t) l).1.getLsbD k = false) (ops : List DWord) {q : Nat} (hq : q < 64) :
    (overElems et f ops).1.getLsbD q = (decide (q / w < n) && (f (fmtOf t) (ops.map (elemOf w (q / w)))).1.getLsbD (q % w)) := by
  have := getLsbD_foldl_elems hw (fun i => f (fmtOf t) (ops.map (elemOf w i))) (fun i => hf _) n hq
  unfold overElems
  rw [hp]
  exact this

/-- An operation that raises no flag on elements raises none over them. -/
theorem overElems_flags_eq_zero (et : Nat) (f : Fmt → List DWord → DWord × BitVec 8) (hf : ∀ m l, (f m l).2 = 0) (ops : List DWord) :
    (overElems et f ops).2 = 0 := by
  unfold overElems
  dsimp only
  generalize (packing et).1 = n
  induction n with
  | zero => rfl
  | succ n ih =>
    simp only [List.range_succ, List.foldl_append, List.foldl_cons, List.foldl_nil]
    rw [ih, hf, BitVec.or_self]

/-! ### Sign operations (R117) -/

/-- The sign that operation op gives, of the signs of its operands. -/
def signGiven (op : Nat) (x y : Bool) : Bool :=
  match op with
  | 0 => false
  | 1 => !x
  | _ => y

/-- The top bit of a number below 2^(n + 1). -/
theorem decide_topBit (x n : Nat) : decide (x % 2 ^ (n + 1) ≥ 2 ^ n) = x.testBit n := by
  have hlow : x % 2 ^ n < 2 ^ n := Nat.mod_lt _ (Nat.two_pow_pos n)
  rw [Nat.mod_pow_succ, Nat.testBit_eq_decide_div_mod_eq]
  rcases Nat.mod_two_eq_zero_or_one (x / 2 ^ n) with h | h <;> simp [h, hlow]

/-- A sign operation copies the bits below the sign and gives the sign; no bit lies above it. -/
theorem getLsbD_fpSign (f : Fmt) (hb : f.bits ≤ 64) (op : Nat) (x y : DWord) (k : Nat) :
    (fpSign f op x y).1.getLsbD k =
      if k = f.bits - 1 then signGiven op (x.getLsbD (f.bits - 1)) (y.getLsbD (f.bits - 1)) else decide (k < f.bits - 1) && x.getLsbD k := by
  have htop : f.bits - 1 = f.ew + f.fw := by unfold Fmt.bits; omega
  have hbits : f.bits = f.ew + f.fw + 1 := by unfold Fmt.bits; omega
  have hsign : ∀ v : DWord, decide (v.toNat % 2 ^ (f.ew + f.fw + 1) ≥ 2 ^ (f.ew + f.fw)) = v.getLsbD (f.ew + f.fw) :=
    fun v => decide_topBit v.toNat _
  generalize hs : signGiven op (x.getLsbD (f.bits - 1)) (y.getLsbD (f.bits - 1)) = sg
  have hval : (fpSign f op x y).1 = BitVec.ofNat 64 (x.toNat % 2 ^ (f.ew + f.fw) + signBit f sg) := by
    have hmod : x.toNat % 2 ^ (f.ew + f.fw + 1) % 2 ^ (f.ew + f.fw) = x.toNat % 2 ^ (f.ew + f.fw) :=
      Nat.mod_mod_of_dvd _ (Nat.pow_dvd_pow 2 (Nat.le_succ _))
    subst hs
    rw [htop]
    simp only [fpSign, hbits, Nat.add_sub_cancel, hmod, hsign]
    rfl
  have hlow : x.toNat % 2 ^ (f.ew + f.fw) < 2 ^ (f.ew + f.fw) := Nat.mod_lt _ (Nat.two_pow_pos _)
  have hsum : x.toNat % 2 ^ (f.ew + f.fw) + signBit f sg = 2 ^ (f.ew + f.fw) * sg.toNat + x.toNat % 2 ^ (f.ew + f.fw) := by
    cases sg <;> simp [signBit, Nat.add_comm]
  rw [hval, hsum, htop, BitVec.getLsbD_ofNat, Nat.testBit_two_pow_mul_add _ hlow, Nat.testBit_mod_two_pow, BitVec.testBit_toNat]
  rcases Nat.lt_trichotomy k (f.ew + f.fw) with h | h | h
  · have h64 : k < 64 := by omega
    simp [h, Nat.ne_of_lt h, h64]
  · have h64 : f.ew + f.fw < 64 := by omega
    cases sg <;> simp [h, h64]
  · have habove : sg.toNat.testBit (k - (f.ew + f.fw)) = false :=
      Nat.testBit_lt_two_pow (Nat.lt_of_lt_of_le (Bool.toNat_lt sg) (Nat.pow_le_pow_right (n := 2) (by decide) (show 1 ≤ _ by omega)))
    simp [Nat.ne_of_gt h, Nat.lt_asymm h, habove]

/-- R117: the sign bits of the elements of a type. -/
def signsOf (et : Nat) : DWord :=
  match et with
  | 8 => 0x80000000 | 9 => 0x8000000000000000 | 12 => 0x8000000080000000 | 13 => 0x8000800080008000 | _ => 0x8000
/-- The bits of the elements of a type. -/
def elemBitsOf (et : Nat) : DWord :=
  match et with
  | 8 => 0xFFFFFFFF | 10 => 0xFFFF | 11 => 0xFFFF | _ => 0xFFFFFFFFFFFFFFFF

theorem clsF_iff {et : Nat} : clsF et = true ↔ et ∈ [8, 9, 10, 11, 12, 13] := by
  simp [clsF]; omega

/-- The bits of a format fit into the elements of the types that use it. -/
theorem packing_fits : ∀ et ∈ [8, 9, 10, 11, 12, 13],
    0 < (packing et).2.1 ∧ (packing et).2.1 ≤ 64 ∧ 0 < (fmtOf (packing et).2.2).bits ∧ (fmtOf (packing et).2.2).bits ≤ (packing et).2.1 := by
  decide

theorem getLsbD_signsOf : ∀ et ∈ [8, 9, 10, 11, 12, 13], ∀ q < 64, (signsOf et).getLsbD q =
    (decide (q / (packing et).2.1 < (packing et).1) && decide (q % (packing et).2.1 = (fmtOf (packing et).2.2).bits - 1)) := by decide
theorem getLsbD_elemBitsOf : ∀ et ∈ [8, 9, 10, 11, 12, 13], ∀ q < 64, (elemBitsOf et).getLsbD q =
    (decide (q / (packing et).2.1 < (packing et).1) && decide (q % (packing et).2.1 < (fmtOf (packing et).2.2).bits)) := by decide

/-- R117: a sign operation over elements gives the sign bits and copies every other bit of the elements. -/
theorem getLsbD_overElems_fpSign {et : Nat} (h : clsF et = true) (op : Nat) {x y : List DWord → DWord} {ops : List DWord} {a b : DWord}
    (hx : ∀ w i, x (ops.map (elemOf w i)) = elemOf w i a) (hy : ∀ w i, y (ops.map (elemOf w i)) = elemOf w i b) {q : Nat} (hq : q < 64) :
    (overElems et (fun f l => fpSign f op (x l) (y l)) ops).1.getLsbD q =
      ((elemBitsOf et).getLsbD q && if (signsOf et).getLsbD q then signGiven op (a.getLsbD q) (b.getLsbD q) else a.getLsbD q) := by
  have het := clsF_iff.mp h
  obtain ⟨hw, hw64, hpos, hfit⟩ := packing_fits et het
  rw [getLsbD_signsOf et het q hq, getLsbD_elemBitsOf et het q hq]
  generalize hp : packing et = p at *
  obtain ⟨n, w, t⟩ := p
  dsimp only at hw hw64 hpos hfit ⊢
  have hb : (fmtOf t).bits ≤ 64 := Nat.le_trans hfit hw64
  have hk : q % w < w := Nat.mod_lt _ hw
  have hqw : q / w * w + q % w = q := Nat.div_add_mod' q w
  rw [getLsbD_overElems hp hw _ (fun l k hk => ?above) ops hq, getLsbD_fpSign _ hb, hx, hy]
  case above => rw [getLsbD_fpSign _ hb, if_neg (by omega), decide_eq_false (by omega), Bool.false_and]
  by_cases htop : q % w = (fmtOf t).bits - 1
  · rw [if_pos htop, ← htop, getLsbD_elemOf w _ a hk, getLsbD_elemOf w _ b hk, hqw]
    have hlt : (fmtOf t).bits - 1 < (fmtOf t).bits := Nat.sub_one_lt_of_lt hpos
    cases decide (q / w < n) <;> simp [htop, hlt]
  · have hlt : q % w < (fmtOf t).bits - 1 ↔ q % w < (fmtOf t).bits := by omega
    rw [if_neg htop, getLsbD_elemOf w _ a hk, hqw]
    cases decide (q / w < n) <;> simp [htop, hlt]

/-- The sign bits are bits of the elements. -/
theorem elemBits_of_sign {et : Nat} (h : clsF et = true) {q : Nat} (hq : q < 64) (hs : (signsOf et).getLsbD q = true) :
    (elemBitsOf et).getLsbD q = true := by
  have het := clsF_iff.mp h
  obtain ⟨_, _, hpos, _⟩ := packing_fits et het
  rw [getLsbD_signsOf et het q hq, Bool.and_eq_true, decide_eq_true_eq, decide_eq_true_eq] at hs
  rw [getLsbD_elemBitsOf et het q hq, hs.2, decide_eq_true hs.1, decide_eq_true (Nat.sub_one_lt_of_lt hpos), Bool.and_self]

/-- The element of a missing operand. -/
theorem zero_eq_elemOf (w i : Nat) : (0 : DWord) = elemOf w i 0 := by simp [elemOf]

theorem overElems_fabs {et : Nat} (h : clsF et = true) (a : DWord) :
    overElems et (fun f l => fpSign f 0 (op0 l) 0) [a] = (a &&& elemBitsOf et &&& ~~~signsOf et, 0) := by
  refine Prod.ext (BitVec.eq_of_getLsbD_eq fun q hq => ?_) (overElems_flags_eq_zero et _ (fun _ _ => rfl) _)
  rw [getLsbD_overElems_fpSign h 0 (a := a) (b := 0) (fun _ _ => rfl) zero_eq_elemOf hq]
  simp only [BitVec.getLsbD_and, BitVec.getLsbD_not, hq, decide_true, Bool.true_and]
  cases (signsOf et).getLsbD q <;> simp [signGiven, Bool.and_comm]

theorem overElems_fneg {et : Nat} (h : clsF et = true) (a : DWord) :
    overElems et (fun f l => fpSign f 1 (op0 l) 0) [a] = ((a &&& elemBitsOf et) ^^^ signsOf et, 0) := by
  refine Prod.ext (BitVec.eq_of_getLsbD_eq fun q hq => ?_) (overElems_flags_eq_zero et _ (fun _ _ => rfl) _)
  rw [getLsbD_overElems_fpSign h 1 (a := a) (b := 0) (fun _ _ => rfl) zero_eq_elemOf hq]
  simp only [BitVec.getLsbD_xor, BitVec.getLsbD_and]
  cases hs : (signsOf et).getLsbD q
  · simp [Bool.and_comm]
  · simp [elemBits_of_sign h hq hs, signGiven]

theorem overElems_fsgn {et : Nat} (h : clsF et = true) (a b : DWord) :
    overElems et (fun f l => fpSign f 2 (op0 l) (op1 l)) [a, b] = ((a &&& elemBitsOf et &&& ~~~signsOf et) ||| (b &&& signsOf et), 0) := by
  refine Prod.ext (BitVec.eq_of_getLsbD_eq fun q hq => ?_) (overElems_flags_eq_zero et _ (fun _ _ => rfl) _)
  rw [getLsbD_overElems_fpSign h 2 (a := a) (b := b) (fun _ _ => rfl) (fun _ _ => rfl) hq]
  simp only [BitVec.getLsbD_or, BitVec.getLsbD_and, BitVec.getLsbD_not, hq, decide_true, Bool.true_and]
  cases hs : (signsOf et).getLsbD q
  · simp [Bool.and_comm]
  · simp [elemBits_of_sign h hq hs, signGiven]

/-- Settles O10: the elements of a pair are copied bit by bit but for their signs, and no element raises a flag. -/
theorem signOperations : Obligations.SignOperations := by
  unfold Obligations.SignOperations
  intro s u sw d a b e signs bits x hx h
  simp only [List.mem_cons, List.not_mem_nil, or_false] at hx
  obtain rfl | rfl | rfl := hx
  · exact h.fpOpResult fun hcls i => overElems_fabs hcls (e.get a i)
  · exact h.fpOpResult fun hcls i => overElems_fneg hcls (e.get a i)
  · exact h.fpOpResult fun hcls i => overElems_fsgn hcls (e.get a i) (e.get b i)

end Sys2Proof.Machine
end

section
/-! PROOFS. The values of patterns by their fields (R66), and with them classes and conversions (R119, R126 to R129). -/
namespace Sys2Proof.Machine

/-! ### Patterns by their fields (R66) -/

/-- R66: a format with infinities whose exponent of all ones is no number's and whose bias is a number's exponent. -/
structure Fmt.Ieee (f : Fmt) : Prop where
  noInf : f.noInf = false
  bits : f.bits ≤ 64
  bias_pos : 0 < f.bias
  bias_lt : f.bias < 2 ^ f.ew - 1

/-- f32, f64, f16 and bf16 are such formats. -/
theorem fmtOf_ieee : ∀ et ∈ [8, 9, 10, 11], (fmtOf et).Ieee := by
  intro et het
  simp only [List.mem_cons, List.not_mem_nil, or_false] at het
  obtain rfl | rfl | rfl | rfl := het <;> exact ⟨rfl, by decide, by decide, by decide⟩

/-- The pattern with sign s, exponent field e and fraction field m. -/
def Fmt.pattern (f : Fmt) (s : Bool) (e m : Nat) : Nat := ((if s then 2 ^ f.ew else 0) + e) * 2 ^ f.fw + m

section
variable {f : Fmt} {e m : Nat}

theorem pattern_lt (he : e < 2 ^ f.ew) (hm : m < 2 ^ f.fw) (s : Bool) : f.pattern s e m < 2 ^ f.bits := by
  have htop : (if s then 2 ^ f.ew else 0) + e + 1 ≤ 2 ^ (f.ew + 1) := by
    have := Nat.pow_succ 2 f.ew
    split <;> omega
  calc f.pattern s e m < ((if s then 2 ^ f.ew else 0) + e + 1) * 2 ^ f.fw := by unfold Fmt.pattern; rw [Nat.add_mul _ 1]; omega
    _ ≤ 2 ^ (f.ew + 1) * 2 ^ f.fw := Nat.mul_le_mul_right _ htop
    _ = 2 ^ f.bits := by rw [← Nat.pow_add, Fmt.bits]; congr 1; omega

theorem pattern_fraction (hm : m < 2 ^ f.fw) (s : Bool) : f.pattern s e m % 2 ^ f.fw = m := by
  rw [Fmt.pattern, Nat.mul_add_mod_self_right, Nat.mod_eq_of_lt hm]

theorem pattern_upper (hm : m < 2 ^ f.fw) (s : Bool) : f.pattern s e m / 2 ^ f.fw = (if s then 2 ^ f.ew else 0) + e := by
  rw [Fmt.pattern, Nat.mul_comm, Nat.mul_add_div (Nat.two_pow_pos _), Nat.div_eq_of_lt hm, Nat.add_zero]

theorem pattern_exponent (he : e < 2 ^ f.ew) (hm : m < 2 ^ f.fw) (s : Bool) : f.pattern s e m / 2 ^ f.fw % 2 ^ f.ew = e := by
  rw [pattern_upper hm]
  cases s <;> simp [Nat.mod_eq_of_lt he]

theorem pattern_sign (he : e < 2 ^ f.ew) (hm : m < 2 ^ f.fw) (s : Bool) : (f.pattern s e m / 2 ^ (f.ew + f.fw) == 1) = s := by
  rw [Nat.add_comm f.ew, Nat.pow_add, ← Nat.div_div_eq_div_mul, pattern_upper hm]
  cases s with
  | false => simp [Nat.div_eq_of_lt he]
  | true => rw [if_pos rfl, Nat.add_div_left _ (Nat.two_pow_pos _), Nat.div_eq_of_lt he]; rfl

/-- R66, R72: the value of a pattern by its fields. -/
theorem unpack_pattern (hf : f.Ieee) (he : e < 2 ^ f.ew) (hm : m < 2 ^ f.fw) (fz s : Bool) :
    unpack f fz (BitVec.ofNat 64 (f.pattern s e m)) =
      if e = 2 ^ f.ew - 1 then (if m = 0 then .inf s else .nan s f.fw m)
      else if e = 0 then .fin s (if fz && f.flush then 0 else m) (1 - (f.bias : Int) - f.fw)
      else .fin s (2 ^ f.fw + m) ((e : Int) - f.bias - f.fw) := by
  have hlt := pattern_lt he hm s
  have hnat : (BitVec.ofNat 64 (f.pattern s e m)).toNat % 2 ^ f.bits = f.pattern s e m := by
    rw [BitVec.toNat_ofNat, Nat.mod_eq_of_lt (Nat.lt_of_lt_of_le hlt (Nat.pow_le_pow_right (by decide) hf.bits)), Nat.mod_eq_of_lt hlt]
  unfold unpack
  simp only [hnat, pattern_fraction hm, pattern_exponent he hm, pattern_sign he hm, hf.noInf]
  simp

/-- R119: the class of a pattern by its fields. -/
theorem fpClass_pattern (hf : f.Ieee) (he : e < 2 ^ f.ew) (hm : m < 2 ^ f.fw) (s : Bool) :
    fpClass f (BitVec.ofNat 64 (f.pattern s e m)) =
      2 ^ (if e = 2 ^ f.ew - 1 then (if m = 0 then (if s then 0 else 7) else if m < 2 ^ (f.fw - 1) then 8 else 9)
           else if e = 0 then (if m = 0 then (if s then 3 else 4) else if s then 2 else 5) else if s then 1 else 6) := by
  unfold fpClass
  rw [unpack_pattern hf he hm]
  by_cases hones : e = 2 ^ f.ew - 1
  · rw [if_pos hones, if_pos hones]
    by_cases h0 : m = 0
    · cases s <;> simp [h0]
    · by_cases hq : m < 2 ^ (f.fw - 1) <;> simp [h0, hq]
  · rw [if_neg hones, if_neg hones]
    by_cases hzero : e = 0
    · by_cases h0 : m = 0 <;> cases s <;> simp [hzero, h0, hm]
    · cases s <;> simp [hzero]

end

/-! ### Classes and conversions -/

section
variable {s : State} {u : Cursor} {sw : Bool} {form : Env → Form}

theorem Issues.env_narrowLane (h : Issues s u sw form) (x : DWord) (d a : VReg) (i : Nat) :
    narrowLane ((s.beginSegment u sw).env u) x d a i = narrowLane (s.env u) x d a i := by
  simp only [narrowLane, h.env_et, h.env_rm, h.env_sat, h.env_fz, h.env_elem, h.env_word]

theorem Issues.env_widenLane (h : Issues s u sw form) (x : DWord) (d a : VReg) (i : Nat) :
    widenLane ((s.beginSegment u sw).env u) x d a i = widenLane (s.env u) x d a i := by
  simp only [widenLane, h.env_et, h.env_rm, h.env_sat, h.env_fz, h.env_elem, h.env_word]

end

/-- Settles O15: the class comes from the fields of the pattern; each conversion is a fixed-latency function of what the lane holds. -/
theorem classAndConversions : Obligations.ClassAndConversions := by
  unfold Obligations.ClassAndConversions
  refine ⟨fun z hz s e m he hm => ?fields, fun s u sw d a slot => ⟨fun h => ?fclass, fun h => ?cvt, fun h => ?cvtn, fun h => ?cvtw⟩⟩
  case fields =>
    simp only [List.mem_cons, List.not_mem_nil, or_false] at hz
    obtain rfl | rfl | rfl | rfl := hz
    · exact fpClass_pattern (fmtOf_ieee 8 (by decide)) he hm s
    · exact fpClass_pattern (fmtOf_ieee 9 (by decide)) he hm s
    · exact fpClass_pattern (fmtOf_ieee 10 (by decide)) he hm s
    · exact fpClass_pattern (fmtOf_ieee 11 (by decide)) he hm s
  case fclass => exact h.laneResult_of_eq 4 d rfl fun i => by rw [h.env_et, h.env_get]
  case cvt =>
    exact h.laneResult_of_eq 4 d (by rw [h.env_slot]) fun i => by
      simp only [h.env_et, h.env_rm, h.env_sat, h.env_fz, h.env_slot, h.env_get, h.env_word]
      rfl
  case cvtn => exact h.laneResult_of_eq 4 d rfl fun i => by rw [h.env_slot, h.env_narrowLane]
  case cvtw => exact h.laneResult_of_eq 4 d h.env_pair fun i => by rw [h.env_slot, h.env_widenLane]

end Sys2Proof.Machine
end

section
/-! PROOFS. The exact cases of the approximating functions: each from the value of its argument (R121, R124). -/
namespace Sys2Proof.Machine

/-! ### The values of zeros, infinities and 1 -/

section
variable {f : Fmt} (hf : f.Ieee) (s : Bool)
include hf

theorem unpack_zero : unpack f false (BitVec.ofNat 64 (signBit f s)) = .fin s 0 (1 - (f.bias : Int) - f.fw) := by
  have hlt := hf.bias_lt
  have hp : signBit f s = f.pattern s 0 0 := by cases s <;> simp [signBit, Fmt.pattern, Nat.pow_add]
  rw [hp, unpack_pattern hf (Nat.two_pow_pos _) (Nat.two_pow_pos _), if_neg (by omega)]
  rfl

theorem unpack_infinity : unpack f false (BitVec.ofNat 64 (f.infinity s)) = .inf s := by
  have hp : f.infinity s = f.pattern s (2 ^ f.ew - 1) 0 := by
    cases s <;> simp [Fmt.infinity, signBit, Fmt.pattern, Nat.pow_add, Nat.add_mul]
  have hlt := hf.bias_lt
  rw [hp, unpack_pattern hf (by omega) (Nat.two_pow_pos _), if_pos rfl, if_pos rfl]

theorem unpack_one : unpack f false (BitVec.ofNat 64 (f.bias * 2 ^ f.fw)) = .fin false (2 ^ f.fw) (-(f.fw : Int)) := by
  have hp : f.bias * 2 ^ f.fw = f.pattern false f.bias 0 := by simp [Fmt.pattern]
  have hlt := hf.bias_lt
  have hpos := hf.bias_pos
  rw [hp, unpack_pattern hf (by omega) (Nat.two_pow_pos _), if_neg (by omega), if_neg (by omega)]
  simp

end

/-- 2^n in units of 2^(−n) is 2^0. -/
theorem pow2Of_one (n : Nat) : pow2Of (2 ^ n) (-(n : Int)) = some 0 := by
  simp [pow2Of, Nat.log2_two_pow, Int.add_right_neg]

/-- 1 is delivered exactly. -/
theorem exactOf_one : ∀ et ∈ [8, 9, 10, 11], exactOf (fmtOf et) false 1 0 = (BitVec.ofNat 64 ((fmtOf et).bias * 2 ^ (fmtOf et).fw), 0) := by
  decide

/-! ### Each function at them -/

section
variable {f : Fmt} {x : DWord} {s : Bool} {p : Int} (et : Nat) {fz : Bool}

theorem fpRcp_of_zero (h : unpack f fz x = .fin s 0 p) : fpRcp f et fz x = (BitVec.ofNat 64 (f.infinity s), fDZ) := by
  simp [fpRcp, h]
theorem fpRcp_of_inf (h : unpack f fz x = .inf s) : fpRcp f et fz x = (BitVec.ofNat 64 (signBit f s), 0) := by
  simp [fpRcp, h]
theorem fpRcp_of_one {n : Nat} (h : unpack f false x = .fin false (2 ^ n) (-(n : Int))) : fpRcp f et false x = exactOf f false 1 0 := by
  simp [fpRcp, h, pow2Of_one]
theorem fpRsq_of_zero (h : unpack f fz x = .fin s 0 p) : fpRsq f et fz x = (BitVec.ofNat 64 (f.infinity s), fDZ) := by
  simp [fpRsq, h]
theorem fpRsq_of_one {n : Nat} (h : unpack f false x = .fin false (2 ^ n) (-(n : Int))) : fpRsq f et false x = exactOf f false 1 0 := by
  simp [fpRsq, h, pow2Of_one]
theorem fpEx2_of_zero (h : unpack f fz x = .fin s 0 p) : fpEx2 f et fz x = exactOf f false 1 0 := by
  simp [fpEx2, h]
theorem fpEx2_of_inf (h : unpack f fz x = .inf s) : fpEx2 f et fz x = if s then (0, 0) else (BitVec.ofNat 64 (f.infinity false), 0) := by
  simp [fpEx2, h]
theorem fpLg2_of_zero (h : unpack f fz x = .fin s 0 p) : fpLg2 f et fz x = (BitVec.ofNat 64 (f.infinity true), fDZ) := by
  simp [fpLg2, h]
theorem fpLg2_of_one {n : Nat} (h : unpack f fz x = .fin false (2 ^ n) (-(n : Int))) : fpLg2 f et fz x = (0, 0) := by
  simp [fpLg2, h, pow2Of_one, Nat.log2_two_pow, Int.add_right_neg, exactOf, signBit]
theorem fpSin_of_zero (h : unpack f fz x = .fin s 0 p) : fpSinCos false f et fz x = (BitVec.ofNat 64 (signBit f s), 0) := by
  simp [fpSinCos, h]
theorem fpCos_of_zero (h : unpack f fz x = .fin s 0 p) : fpSinCos true f et fz x = exactOf f false 1 0 := by
  simp [fpSinCos, h]
/-- The default NaN, from a source that is no NaN. -/
theorem fpSinCos_of_inf (cos : Bool) (h : unpack f fz x = .inf s) : fpSinCos cos f et fz x = (BitVec.ofNat 64 (f.defaultNan false), fNV) := by
  simp [fpSinCos, h, finishOp, firstNan]

end

/-- Settles O14: the function at each value whose pattern is given. -/
theorem approximationExactCases : Obligations.ApproximationExactCases := by
  unfold Obligations.ApproximationExactCases
  intro et het f p one inf zero
  have hf : f.Ieee := fmtOf_ieee et het
  have hone : exactOf f false 1 0 = (one, 0) := exactOf_one et het
  have h1 : unpack f false one = .fin false (2 ^ f.fw) (-(f.fw : Int)) := unpack_one hf
  refine ⟨fun s => ?_, fpLg2_of_one et h1, (fpRcp_of_one et h1).trans hone, (fpRsq_of_one et h1).trans hone⟩
  have h0 : unpack f false (zero s) = .fin s 0 (1 - (f.bias : Int) - f.fw) := unpack_zero hf s
  have hi : unpack f false (inf s) = .inf s := unpack_infinity hf s
  refine ⟨fpRcp_of_zero et h0, fpRsq_of_zero et h0, fpRcp_of_inf et hi, (fpEx2_of_zero et h0).trans hone, ?ex2, fpLg2_of_zero et h0,
    fpSin_of_zero et h0, (fpCos_of_zero et h0).trans hone, fpSinCos_of_inf et false hi, fpSinCos_of_inf et true hi⟩
  case ex2 =>
    rw [fpEx2_of_inf et hi]
    cases s <;> rfl

end Sys2Proof.Machine
end
